-- ==== Sys2Proof/Word.lean ====
section
/-! DEFINITION. The word types of the device and the sparse table that every addressed store of the model is held in.
Bits are numbered from 0 at the least significant end and multi-byte fields are little-endian (R9). -/

namespace Sys2Proof

/-- One byte. -/
abbrev Byte := BitVec 8
/-- A 32-bit word: a 32-bit register, or an FP32 or INT32 element. -/
abbrev Word := BitVec 32
/-- A 64-bit word: a 64-bit register. -/
abbrev DWord := BitVec 64
/-- The 128-bit word of the tile stores, the cluster stores, LPDDR and the weight arrays (R83, R307). -/
abbrev QWord := BitVec 128
/-- A run of bytes in ascending address order. -/
abbrev Bytes := List (BitVec 8)
/-- A sparse table: (key, value) pairs with strictly rising keys (`Tab.wf`). -/
abbrev Tab (α : Type) := List (Nat × α)

end Sys2Proof
end

