-- ==== Sys2Proof/Syntax.lean ====
section
/-! DEFINITION. The commands of the block: one constructor for each row of spec/opcode_table.json, with the operands
that the outside world brings to that step. A row that acts on a host command already accepted (R394), on a tile's next
command (R138) or on a frame already received (R345) takes its operands from the state and carries here only what
arrives with the step itself: the bytes a host DMA returned, the levels of pins, the bits a sense read wrongly. -/

namespace Sys2Proof

/-- What page senses read wrongly: for a page key (slab, plane, physical block, page packed into one number), the
positions of the bits of the 36,864-bit raw page that differ from what was programmed (R212, R215). -/
abbrev Senses := List (Nat × List Nat)
/-- What host DMA reads of single 64-bit words return, by bus address; an address not listed is a failed read. -/
abbrev HostWords := List (Nat × BitVec 64)
/-- Bits that links invert in transit: (word of the transfer, bit 0 to 136 of the coded word, hop of the route) (R190). -/
abbrev LinkFlips := List (Nat × Nat × Nat)

/-- The levels of the strap balls at the rising edge of PORST_N (R526, R527). -/
structure Straps where
  bootSrc : BitVec 2
  pcieMode : Bool
  ethMode : Bool
  envDefault : BitVec 2
  sppEn : Bool
  consortRole : Bool
  eccCompat : Bool
  tickSrc : Bool
  deriving DecidableEq, Repr

/-- The rails that carry a monitor (R570). -/
inductive Rail where
  | vddCore | vddSoc | vddNv | vddq | vddIo
  deriving DecidableEq, Repr

/-- A decoded picture as it leaves the decoder in display order (R357): luma and 4:2:0 chroma samples in row-major
order, and what R363 and R367 take from the stream. -/
structure Picture where
  width : Nat
  height : Nat
  /-- 10-bit samples (H.265 Main 10); reduced to 8 bits under R365. -/
  tenBit : Bool
  /-- VUI matrix_coefficients, when present. -/
  matrix : Option Nat
  /-- VUI video_full_range_flag, when present. -/
  fullRange : Option Bool
  /-- The picture is an IDR picture (R367). -/
  idr : Bool
  /-- The picture is a random access point: IDR (H.264) or IRAP (H.265) (R358). -/
  randomAccess : Bool
  y : List Nat
  cb : List Nat
  cr : List Nat
  deriving DecidableEq, Repr

/-- What the decoder answers for one access unit (R357, R358). -/
inductive Decoded where
  /-- The access unit decoded to a picture. -/
  | picture (p : Picture)
  /-- The access unit failed to decode. -/
  | failed
  /-- The access unit exceeds the profiles or limits of R357. -/
  | unsupported
  /-- The pictures need more video-region frames than the stream holds (R361). -/
  | memory
  deriving DecidableEq, Repr

/-- What makes a core's fault (R447): a fetch or execute fault, or a word of its active code bank or of its data memory whose
stored bits have inverted, by a mask over the 128 data bits and the 9 check bits above them. -/
inductive CoreFault where
  | exec
  | word (data : Bool) (w : Nat) (flips : Nat)
  deriving DecidableEq, Repr

/-- Words of the video region in which intake traffic finds wrong bits: the address, and whether the word is uncorrectable
(R362). -/
abbrev VideoErrors := List (Nat × Bool)

/-- A write of 1 to the SAT bit of the counter at an offset, and what an occurrence in the cycle of the write counts: 0 where there
is none (R553). -/
structure SatClear where
  offset : Nat
  meets : Nat
  deriving DecidableEq, Repr

/-- A plain read of BAR0: its offset, whether it is of 64 bits, and its byte enables (R13, R14). -/
structure BarRead where
  offset : Nat
  wide : Bool
  enables : Nat
  deriving DecidableEq, Repr

/-- What goes wrong in a transfer of a tile: bits that links invert in its flits (R190), and the cycles for which a hardware fault of
the LPDDR controller or of a cluster store's port holds it up, 0 for none (R47, R295). -/
structure TransferFaults where
  flips : LinkFlips
  stall : Nat
  deriving DecidableEq, Repr

/-- A gather or scatter of a tile, with what goes wrong in it as in a transfer (R47, R165, R190). -/
structure TileGather where
  tile : Nat
  flips : LinkFlips
  stall : Nat
  deriving DecidableEq, Repr

/-- What the decoder brings for one access unit: its answer, how many decoded pictures leave then, in display order, and the
words of the video region that its traffic found wrong (R357, R358, R362). -/
structure DecodeResult where
  answer : Decoded
  leaving : Nat
  errors : VideoErrors
  /-- The senses of the carry refill that the sentry's tick of a pizzicato cycle makes (R277, R501). -/
  senses : Senses
  deriving DecidableEq, Repr

/-- What the shaper finds in a picture: the position blocks that used a pixel of a marked word, and the words that were
corrected, or uncorrectable (R362). -/
structure ShapeMarks where
  blocks : List Nat
  errors : VideoErrors
  deriving DecidableEq, Repr

/-- What the start of a page program senses: the zeros that the blank check finds on a page that holds nothing, and the
senses of the page that a copy reads, round by round (R215, R225). -/
structure CopySenses where
  zeros : Nat
  rounds : List (List Nat)
  deriving DecidableEq, Repr

/-- What the start-up scan reads of the journal and of the pages of slabs to rebuild: unreadable copies of the journal, its
unreadable records, and the senses of the pages (R234, R235). -/
structure ScanReads where
  badJournals : Nat
  badRecords : List Nat
  senses : Senses
  deriving DecidableEq, Repr

/-- The coded bytes of a picture: of its parameter sets and of its slice (R374, R375). -/
structure CodedPicture where
  params : List Bytes
  slice : Bytes
  deriving DecidableEq, Repr

/-- The commands of the block. -/
inductive Instr where
  /-- LOAD_PROGRAM (R399): Host command that checks a tick-program image under the load checks and holds it for a service. -/
  | loadProgram (data : Option Bytes)
  /-- BIND_MODEL (R271): Host command that stages a model-slot binding for a loaded service that is not running. -/
  | bindModel
  /-- START_SERVICE (R399): Host command that admits a loaded program and stages its start for a target boundary. -/
  | startService (hist : Option Bytes)
  /-- STOP_SERVICE (R398): Host command that stages the stop of a service for a target boundary. -/
  | stopService
  /-- SUBMIT_INPUT (R400): Host command that DMAs a payload into an input's FILL buffer. -/
  | submitInput
  /-- INPUT_DMA_DONE (R400): A SUBMIT_INPUT payload has fully landed, and its buffer becomes READY. -/
  | inputDmaDone (data : Option Bytes)
  /-- NV_PROGRAM (R265): Host command that verifies, decrypts and programs a weight image into a model slot. -/
  | nvProgram (head : Option Bytes)
  /-- NV_ERASE (R262): Host command that defines, clears or releases a slot, or raw-erases unowned stripes. -/
  | nvErase
  /-- MODEL_SWAP (R274): Host command that stages a live change of a running service's binding for a boundary. -/
  | modelSwap
  /-- SCRUB (R320): Host command that scrubs a range of one tier and writes a summary record. -/
  | scrub (senses : Senses) (dmaOk : Bool)
  /-- FILL (R317): Host command that fills an LPDDR range with a repeated pattern using the fill engine. -/
  | fill
  /-- FW_STAGE (R452): Host command that loads and verifies a firmware image into a core's other bank. -/
  | fwStage (data : Option Bytes)
  /-- FW_ACTIVATE (R453): Host command that stages the activation of a staged firmware image at a boundary. -/
  | fwActivate
  /-- ATTEST (R517): Host command that produces a signed attestation quote of the device at the next boundary. -/
  | attest
  /-- CONFIG_EPOCH (R401): Host command that stages a list of register writes to be applied at a target boundary. -/
  | configEpoch (list : Option Bytes)
  /-- QUERY (R402): Host command that writes slot records, a service record or a history record to host memory. -/
  | query (dmaOk : Bool)
  /-- CANCEL (R398): A staging command with the CANCEL flag set withdraws a staged, unapplied change and its whole commit set. -/
  | cancel
  /-- DBL_CMD_TAIL (R391): A doorbell write that advances a command ring's tail after the range check. -/
  | dblCmdTail (page : Nat) (value : Word)
  /-- DBL_CPL_HEAD (R391): A doorbell write that advances a completion ring's head after the range check. -/
  | dblCplHead (page : Nat) (value : Word)
  /-- DBL_RES_HEAD (R391): A doorbell write that advances a result ring's head after the range check. -/
  | dblResHead (page : Nat) (value : Word)
  /-- COMMAND_ACCEPT (R394): SCH accepts the next command from the rings by priority once its completion ring has a free entry. -/
  | commandAccept (entry : Option Bytes)
  /-- COMMAND_COMPLETE (R403): A command's work ends and its completion is posted to its completion ring. -/
  | commandComplete (dmaOk : Bool)
  /-- COALESCE_TIMEOUT (R387): The coalescing delay of a ring expires, and the ring signals its MSI-X vector. -/
  | coalesceTimeout (result : Bool) (ring : Nat)
  /-- TIL_MEM_READ (R98): A write of READ to TIL_MEM_CTL starts an indirect read of a tile-store word while the tile is FREE. -/
  | tilMemRead (tile : Nat)
  /-- TIL_MEM_WRITE (R98): A write of WRITE to TIL_MEM_CTL starts an indirect write of a tile-store word while the tile is FREE. -/
  | tilMemWrite (tile : Nat)
  /-- TIL_MEM_ACCESS_DONE (R98): An indirect tile-store access completes, and BUSY falls. -/
  | tilMemAccessDone (tile : Nat)
  /-- TIL_INVAL (R98): A write of GO to TIL_INVAL starts a bulk invalidate of a FREE tile's store. -/
  | tilInval (tile : Nat)
  /-- BULK_INVALIDATE_DONE (R85): A bulk invalidate of a tile store completes after 256 cycles. -/
  | bulkInvalidateDone (tile : Nat)
  /-- SLACK_RST (R62): A write of SLACK_RST resets TCK_SLACK_MIN to its maximum. -/
  | slackRst (value : Word)
  /-- TCK_PERIOD_WRITE (R61): A host write of the requested tick period, accepted or rejected under the class A and admission checks. -/
  | tckPeriodWrite (value : Word)
  /-- TCK_SRC_WRITE (R60): A host write of the requested tick source, which takes effect at the next boundary unless rejected. -/
  | tckSrcWrite (value : Word)
  /-- TCK_PHASE_WRITE (R60): A host write of the PTP phase, which takes effect at the next boundary unless rejected. -/
  | tckPhaseWrite (value : Word)
  /-- TCK_TICKIN_WRITE (R61): A host write of the TICK_IN edge and tolerance, rejected while class A runs. -/
  | tckTickinWrite (value : Word)
  /-- NVS_PAGE_READ (R250): A write of READ to NVS_PAGE_CTL starts a host page read in reserved sense slots. -/
  | nvsPageRead
  /-- NVS_PAGE_READ_DONE (R250): A host page read completes with its data, tag and result. -/
  | nvsPageReadDone (rounds : List (List Nat))
  /-- CMP_TAB_LOAD (R336): A write of LOAD to CMP_TAB_CTL requests the load of CMP_TAB_BUF into a coding-table slot. -/
  | cmpTabLoad (slot : Nat)
  /-- CMP_TAB_CLEAR (R336): A write of CLEAR to CMP_TAB_CTL requests that a coding-table slot be emptied. -/
  | cmpTabClear (slot : Nat)
  /-- CMP_TAB_APPLY (R336): A waiting table operation is applied once the slot's in-flight count reaches zero. -/
  | cmpTabApply
  /-- CMP_REGION_WRITE (R340): A write to a coded-region register, ignored when it breaks the region rules. -/
  | cmpRegionWrite (size : Bool) (value : DWord)
  /-- MEM_POOL_SETTING_WRITE (R298): A write of MEM_POOL_BASE or MEM_POOL_SIZE, accepted only while the pool is disabled and the placement is legal. -/
  | memPoolSettingWrite (size : Bool) (value : Word)
  /-- MEM_POOL_EN_WRITE (R298): A write of MEM_CTL.POOL_EN, whose clearing is refused while a pool range exists. -/
  | memPoolEnWrite (value : Word)
  /-- HIF_RING_ENABLE (R389): A write of HIF_RING_CFG.EN at 1 enables a ring or is refused. -/
  | hifRingEnable (value : Word)
  /-- HIF_RING_DISABLE (R390): A write that clears HIF_RING_CFG.EN disables a ring or is refused. -/
  | hifRingDisable (value : Word)
  /-- RING_DISABLE_DONE (R390): The last accepted command of a disabled command ring posts its completion, and EN reads 0. -/
  | ringDisableDone (ring : Nat)
  /-- HIF_BAR4_BASE_WRITE (R386): A write of the BAR4 window base, applied to BAR4 requests that arrive later. -/
  | hifBar4BaseWrite (value : Word)
  /-- HIF_EMU_EN_WRITE (R407): A write of HIF_EMU_CTL.EN that turns BX-416 emulation on or off, or is ignored. -/
  | hifEmuEnWrite (value : Word)
  /-- SEC_BOOT_GO (R446): A write of GO to SEC_BOOT_CTL starts a hosted firmware-bundle load. -/
  | secBootGo
  /-- HOSTED_LOAD_DONE (R446): A hosted bundle load ends, and RESULT is reported. -/
  | hostedLoadDone (bundle : Option Bytes)
  /-- SPP_SCMD_GO (R470): A write of GO submits a signed soundpost command to SEC. -/
  | sppScmdGo
  /-- SIGNED_COMMAND_CHECKED (R470): SEC finishes checking a signed soundpost command and accepts it as a write set or rejects it. -/
  | signedCommandChecked
  /-- SPP_SPI_READ (R469): An SPP_SPI READ transaction returns the soundpost or TCK register in force. -/
  | sppSpiRead (mosi : Bytes) (edges : Nat)
  /-- SPP_SPI_WRITE (R469): An SPP_SPI WRITE transaction writes a value into the shadow. -/
  | sppSpiWrite (mosi : Bytes) (edges : Nat)
  /-- SPP_SPI_COMMIT (R469): An SPP_SPI COMMIT transaction makes the shadow writes a pending write set. -/
  | sppSpiCommit (mosi : Bytes) (edges : Nat)
  /-- SPP_SPI_ABORT (R469): An SPP_SPI ABORT transaction discards the shadow. -/
  | sppSpiAbort (mosi : Bytes) (edges : Nat)
  /-- SPP_SPI_STATUS (R469): An SPP_SPI STATUS transaction returns SPP_COMMIT. -/
  | sppSpiStatus (mosi : Bytes) (edges : Nat)
  /-- CNS_LEAVE (R421): A write of CNS_CTL.LEAVE ends the consort epoch at the next boundary. -/
  | cnsLeave (value : Word)
  /-- CNS_EN_WRITE (R421): A write of CNS_CTL.EN enables the consort function, or ends the epoch when it clears EN. -/
  | cnsEnWrite (value : Word)
  /-- FORM (R423): A write of CNS_EPOCH_CTL.FORM on the leader allows a proposal with unequal epoch fields. -/
  | form (value : Word)
  /-- DISSOLVE (R427): A write of CNS_EPOCH_CTL.DISSOLVE on the leader sends ABORT KIND 1 to end the epoch. -/
  | dissolve (value : Word)
  /-- CNS_PLAN_WRITE (R437): A write of a CNS_PLAN register, whose bytes for staged or running services stay unchanged. -/
  | cnsPlanWrite (index : Nat) (value : Word)
  /-- ENV_REQ_WRITE (R480): A host write of PWR_CTL.ENV_REQ that requests a power envelope. -/
  | envReqWrite (value : Word)
  /-- SLEEP_REQ_REST (R493): A write of REQ at REST requests retention sleep, refused under the listed causes. -/
  | sleepReqRest
  /-- SLEEP_REQ_PIZZICATO (R500): A write of REQ at PIZZICATO requests pizzicato mode after its added checks. -/
  | sleepReqPizzicato
  /-- PWR_WAKE_GO (R496): A write of PWR_WAKE.GO wakes the device when PCIE_EN is 1. -/
  | pwrWakeGo
  /-- PAD_RELEASE (R498): A write of PWR_PAD_CTL.RELEASE releases the held pads to their functional values. -/
  | padRelease
  /-- PROVISION (R512): A write of SEC_CTL.PROVISION burns OWNER_HASH from SEC_PROV_BUF once. -/
  | provision
  /-- SVN_COMMIT (R513): A write of SEC_CTL.SVN_COMMIT raises the fused minimum firmware SVN. -/
  | svnCommit
  /-- DEVICE_RESET_REQUEST (R537): A write of ID_RESET_CTL with DEVICE and KEY starts a device reset, or is refused. -/
  | deviceResetRequest (value : Word)
  /-- EVT_LOG_RD_WRITE (R547): A host write of the event-log consumer index, accepted within range. -/
  | evtLogRdWrite (value : Word)
  /-- VID_STREAM_CTL_WRITE (R380): A write of a stream's control register that enables or disables the stream, or is ignored. -/
  | vidStreamCtlWrite (value : Word)
  /-- VID_ENC_CTL_WRITE (R374): A write of an encoder's control register that enables it, refused for capacity, or disables it. -/
  | vidEncCtlWrite (value : Word)
  /-- VID_MEM_WRITE (R361): A write of the video-region base or size, ignored while streams or encoders are enabled or on overlap. -/
  | vidMemWrite (size : Bool) (value : Word)
  /-- INT_PORT_CTL_WRITE (R378): A write of a port control register, whose SPEED and FEC stay unchanged while the port is enabled. -/
  | intPortCtlWrite (port : Nat) (value : Word)
  /-- COUNTER_SAT_CLEAR (R551): A write of 1 to a counter's SAT bit clears SAT and zeroes COUNT. -/
  | counterSatClear (clear : SatClear)
  /-- REGISTER_WRITE (R10): A host write to a register that has no row of its own acts under its access code. -/
  | registerWrite (offset : Nat) (wide : Bool) (value : DWord)
  /-- REG64_LOW_HALF_READ (R13): A 32-bit read of a 64-bit register's low half latches its high half. Any
  other read of BAR0 comes as this row too: of 32 or 64 bits, with its byte enables (R13, R14). -/
  | reg64LowHalfRead (read : BarRead)
  /-- REG64_LOW_HALF_WRITE (R13): A 32-bit write of a 64-bit register's low half is held until the high half is written. -/
  | reg64LowHalfWrite (offset : Nat) (value : Word)
  /-- PARTIAL_BYTE_WRITE (R14): A write with partial byte enables is discarded and raises an access error. -/
  | partialByteWrite (offset : Nat)
  /-- UNMAPPED_ACCESS (R15): An access to an unmapped BAR0 offset reads zero or is discarded, and raises an access error. -/
  | unmappedAccess (offset : Nat) (write : Bool)
  /-- BAR4_READ (R386): A host read through BAR4 of T3 in free slots. -/
  | bar4Read (offset : Nat) (length : Nat)
  /-- BAR4_WRITE (R386): A host write through BAR4 into T3 in free slots, discarded on reserved ranges. -/
  | bar4Write (offset : Nat) (data : Bytes)
  /-- BAR2_READ (R407): A host read of the BAR2 BX-416 emulation window. -/
  | bar2Read (offset : Nat)
  /-- BAR2_WRITE (R407): A host write to the BAR2 BX-416 emulation window, serviced by SCH. -/
  | bar2Write (offset : Nat) (value : Word)
  /-- SMBUS_ADDR (R578): An SMBus ADDR block write sets the BAR0 offset for reads. -/
  | smbusAddr (offset : Nat) (pec : Option Byte)
  /-- SMBUS_READ (R578): An SMBus READ returns the register at ADDR and advances ADDR. -/
  | smbusRead
  /-- SMBUS_WRITE (R578): An SMBus WRITE writes a value to a BAR0 offset reachable over SMBus. -/
  | smbusWrite (offset : Nat) (value : Word) (pec : Option Byte)
  /-- SMBUS_CLOCK_TIMEOUT (R578): SMBus clock held low for more than 25 ms resets the target. -/
  | smbusClockTimeout
  /-- BYPASS (R580): JTAG BYPASS instruction. -/
  | bypass
  /-- IDCODE (R580): JTAG IDCODE instruction returns 0x1086_4A4B. -/
  | idcode
  /-- SAMPLE_PRELOAD (R580): JTAG SAMPLE/PRELOAD instruction. -/
  | samplePreload
  /-- EXTEST (R581): JTAG EXTEST instruction, acting as BYPASS outside reset while SPP_EN is 1. -/
  | extest
  /-- CLAMP (R581): JTAG CLAMP instruction, acting as BYPASS outside reset while SPP_EN is 1. -/
  | clamp
  /-- HIGHZ (R581): JTAG HIGHZ instruction, acting as BYPASS outside reset while SPP_EN is 1. -/
  | highz
  /-- JTAG_RESET (R536): TRST_N assertion resets the test access port only. -/
  | jtagReset
  /-- TICK_BOUNDARY (R19): A tick-source event makes boundary n and runs the fixed boundary-window sequence. -/
  | tickBoundary (dmaOk : Bool) (backing : HostWords) (senses : Senses)
  /-- SLEEP_ENTRY (R494): An accepted sleep request quiesces NV and DMA after the last boundary and powers down to REST or PIZZICATO. -/
  | sleepEntry
  /-- TICK_IN_EDGE (R58): An edge on TICK_IN is accepted as a boundary, or ignored as early. -/
  | tickInEdge (falling : Bool)
  /-- TICK_IN_TIMEOUT (R58): No TICK_IN edge arrives by PERIOD_US + TOL_US, and the device makes the boundary itself. -/
  | tickInTimeout
  /-- BOUNDARY_GAP (R472): No boundary within twice the period while class A runs sets GAP and ALERT_A. -/
  | boundaryGap
  /-- NOP (R138): Tile command that does nothing for 2 cycles. -/
  | nop (tile : Nat)
  /-- LKA (R142): Tile command that runs a layer's lookup-accumulate steps, drone work, drain and requantisation. -/
  | lka (tile : Nat)
  /-- VEC (R147): Tile command that performs a vector sub-operation over elements in the tile store. -/
  | vec (tile : Nat)
  /-- FTAB (R80): Tile command that loads a function-table slot from the tile store in 66 cycles. -/
  | ftab (tile : Nat)
  /-- XFER (R157): Tile command that issues a tensor transfer between the tile store and a remote. -/
  | xfer (tile : Nat) (faults : TransferFaults)
  /-- GATHER (R165): Tile command that gathers or scatters rows chosen by an index stream. -/
  | gather (op : TileGather)
  /-- SLAB_FILL (R168): Tile command FILL that reads the tile's slab into a staging half. -/
  | slabFill (tile : Nat)
  /-- HAND (R173): Tile command that hands data to a consumer tile's slot. -/
  | hand (tile : Nat) (flips : LinkFlips)
  /-- STAGE (R174): Tile command that takes a hand-over from a counter, or waits for one. -/
  | stage (tile : Nat)
  /-- BAR (R192): Tile command that arrives at and/or waits on a barrier instance. -/
  | bar (tile : Nat)
  /-- BARRIER_COMPLETE (R192): The last arrival completes a barrier instance, which reaches every tile 12 cycles later. -/
  | barrierComplete (network : Nat)
  /-- SEM (R197): Tile command that signals or waits on a neighbour semaphore. -/
  | sem (tile : Nat)
  /-- SEMAPHORE_WAIT_END (R153): A semaphore wait ends at the later of its planned cycle and the signal. -/
  | semaphoreWaitEnd (tile : Nat)
  /-- EVT (R196): Tile command that raises or waits on an event line. -/
  | evt (tile : Nat)
  /-- EVENT_LINE_WAIT_END (R196): An event-line wait ends when the source's raise count reaches it. -/
  | eventLineWaitEnd (tile : Nat)
  /-- RANGE (R155): Tile command that combines range observations, runs the fall-back if needed and writes range result records. -/
  | rangeCmd (tile : Nat)
  /-- END (R137): Tile command that ends the tile's tick program, and the tile becomes DONE. -/
  | endProg (tile : Nat)
  /-- TRANSFER_DONE (R159): A transfer, gather or hand-over completes at its DONE cycle, freeing its place. -/
  | transferDone (tile : Nat)
  /-- SLAB_PAGE_DELIVERY (R216): A fill delivers one page on the fast path, corrected, marked or zero. -/
  | slabPageDelivery (tile : Nat) (flips : List Nat)
  /-- REPAIR_ROUND (R217): The slab repair engine finishes a 1.6 µs round for a page that entered repair. -/
  | repairRound (tile : Nat) (flips : List Nat)
  /-- PTP_MESSAGE (R349): A PTP message is received and timestamped by the slave-only PTP clock. -/
  | ptpMessage
  /-- PTP_SYNC_TIMEOUT (R350): No Sync arrives for 3 s, and the PTP clock becomes unlocked. -/
  | ptpSyncTimeout
  /-- PPS_IN_EDGE (R351): A rising edge on PPS_IN is timestamped. -/
  | ppsInEdge
  /-- PPS_OUT_SECOND (R351): At each whole PTP second PPS_OUT is driven high for 1 ms. -/
  | ppsOutSecond
  /-- PLL_LOCK_LOSS (R482): A PLL feeding the arithmetic clock loses lock, and the clock switches at once. -/
  | pllLockLoss (pll : Nat)
  /-- PLL_RELOCK (R482): A PLL locks again, and the envelope may leave E30 from the next boundary. -/
  | pllRelock (pll : Nat)
  /-- REFCLK_MISSING (R574): SYS_REFCLK missing for 1 µs switches ticks to the internal oscillator. -/
  | refclkMissing
  /-- REFCLK_RETURN (R574): SYS_REFCLK returns, and the next boundary is timed from it again. -/
  | refclkReturn
  /-- ETH_FRAME_RX (R345): An Ethernet frame is received and accepted or dropped by VLAN, size and IP rules. -/
  | ethFrameRx (port : Nat) (frame : Bytes)
  /-- ARP_REQUEST (R346): An ARP request for the port's address is answered. -/
  | arpRequest
  /-- ICMP_ECHO (R346): An ICMP echo request is answered while ICMP_EN is 1. -/
  | icmpEcho
  /-- IGMP_QUERY (R348): An IGMP query is answered, or switches the port into IGMPv2 compatibility. -/
  | igmpQuery
  /-- ARP_REFRESH (R347): 10 s before a dynamic ARP entry expires the device requests the address again. -/
  | arpRefresh
  /-- ARP_EXPIRY (R347): A dynamic ARP entry expires 300 s after it was learnt. -/
  | arpExpiry
  /-- RTP_PACKET (R353): An RTP packet of a camera stream enters the stream's jitter buffer. -/
  | rtpPacket
  /-- SSRC_RELEASE (R353): An adopted SSRC is released after 1 s without a packet. -/
  | ssrcRelease (stream : Nat)
  /-- JITTER_TIMEOUT (R356): An access unit not complete JITTER_MS after its first packet is declared lost. -/
  | jitterTimeout (stream : Nat)
  /-- DECODE_DONE (R357): The decoder finishes a picture, or fails it. -/
  | decodeDone (stream : Nat) (result : DecodeResult)
  /-- SHAPE_DONE (R367): The shaper finishes a camera buffer, which becomes READY. -/
  | shapeDone (service : Nat) (snap : Nat) (marks : ShapeMarks)
  /-- DATAGRAM_TX (R372): A queued event datagram leaves its port, or is dropped for link or next hop. -/
  | datagramTx (port : Nat)
  /-- ETH_LINK_DOWN (R378): An Ethernet port loses link. -/
  | ethLinkDown (port : Nat)
  /-- ETH_LINK_UP (R378): An Ethernet port gains link. -/
  | ethLinkUp (port : Nat)
  /-- TOKEN_SEND (R415): At 100 µs after the boundary and every 200 µs the member sends a TOKEN copy, or a JOIN outside an epoch. -/
  | tokenSend
  /-- VERDICT (R417): At DEADLINE_US after the boundary the device forms the AGREE or DISAGREE verdict. -/
  | verdict
  /-- TOKEN (R417): A TOKEN frame from a member is received for the verdict. -/
  | token
  /-- JOIN (R422): A JOIN frame from a member is received by the leader. -/
  | join
  /-- PROPOSE (R424): A PROPOSE frame is received, and the member stages the epoch and answers ACCEPT, or not. -/
  | propose
  /-- ACCEPT (R424): An ACCEPT frame is received by the leader. -/
  | accept
  /-- ABORT (R425): An ABORT frame withdraws a staged epoch or ends the epoch at its boundary T. -/
  | abortFrame
  /-- PROPOSE_TIMEOUT (R425): No accepting ACCEPT from every member by tick T − 4 makes the leader send ABORT. -/
  | proposeTimeout
  /-- ARM (R428): An ARM frame reports a member's consort change armed or failed to the leader. -/
  | arm
  /-- APPLY (R428): An APPLY frame sets the consort tick at which armed changes apply. -/
  | applyFrame
  /-- CONSORT_CANCEL (R428): A CANCEL frame cancels every armed change of its KIND. -/
  | consortCancel
  /-- AGREEMENT_TIMEOUT (R282): A member not armed within 250 ticks makes the leader cancel the agreement. -/
  | agreementTimeout (kind : Nat)
  /-- TENSOR (R431): A TENSOR frame fills a Worham input buffer, or is dropped. -/
  | tensor
  /-- TENSOR_TX (R430): A Worham output of the previous tick is sent as TENSOR frames. -/
  | tensorTx
  /-- CHAIN_CMD (R432): A CHAIN_CMD frame opens a chained session at its target or is forwarded. -/
  | chainCmd
  /-- CHAIN_DATA (R433): A CHAIN_DATA frame is accepted at NEXT by the target or forwarded. -/
  | chainData
  /-- CHAIN_CREDIT (R433): A CHAIN_CREDIT frame gives the leader credit up to LIMIT. -/
  | chainCredit
  /-- CHAIN_STATUS (R433): A CHAIN_STATUS frame completes the leader's chained command. -/
  | chainStatus
  /-- CHAIN_CREDIT_TIMER (R433): The target sends credit at least every 10 ms while a session is open. -/
  | chainCreditTimer (session : Nat)
  /-- CHAIN_RESEND (R433): NEXT stalled for 20 ms makes the leader send again from NEXT. -/
  | chainResend (session : Nat)
  /-- CHAIN_TIMEOUT (R284): 1 s without credit, completion or frame ends a chained command as CHAIN_LOST or interrupted. -/
  | chainTimeout (session : Nat)
  /-- KNOWN_EXPIRY (R414): A member not heard for 1 s leaves CNS_MASK.KNOWN. -/
  | knownExpiry (member : Nat)
  /-- WATCHDOG_EXPIRY (R447): A core's watchdog expires, and the core crashes. -/
  | watchdogExpiry (core : Nat)
  /-- CORE_FAULT (R447): A fetch or execute fault or an uncorrectable word crashes a core. -/
  | coreFault (core : Nat) (fault : CoreFault)
  /-- CORE_RESTARTED (R447): A crashed core is running again from its active bank. -/
  | coreRestarted (core : Nat)
  /-- ACTIVATION_READY_TIMEOUT (R455): A newly activated core not running by its ready time crashes with cause 0b100. -/
  | activationReadyTimeout (core : Nat)
  /-- EMERGENCY_CLEAR_EXPIRY (R492): CLEAR_MS reaches 0, and a deferred firmware activation is staged again. -/
  | emergencyClearExpiry
  /-- SENSOR_READING (R487): Each thermal sensor is read every 100 µs against the clamp, alert and trip limits. -/
  | sensorReading (die : List Int) (weight : List Int)
  /-- CLAMP_RELEASE (R487): Every sensor below T_clamp − 5 °C for 1 s ends the clamp. -/
  | clampRelease
  /-- AVS_STATUS_POLL (R483): PMC reads AVSBus Status every 20 µs until the voltage write is acknowledged. -/
  | avsStatusPoll (ack : Nat) (vdone : Bool)
  /-- AVS_WRITE_TIMEOUT (R485): A voltage write not acknowledged within 2 ms is a regulator fault. -/
  | avsWriteTimeout
  /-- REGULATOR_FAULT_POLL (R485): During a regulator fault, PMC reads Status every 10 ms until the fault clears. -/
  | regulatorFaultPoll (ack : Nat) (millivolts : Nat)
  /-- PWR_FAIL_ASSERT (R491): PWR_FAIL_N asserts, NV activity quiesces and an emergency is in force. -/
  | pwrFailAssert
  /-- PWR_FAIL_DEASSERT (R231): PWR_FAIL_N deasserts without reset, and NV recovery runs. -/
  | pwrFailDeassert (strictFails : List Nat)
  /-- ETH_WAKE_FRAME (R496): A frame passing a port's wake filter ends REST or PIZZICATO. -/
  | ethWakeFrame (port : Nat) (frame : Bytes)
  /-- TICK_IN_WAKE (R496): A TICK_IN edge ends REST or PIZZICATO. -/
  | tickInWake (falling : Bool)
  /-- D3HOT_ENTRY (R383): The function enters D3hot, and DMA and ring activity pause. -/
  | d3hotEntry
  /-- D0_RETURN (R383): The function returns to D0, resuming rings, and wakes the device from sleep. -/
  | d0Return
  /-- WAKE (R497): The wake sequence restores power, clocks and LPDDR and makes the device READY. -/
  | wake
  /-- PIZZICATO_CYCLE (R501): At each wake instant a pizzicato cycle powers cluster 0 and intake to judge one picture. -/
  | pizzicatoCycle
  /-- IDR_WAIT_TIMEOUT (R501): No complete IDR picture by IDR_WAIT_MS makes the pizzicato cycle a miss. -/
  | idrWaitTimeout
  /-- RETENTION_CLOCK_TICK (R240): Each second every plane's retention clock advances by its temperature factor. -/
  | retentionClockTick
  /-- TABLE_VERSION_WRITE (R233): Once an hour of powered time a new block-table version is written to both copies. -/
  | tableVersionWrite
  /-- ERASE_BATCH_START (R230): The NVS controller opens an erase batch once the blocks' banks have free windows, writing INTENT. -/
  | eraseBatchStart
  /-- ERASE_DONE (R230): The blocks of a batch finish erase verify, and DONE is written. -/
  | eraseDone (fails : List Nat)
  /-- PAGE_PROGRAM_START (R225): The NVS controller starts a page program once its bank has a free window. -/
  | pageProgramStart (senses : CopySenses) (source : Option Bytes)
  /-- PAGE_PROGRAM_DONE (R225): A page program ends, and its program verify runs. -/
  | pageProgramDone (flips : List Nat)
  /-- REFRESH_START (R243): The controller starts refreshing a queued block into a spare when allowed. -/
  | refreshStart (senses : CopySenses)
  /-- LINE_REPAIR (R312): The controller repairs a queued LPDDR line in free slots. -/
  | lineRepair
  /-- POOL_WRITE_BACK_DONE (R302): An evicted range finishes its write-back to T4, and its frames become free. -/
  | poolWriteBackDone
  /-- POOL_RESTORE_DONE (R303): A pool range is read back from T4 or zero-filled and becomes resident. -/
  | poolRestoreDone (data : Option Bytes)
  /-- POOL_DMA_FAILURE (R306): A pool write-back or restore DMA fails and is retried or discarded. -/
  | poolDmaFailure
  /-- LPDDR_TRAINING_DONE (R288): Training of the LPDDR channels ends, successfully or with TRAIN_FAIL. -/
  | lpddrTrainingDone (failed : Nat)
  /-- RAILS_VALID (R525): Every rail is valid, and the device enters FUSE_LOAD. -/
  | railsValid
  /-- FUSE_LOAD_DONE (R525): The fuse controller finishes loading trims, spare map, identity and SVN. -/
  | fuseLoadDone
  /-- PORST_N_DEASSERT (R526): PORST_N deasserts, and the straps are sampled. -/
  | porstNDeassert (straps : Straps)
  /-- PORST_N_ASSERT (R536): PORST_N asserts, causing a power-on reset. -/
  | porstNAssert
  /-- RAIL_MONITOR_TRIP (R570): A rail below its monitor threshold for 2 µs causes a power-on reset. -/
  | railMonitorTrip (rail : Rail)
  /-- CONFIG_LOAD_DONE (R528): The configuration image is verified or the bare configuration is taken, and the device releases. -/
  | configLoadDone (primary : Option Bytes) (secondary : Option Bytes)
  /-- STANDALONE_BOOT_DONE (R445): SEC finishes loading the bundle from flash and starts all cores, or sets BOOT_FAIL. -/
  | standaloneBootDone (bundle : Option Bytes)
  /-- NV_SCAN (R248): The NVS controller reads tables and the journal and resolves the open batch after release. -/
  | nvScan (strictFails : List Nat) (badTables : List Nat) (reads : ScanReads)
  /-- NV_SCAN_DONE (R248): The NV scan finishes, and PHASE becomes READY or FAULT. -/
  | nvScanDone
  /-- READY (R525): With cores running, scan and training done, the device becomes READY and applies its start-up sections. -/
  | ready
  /-- PCIE_PERST_ASSERT (R536): PCIE_PERST_N asserts, causing a host-interface reset. -/
  | pciePerstAssert
  /-- PCIE_PERST_DEASSERT (R534): PCIE_PERST_N deasserts, and link training begins. -/
  | pciePerstDeassert
  /-- FUNCTION_LEVEL_RESET (R384): An FLR resets the host interface only. -/
  | functionLevelReset
  /-- HOT_RESET (R384): A PCIe hot reset resets the host interface only. -/
  | hotReset
  /-- LINK_DOWN_RESET (R384): The PCIe data link layer goes down, causing a host-interface reset. -/
  | linkDownReset
  /-- PCIE_LINK_RECOVERY (R384): The link retrains through recovery with its data link layer up, pausing DMA only. -/
  | pcieLinkRecovery
  /-- PCIE_LINK_TRAINED (R534): PCIe link training or retraining ends, the link is up and HIF_LINK shows its width and generation, and paused DMA resumes. -/
  | pcieLinkTrained (width : Nat) (gen : Nat)
  /-- PICTURE_ENCODED (R374): An encoder finishes a picture and its RTP packets leave on the egress profile's port. -/
  | pictureEncoded (encoder : Nat) (coded : CodedPicture)
  /-- IGMP_COMPAT_TIMEOUT (R348): The RFC 3376 older-version querier timer expires, and the port leaves IGMPv2 compatibility mode. -/
  | igmpCompatTimeout (port : Nat)
  /-- IGMP_REPORT_TIMER (R348): An IGMPv3 report timer expires, and the delayed query response or the repeat of an unsolicited report is sent. -/
  | igmpReportTimer (port : Nat)
  /-- PTP_DELAY_REQ_TIMER (R349): The slave clock's timer sends a Delay_Req or Pdelay_Req message for the delay mechanism in use. -/
  | ptpDelayReqTimer
  /-- ANNOUNCE_RECEIPT_TIMEOUT (R349): No Announce arrives from a foreign master within its receipt timeout, and the best master clock algorithm chooses again, possibly on the standby port. -/
  | announceReceiptTimeout (port : Nat)
  /-- ZERO_INIT_FILL_DONE (R297): The zero-fill of a service's ZERO_INIT ranges completes, and the START_SERVICE can count as fully staged. -/
  | zeroInitFillDone (service : Nat)
  /-- PROGRAM_COPY_DONE (R133): SCH finishes copying the command, descriptor and INIT_DATA sections, and the START_SERVICE can count as fully staged. -/
  | programCopyDone (service : Nat)
  /-- SEC_OPERATION_DONE (R512): A PROVISION or SVN_COMMIT fuse operation ends, SEC_CTL.BUSY falls and RESULT is reported. -/
  | secOperationDone (fuseOk : Bool)
  deriving DecidableEq, Repr

end Sys2Proof
end

