-- ==== Sys2Proof/Config.lean ====
section
/-! DEFINITION. What the spec leaves open: free values, that nothing in the model fixes. A statement about one of them
holds whatever it is. Each has its entry in the assumption log. -/

namespace Sys2Proof

/-- The device secret in the fuses (R505): 32 bytes that no register shows (log 11). -/
opaque Config.dus : BitVec 256
/-- The public key of the Kordiros root, key 0 of the boot ROM (R510) (log 11). -/
opaque Config.rootKey : Bytes
/-- The signature of the device certificate, by a key that the spec does not give (R508) (log 11). -/
opaque Config.certSig : Bytes
/-- A byte of LPDDR that nothing has written, by its key (R316: content is undefined after a power-on reset) (log 8). -/
opaque Config.freeByte : Nat → Byte
/-- Which BAR2 offsets the BX-416 register set defines (R407 names another part's manual) (log 7). -/
opaque Config.emuDefined : Nat → Bool
/-- What a BAR2 read of such an offset answers, by offset and the number of BAR2 requests before it (R407) (log 7). -/
opaque Config.emuRead : Nat → Nat → Word
/-- A free value for an element whose result the spec does not state, by a fresh number (log 12). -/
opaque Config.freeWord : Nat → Word
/-- The code of the status ORDER, which R225 names and R404 does not list (log 37). -/
opaque Config.orderStatus : BitVec 8
/-- Header fields of the IPv4 packets that the device sends, of which the spec says nothing (log 16). -/
opaque Config.ipIdent : Nat
opaque Config.ipFlags : Nat
opaque Config.ipTtl : Nat

end Sys2Proof
end

