-- ==== Sys2Proof/Machine/Tab.lean ====
section
/-! DEFINITION. Reading and writing a sparse table. A table is a list of (key, value) pairs with strictly rising keys;
what a key that is not listed stands for is said where the table is used. -/

namespace Sys2Proof

/-- Keys strictly rising, all above the bound. -/
def Tab.above {α : Type} (b : Option Nat) : Tab α → Bool
  | [] => true
  | (k, _) :: r => (match b with | none => true | some x => decide (x < k)) && Tab.above (some k) r

/-- The canonical form: keys strictly rising. -/
def Tab.wf {α : Type} (t : Tab α) : Bool := Tab.above none t

/-- The entry of a key, when it is listed. -/
def Tab.look {α : Type} (t : Tab α) (k : Nat) : Option α :=
  match t with
  | [] => none
  | (k', v) :: r => if k = k' then some v else Tab.look r k

/-- The entry of a key, or the value that an unlisted key stands for. -/
def Tab.lookD {α : Type} (t : Tab α) (k : Nat) (d : α) : α := (Tab.look t k).getD d

/-- Lists an entry, in place of an earlier one of its key. -/
def Tab.put {α : Type} (t : Tab α) (k : Nat) (v : α) : Tab α :=
  match t with
  | [] => [(k, v)]
  | (k', v') :: r =>
    if k < k' then (k, v) :: (k', v') :: r
    else if k = k' then (k, v) :: r
    else (k', v') :: Tab.put r k v

/-- Removes a key. -/
def Tab.del {α : Type} (t : Tab α) (k : Nat) : Tab α :=
  match t with
  | [] => []
  | (k', v') :: r => if k = k' then Tab.del r k else (k', v') :: Tab.del r k

/-- Lists an entry unless it equals what an unlisted key stands for; then the key is removed. -/
def Tab.store {α : Type} [DecidableEq α] (t : Tab α) (k : Nat) (v d : α) : Tab α :=
  if v = d then Tab.del t k else Tab.put t k v

/-- The entries whose keys meet a test. -/
def Tab.keep {α : Type} (t : Tab α) (p : Nat → Bool) : Tab α := t.filter fun e => p e.1

/-- Changes the entry of a key, from the value an unlisted key stands for when it is not listed. -/
def Tab.update {α : Type} (t : Tab α) (k : Nat) (d : α) (f : α → α) : Tab α := Tab.put t k (f (Tab.lookD t k d))

end Sys2Proof
end

