-- ==== Sys2Proof/Machine/Bits.lean ====
section
/-! DEFINITION. Bit fields, byte order and the small list helpers that the whole machine uses. Fields that the device
defines are little-endian (R9); Ethernet, IP, UDP, RTP and PTP fields are in network order. -/

namespace Sys2Proof

/-- Bits [hi:lo] of a number. -/
def bitsOf (v hi lo : Nat) : Nat := (v >>> lo) % 2 ^ (hi + 1 - lo)

/-- A number with bits [hi:lo] replaced. -/
def putBits (v hi lo x : Nat) : Nat :=
  (v >>> (hi + 1)) <<< (hi + 1) ||| (x % 2 ^ (hi + 1 - lo)) <<< lo ||| v % 2 ^ lo

/-- A number of n bytes, lowest byte first. -/
def leBytes : Nat → Nat → Bytes
  | 0, _ => []
  | n + 1, v => BitVec.ofNat 8 v :: leBytes n (v >>> 8)

/-- A number of n bytes, highest byte first. -/
def beBytes (n v : Nat) : Bytes := (leBytes n v).reverse

/-- The number that bytes spell, lowest byte first. -/
def leNat : Bytes → Nat
  | [] => 0
  | b :: r => b.toNat + 256 * leNat r

/-- The number that bytes spell, highest byte first. -/
def beNat (b : Bytes) : Nat := b.foldl (fun a x => 256 * a + x.toNat) 0

/-- Bytes [off, off + n); bytes past the end are left out. -/
def slice {α : Type} (b : List α) (off n : Nat) : List α := (b.drop off).take n

/-- Exactly n bytes from off, zero past the end. -/
def sliceZ (b : Bytes) (off n : Nat) : Bytes :=
  let r := slice b off n
  r ++ List.replicate (n - r.length) 0

/-- Little-endian fields at a byte offset. -/
def u8 (b : Bytes) (off : Nat) : Nat := leNat (slice b off 1)
def u16 (b : Bytes) (off : Nat) : Nat := leNat (slice b off 2)
def u24 (b : Bytes) (off : Nat) : Nat := leNat (slice b off 3)
def u32 (b : Bytes) (off : Nat) : Nat := leNat (slice b off 4)
def u48 (b : Bytes) (off : Nat) : Nat := leNat (slice b off 6)
def u64 (b : Bytes) (off : Nat) : Nat := leNat (slice b off 8)

/-- Network-order fields at a byte offset. -/
def n16 (b : Bytes) (off : Nat) : Nat := beNat (slice b off 2)
def n32 (b : Bytes) (off : Nat) : Nat := beNat (slice b off 4)
def n48 (b : Bytes) (off : Nat) : Nat := beNat (slice b off 6)
def n64 (b : Bytes) (off : Nat) : Nat := beNat (slice b off 8)

/-- Every byte is zero. -/
def allZero (b : Bytes) : Bool := b.all (· == 0)

/-- Pads with zero bytes to a length. -/
def padTo (n : Nat) (b : Bytes) : Bytes := b ++ List.replicate (n - b.length) 0

/-- The ASCII bytes of a name. -/
def ascii (s : String) : Bytes := s.toList.map fun c => BitVec.ofNat 8 c.toNat

/-- Bytes [off, off + data.length) replaced. -/
def patch (b : Bytes) (off : Nat) (data : Bytes) : Bytes :=
  b.take off ++ data ++ b.drop (off + data.length)

/-- The 128-bit words of a run of bytes, lowest byte first, the last padded with zeros. -/
def words128Go : Nat → Bytes → List QWord
  | 0, _ => []
  | n + 1, b => BitVec.ofNat 128 (leNat (b.take 16)) :: words128Go n (b.drop 16)

def words128 (b : Bytes) : List QWord := words128Go ((b.length + 15) / 16) b

/-- The 16 bytes of a 128-bit word. -/
def bytes128 (w : QWord) : Bytes := leBytes 16 w.toNat

/-- Chunks of n bytes; the last may be shorter. -/
def chunksGo {α : Type} : Nat → Nat → List α → List (List α)
  | 0, _, _ => []
  | k + 1, n, b => if b.isEmpty then [] else b.take n :: chunksGo k n (b.drop n)

def chunks {α : Type} (n : Nat) (b : List α) : List (List α) := chunksGo b.length n b

/-- The two's-complement value of the low n bits. -/
def sext (n v : Nat) : Int :=
  let x := v % 2 ^ n
  if x < 2 ^ (n - 1) then x else (x : Int) - 2 ^ n

/-- The low n bits of an integer. -/
def trunc (n : Nat) (x : Int) : Nat := (x % (2 ^ n : Nat)).toNat

/-- Clamps to [lo, hi]. -/
def clampInt (lo hi x : Int) : Int := if x < lo then lo else if hi < x then hi else x

/-- Ceiling of a quotient. -/
def ceilDiv (a b : Nat) : Nat := (a + b - 1) / b

/-- The bits of a number that are set, of n bits, ascending. -/
def bitList (n v : Nat) : List Nat := (List.range n).filter v.testBit

/-- The number of set bits of n. -/
def popCount (n v : Nat) : Nat := (bitList n v).length

/-- A number from the positions of its set bits. -/
def ofBits (l : List Nat) : Nat := l.foldl (fun a i => a ||| 1 <<< i) 0

/-- The first of a list that meets a test, with the others. -/
def takeFirst {α : Type} (p : α → Bool) : List α → Option (α × List α)
  | [] => none
  | x :: r => if p x then some (x, r) else (takeFirst p r).map fun (y, q) => (y, x :: q)

/-- Element i, or a default. -/
def nthD {α : Type} (l : List α) (i : Nat) (d : α) : α := l.getD i d

/-- A list with element i changed. -/
def modAt {α : Type} (l : List α) (i : Nat) (f : α → α) : List α := l.modify i f

/-- A list element put into sorted place, once. -/
def insertNat (x : Nat) : List Nat → List Nat
  | [] => [x]
  | y :: r => if x < y then x :: y :: r else if x = y then y :: r else y :: insertNat x r

/-- 1 for true. -/
def b2n (b : Bool) : Nat := if b then 1 else 0

end Sys2Proof
end

