-- ==== Sys2Proof/Machine/State.lean ====
section
/-! DEFINITION. The state of the block, as plain data: every register, store, queue, counter, timer and pin that the
spec gives the BX-864, and the queue of the commands that wait. Registers live in one sparse file (`regs`), keyed by
their BAR0 offset and the bank that a select register shows; a key that is not listed holds the register's reset value
(Machine/Regs). What a register shows of state that has its home elsewhere is computed when it is read
(Machine/RegView), so that every piece of state has one home. -/

namespace Sys2Proof.Machine

/-- Why a step stops with a fault. The spec describes what the device does for every error it names (an access error,
a poison mark, a status field, a rejected command), so no meaning stops with a fault and the type has no constructor. -/
inductive Fault where
  deriving DecidableEq, Repr

/-- Why a step is refused. -/
inductive Refusal where
  /-- Raised by the arm of Machine/Dispatch of a command that has no meaning yet. Safe: the step stops. -/
  | notModelled (mnemonic : String)
  deriving DecidableEq, Repr

/-- A stored 128-bit word with its nine K137 check bits as stored, the address fold of R309 included, and whether a read has found
it uncorrectable: it is counted no more (R315, R542). -/
structure CWord where
  data : QWord
  chk : BitVec 9
  found : Bool
  deriving DecidableEq, Repr

/-- A 128-bit word as it is delivered, with its poison mark (R315). -/
structure MWord where
  data : QWord
  poison : Bool
  deriving DecidableEq, Repr

/-- One step as a bank takes it: the activation of each row, the weight value that each column selects, and whether the
sum unit adds (R65, R75). -/
structure LkaStep where
  acts : List Int
  ws : List Int
  sums : Bool
  deriving DecidableEq, Repr

/-- One accumulator bank of a tile (R71 to R77), held as what it has taken since it opened: the 2,048 accumulators, their
saturation and the 16 row sums are the folds of its steps (R65, R73, R75). The drone accumulators are formed at the
close, from operands that nothing changes before it (R77). -/
structure Bank where
  /-- The steps issued into the bank, latest first. -/
  steps : List LkaStep
  /-- LKAs 0 to 7 that carry marks (R74). -/
  marks : List Nat
  deriving DecidableEq, Repr

/-- A bank after its close (R72, step 4). -/
def Bank.clear : Bank := { steps := [], marks := [] }

/-- A function-table slot that holds a table: its 66 words as loaded and the mark of the whole table (R80, R95). -/
structure FTable where
  words : List QWord
  poison : Bool
  deriving DecidableEq, Repr

/-- What a transfer in flight is (R160, R166, R173). -/
inductive XferKind where
  | transfer | gather | hand
  deriving DecidableEq, Repr

/-- A word on its way from one tile store to another: it moves in the cycle in which its flit leaves (R186). -/
structure FabricMove where
  cycle : Nat
  /-- Tile and word that it is read from, and those that it is written to. -/
  src : Nat
  srcWord : Nat
  dst : Nat
  dstWord : Nat
  /-- A word of a stopped tile, which is sent zero and marked (R199, R449). -/
  zero : Bool
  /-- Bits of its coded form that links invert, each with the hop (R190). -/
  flips : List (Nat × Nat)
  deriving DecidableEq, Repr

/-- One of the four outstanding places of the tile DMA engine (R91, R160). -/
structure Outstanding where
  kind : XferKind
  /-- Descriptor index. -/
  desc : Nat
  /-- Cycle of the actual issue. -/
  issue : Nat
  /-- Cycle at which the transfer completes: DONE, moved by the lateness of the issue (R138, R159). -/
  done : Nat
  /-- Consumer tile of a hand-over (R173). -/
  consumer : Nat
  /-- Consumer's hand-over counter (R173). -/
  counter : Nat
  /-- Members of a merged chain so far (R163). -/
  members : Nat
  /-- Words between tile stores that have not moved yet. -/
  moves : List FabricMove
  deriving DecidableEq, Repr

/-- A slab fill in flight (R167, R168). -/
structure SlabRead where
  ring : Bool
  half1 : Bool
  /-- First word relative to the half. -/
  dst : Nat
  /-- Absolute byte offset in the slab: relative offset + base of the bound slot (R254). -/
  offset : Nat
  length : Nat
  ringWords : Nat
  issue : Nat
  done : Nat
  /-- Cycles by which the fill began after its scheduled ISSUE. -/
  lag : Nat
  /-- Repair deadline, a scheduled cycle (R218). -/
  deadline : Nat
  /-- Slab pages delivered so far. -/
  delivered : Nat
  /-- The slab port waits on a busy bank, and the cycles that such waits have cost so far (R90). -/
  stalled : Bool
  shift : Nat
  deriving DecidableEq, Repr

/-- A page in the slab repair engine's queue (R217, R218). -/
structure Repair where
  /-- Slab page number (R209). -/
  page : Nat
  half1 : Bool
  /-- Bytes [lo, hi) of the page that the fill delivers, and the word of the half that byte lo fills. -/
  lo : Nat
  hi : Nat
  dst : Nat
  /-- Next round: 0 to RETRY_MAX. -/
  round : Nat
  retryMax : Nat
  /-- Scheduled cycle at which the next round may start, and how much later than scheduled the page came. -/
  cycle : Nat
  lag : Nat
  deadline : Nat
  /-- The fast path left the page marked. -/
  marked : Bool
  /-- Bits that the sense for delivery read wrongly, and that sense's corrected-bit count. -/
  sensed : List Nat
  bits : Nat
  deriving DecidableEq, Repr

/-- What a tile sequencer waits for (R153, R174, R195). -/
inductive Wait where
  /-- A barrier completion on a network; the entry's planned cycle. -/
  | barrier (network inst planned : Nat)
  /-- A semaphore from the neighbour in a direction. -/
  | semaphore (dir planned : Nat)
  /-- The k-th raise of a line of a tile. -/
  | eventLine (source line k planned : Nat)
  /-- A hand-over on a counter. -/
  | hand (counter : Nat)
  /-- A RANGE combine on a network: range-table index and the instance. -/
  | range (network inst idx : Nat)
  deriving DecidableEq, Repr

/-- One range unit of a ranged LKA in the present tick (R118, R125). -/
structure RangeUnit where
  /-- Column of the output block (0 for a tensor unit). -/
  col : Nat
  /-- Running range at the start of the tick; 0 without history (R122). -/
  rg : Nat
  noHist : Bool
  /-- Observed maximum, saturation count and observed state (R125). -/
  obs : Nat
  sat : Nat
  observed : Bool
  fellBack : Bool
  deriving DecidableEq, Repr

/-- An LKA in progress: its steps are interleaved with the ring fill of its half (R89, R142). -/
structure LkaRun where
  /-- The next step. -/
  next : Nat
  /-- The codebook of the next weight group, once it has been read (R142). -/
  ahead : Option MWord
  units : List RangeUnit
  deriving DecidableEq, Repr

/-- The most recent LKA of a range-table entry on a tile in the present tick (R155). -/
structure Ranged where
  idx : Nat
  /-- Index of the LKA command in the tile's stream. -/
  lka : Nat
  units : List RangeUnit
  /-- OUT, LO and HI of the scale block of the last span (R110, R117). -/
  out : Nat
  lo : Int
  hi : Int
  /-- The combine of R126 has ended for these units. -/
  combined : Bool
  deriving DecidableEq, Repr

/-- A logical tile (R63). Its TIL registers are in the register file. -/
structure Tile where
  /-- Tile store: a listed word has its valid bit set (R83). -/
  store : Tab CWord
  bank0 : Bank
  bank1 : Bank
  /-- The bank closed last; 1 at the start of a tick, so that bank 0 opens first (R142). -/
  lastBank : Nat
  /-- Active and next codebook words with their marks (R68, R74). -/
  cbActive : MWord
  cbNext : MWord
  /-- Function-table slots that hold a table (R80). -/
  ftab : Tab FTable
  /-- Index of the next command of the stream. -/
  pc : Nat
  /-- End of the previous command's issue span (R138). -/
  cycle : Nat
  wait : Option Wait
  xfers : List Outstanding
  slab : Option SlabRead
  repairs : List Repair
  /-- Cycle from which the repair engine is free (R217). -/
  repairFree : Nat
  /-- Hand-overs not yet taken, by counter 0 to 3: the cycle of each (R174). -/
  hands : Tab (List Nat)
  /-- Hand-overs made so far by descriptor (R173). -/
  handCount : Tab Nat
  ranged : List Ranged
  /-- The LKA in progress that the sequencer is in. -/
  run : Option LkaRun
  /-- Last instance at which the tile arrived, plus one, by network (R195). -/
  barLast : Tab Nat
  /-- Cycles of the raises of each line, in order (R196), and waits done by 4 × source + line. -/
  raises : Tab (List Nat)
  lineWaits : Tab Nat
  /-- Semaphore towards the neighbour in direction 0 to 3 (R197): the cycle of each signal not yet taken. -/
  sems : Tab (List Nat)
  /-- Steps issued beyond the last unit of 4,096 that TIL_STEP_COUNT holds. -/
  stepRem : Nat
  /-- A write has reached the store since the tile left FREE (R97). -/
  dirty : Bool
  /-- An indirect access in progress: word, and the data of a write (R98). -/
  access : Option (Nat × Option QWord)
  /-- A bulk invalidate in progress (R85, R98). -/
  invalidating : Bool
  /-- The tile's cluster stopped its tick work in this tick (R199, R449). -/
  shadow : Bool
  deriving DecidableEq, Repr

/-- A tile after a power-on reset. -/
def Tile.reset : Tile :=
  { store := [], bank0 := Bank.clear, bank1 := Bank.clear, lastBank := 1,
    cbActive := ⟨0, false⟩, cbNext := ⟨0, false⟩, ftab := [], pc := 0, cycle := 0, wait := none,
    xfers := [], slab := none, repairs := [], repairFree := 0, hands := [], handCount := [], ranged := [],
    run := none, barLast := [], raises := [], lineWaits := [], sems := [], stepRem := 0, dirty := false,
    access := none, invalidating := false, shadow := false }

/-- A cluster store (R287). -/
structure Cluster where
  store : Tab CWord
  /-- Segment-valid flags. -/
  segs : BitVec 64
  deriving DecidableEq, Repr

/-- An arrival at a barrier instance (R191, R194): the instance, the tile, the cycle, and the pairs (O, C, observed). -/
structure Arrival where
  inst : Nat
  tile : Nat
  cycle : Nat
  pairs : List (Nat × Nat × Bool)
  deriving DecidableEq, Repr

/-- A barrier network in the present tick (R191 to R195). The open instance is the lowest of the plan that has not completed, once
a tile has arrived at it; FAB_BAR_STATE is computed from this. -/
structure Barrier where
  arrivals : List Arrival
  /-- Instances completed in the tick: the cycle, and the combined pairs. -/
  ended : Tab (Nat × List (Nat × Nat × Bool))
  deriving DecidableEq, Repr

def Barrier.idle : Barrier := { arrivals := [], ended := [] }

/-! ### Services -/

/-- The states of a service (R402). -/
inductive SvcPhase where
  | none | loaded | staged | running | suspended | waiting | standby
  deriving DecidableEq, Repr

/-- The state of a snapshot buffer (R27). -/
inductive BufState where
  | fill | ready | held
  deriving DecidableEq, Repr

/-- One snapshot buffer in intake SRAM. -/
structure Buf where
  /-- Words of the buffer with their check bits (R309); a word not listed reads as zero. -/
  words : Tab CWord
  state : BufState
  /-- Blocks whose open flag is 0, by block number (R325). -/
  coded : List Nat
  /-- Coded blocks that arrived while an operation on their table slot waited (R336). -/
  stale : List Nat
  /-- Landing digest and marked words at landing (R520, R521). -/
  landing : Bytes
  marked : Nat
  /-- AGE and SUBST of a buffer that is not a camera buffer (R521); a camera buffer has them in its header. -/
  age : Nat
  subst : Bool
  /-- Consort tick being filled and words arrived, of a Worham buffer (R431). -/
  fillTick : Nat
  arrived : List Nat
  /-- Member whose stream fills the buffer (R429). -/
  member : Nat
  /-- The picture that a camera buffer was shaped from (R373), the stream's count of lost pictures as it was decoded, and
  the READY buffers that this one and those before it replaced (R367). -/
  pic : Option Picture
  lost : Nat
  replaced : Nat
  deriving DecidableEq, Repr

def Buf.empty : Buf :=
  { words := [], state := .fill, coded := [], stale := [], landing := [], marked := 0, age := 0, subst := false, fillTick := 0,
    arrived := [], member := 0, pic := none, lost := 0, replaced := 0 }

/-- An input of a service: its three buffers (R27). -/
structure Input where
  snap : Nat
  kind : Nat
  source : Nat
  bytes : Nat
  bufs : List Buf
  deriving DecidableEq, Repr

/-- An output of a service: the buffer the program writes and the buffer in egress (R33). -/
structure Output where
  snap : Nat
  kind : Nat
  source : Nat
  bytes : Nat
  writable : Buf
  egress : Buf
  /-- Egress of the flipped buffer is not complete (R34). -/
  busy : Bool
  deriving DecidableEq, Repr

/-- A range entry of a history record (R120). -/
structure RangeEntry where
  obs : List Nat
  lastSat : Nat
  fbCount : Nat
  head : Nat
  fill : Nat
  n : Nat
  flags : Nat
  deriving DecidableEq, Repr

/-- What a service's tick has done so far: the flags of its result record (R405). -/
structure TickLog where
  flags : Nat
  substMask : Nat
  poisonGroups : Nat
  /-- Landing entries of the HELD buffers of the tick, as R521 lists them. -/
  inputs : Bytes
  /-- SHA-512/256 of the history record as the tick started (R521). -/
  history : Bytes
  tick : Nat
  boundaryTs : Nat
  modelEpoch : Nat
  epochDigest : Bytes
  /-- The tick ran a program. -/
  ran : Bool
  deriving DecidableEq, Repr

def TickLog.empty : TickLog :=
  { flags := 0, substMask := 0, poisonGroups := 0, inputs := [], history := [], tick := 0, boundaryTs := 0,
    modelEpoch := 0, epochDigest := [], ran := false }

/-- A service (R399 to R402, R405, R519). -/
structure Service where
  phase : SvcPhase
  /-- The loaded tick-program image (R131); empty when none. -/
  image : Bytes
  /-- The execute-only slot that holds the image (LOAD_PROGRAM SOURCE 2, R399). -/
  xoSlot : Option Nat
  /-- Usable address of the image in the program area (LOAD_PROGRAM SOURCE 0 and 1, R399). -/
  imageAt : Option Nat
  /-- Bound model slot (R271). -/
  slot : Option Nat
  /-- POLICY STOP of START_SERVICE (R45). -/
  policyStop : Bool
  resultRing : Option Nat
  audit : Bool
  changesOnly : Bool
  hist : List RangeEntry
  /-- Entries to commit when the tick completes (R129). -/
  histNext : List RangeEntry
  inputs : List Input
  outputs : List Output
  log : TickLog
  lastTick : Nat
  /-- Audit digest of the chain's last tick, and whether any tick of the chain has ended (R519). -/
  chain : Bytes
  chainTick : Nat
  /-- Model epoch of the last record written (R405). -/
  lastEpoch : Nat
  /-- RESUMED is due in the next completed tick (R44). -/
  resumed : Bool
  /-- POOL_DISCARD and POOL_TAINT are due in the next tick (R303). -/
  poolDiscard : Bool
  poolTaint : Bool
  /-- EVT discard flag for the next datagram (R371). -/
  evtDiscard : Bool
  /-- The service runs a carry refill at the next boundary (R277). -/
  refill : Bool
  /-- The program copy and the ZERO_INIT fill have completed (R133, R297). -/
  copied : Bool
  zeroed : Bool
  /-- Tick at which the service began to wait for residency (R301). -/
  waitSince : Nat
  /-- Consecutive misses, and on-time judgements, of a class A service (R472). -/
  misses : Nat
  deriving DecidableEq, Repr

def Service.reset : Service :=
  { phase := .none, image := [], xoSlot := none, imageAt := none, slot := none, policyStop := false, resultRing := none,
    audit := false, changesOnly := false, hist := [], histNext := [], inputs := [], outputs := [],
    log := TickLog.empty, lastTick := 0, chain := [], chainTick := 0, lastEpoch := 0,
    resumed := false, poolDiscard := false, poolTaint := false, evtDiscard := false, refill := false,
    copied := false, zeroed := false, waitSince := 0, misses := 0 }

/-! ### Commands, commit sets and rings -/

/-- A command accepted from a ring or from the start-up list (R394, R532). -/
structure HostCmd where
  /-- Number that the model gives each accepted command, rising. -/
  id : Nat
  /-- Command ring 0 to 63, or 64 for the start-up list. -/
  ring : Nat
  index : Nat
  /-- Completion ring whose entry is reserved (R394). -/
  peer : Nat
  bytes : Bytes
  /-- Work has begun. -/
  started : Bool
  /-- Status, DETAIL and INFO once the work has ended (R403). -/
  result : Option (Nat × Nat × Nat)
  deriving DecidableEq, Repr

/-- What a staged change does at its boundary (R22, R398). -/
inductive ChangeKind where
  | start (svc : Nat)
  | stop (svc : Nat)
  | bind (svc : Nat) (slot : Option Nat)
  | swap (svc slot : Nat)
  | config (records : Bytes)
  /-- The REGISTERS section of the configuration image (R532). -/
  | startup (records : Bytes)
  | activate (core : Nat)
  | rollback (core : Nat)
  | consort
  deriving DecidableEq, Repr

/-- A staged change (R22 to R25). -/
structure Change where
  kind : ChangeKind
  target : Nat
  /-- The accepted command that staged it, when one did. -/
  cmd : Option Nat
  /-- Fully staged (R23); false while an agreed change waits for its boundary (R282). -/
  armed : Bool
  /-- The change follows a consort agreement of this KIND (R428). -/
  agreed : Option Nat
  /-- The consort tick at whose boundary the change is due, where a Worham frame gave it (R411). -/
  ctick : Option Int
  deriving DecidableEq, Repr

/-- A descriptor ring's indices and flags (R388). Its settings are in the register file. -/
structure Ring where
  head : Nat
  tail : Nat
  /-- Completion entries reserved for accepted commands (R394). -/
  reserved : Nat
  /-- PHASE of the entry written next (R393). -/
  phase : Bool
  /-- Entries posted since the last signal, and the time of the first (R387). -/
  unsignalled : Nat
  firstPosted : Nat
  /-- Earlier records of a result ring were dropped (R406). -/
  dropped : Bool
  /-- The entry at the head of a command ring, once it has been read and its FENCE holds it back (R391, R394). -/
  held : Option Bytes
  deriving DecidableEq, Repr

def Ring.reset : Ring :=
  { head := 0, tail := 0, reserved := 0, phase := true, unsignalled := 0, firstPosted := 0, dropped := false,
    held := none }

/-- A result record as its tick leaves it, before PHASE and DROP are known, with its payload (R405, R406). -/
structure ResultRec where
  svc : Nat
  ring : Nat
  bytes : Bytes
  payload : Bytes
  epoch : Nat
  deriving DecidableEq, Repr

/-- What leaves the device. -/
inductive Out where
  /-- A posted host-memory write. -/
  | dma (addr : Nat) (data : Bytes)
  /-- An MSI-X message on a vector (R387). -/
  | msix (vector : Nat)
  /-- An Ethernet frame on a port, with its PCP queue. -/
  | frame (port pcp : Nat) (data : Bytes)
  /-- The answer to a register, window or bus read. -/
  | read (data : Bytes) (poison : Bool)
  /-- The bytes the device returns in an SPP_SPI transaction (R469). -/
  | spi (data : Bytes)
  /-- What an SMBus READ returns: the block count, its data bytes and the PEC byte (R578, R579). -/
  | smbus (data : Bytes)
  /-- An SMBus write was not acknowledged (R578). -/
  | smbusNack
  /-- A pulse or level on a pin. -/
  | pin (name : String) (level : Bool)
  /-- A group of pads begins to be driven, or becomes high-impedance (R533, R562). -/
  | drive (pads : String) (on : Bool)
  /-- A PCIe request completes without data: completion status 1 Unsupported Request, 2 Configuration Request Retry Status
  (R383, R534). -/
  | refused (status : Nat)
  /-- An AVSBus write of a target voltage in mV (R483). -/
  | avs (millivolts : Nat)
  /-- An AVSBus write of the transition rate in mV/µs (R483). -/
  | avsRate (rate : Nat)
  /-- The data register that a JTAG instruction puts between TDI and TDO (R580). -/
  | jtag (data : Word)
  deriving DecidableEq, Repr

/-! ### The weight store -/

/-- A programmed page (R212, R213). -/
structure Page where
  words : List QWord
  tag : Bytes
  /-- A program of the page was interrupted: it reads as uncorrectable (R232). -/
  partly : Bool
  deriving DecidableEq, Repr

/-- A block-table entry (R236). -/
structure Block where
  /-- 0 free, 1 mapped, 2 factory bad, 3 grown bad. -/
  state : Nat
  xo : Bool
  erased : Bool
  logical : Nat
  erases : Nat
  /-- Retention-clock reading at the first program since the last erase; none when nothing is programmed (R240). -/
  born : Option Nat
  senses : Nat
  deriving DecidableEq, Repr

/-- A version of a slab's block table in one control-store copy (R233). -/
structure TableVersion where
  seq : Nat
  journal : Nat
  valid : Bool
  blocks : Tab Block
  /-- The retention clocks of the slab's planes, saved with it (R240). -/
  clocks : List Nat
  deriving DecidableEq, Repr

/-- An erase-intent journal record as one copy holds it (R229). -/
structure JRecord where
  /-- "KNJR", least significant byte first. -/
  magic : Nat
  /-- 1 INTENT, 2 DONE, 3 ABANDON. -/
  type : Nat
  /-- Blocks listed. -/
  count : Nat
  seq : Nat
  batch : Nat
  tick : Nat
  /-- Block key (slab, plane, physical block), logical block or 0xFFFF, reason. -/
  entries : List (Nat × Nat × Nat)
  /-- CRC-32 of the page's first 4,092 bytes. -/
  crc : Nat
  deriving DecidableEq, Repr

/-- A page program in progress (R225). -/
structure PageOp where
  /-- Time at which it began. -/
  start : Nat
  /-- Slab page: slab × 2^17 + page (R209). -/
  page : Nat
  block : Nat
  data : List QWord
  kind : Nat
  image : Nat
  /-- The NV_PROGRAM slot that asked for it, or none for a refresh. -/
  slot : Option Nat
  deriving DecidableEq, Repr

/-- Pages on their way from one block to another: of a relocation (R227) or a refresh (R243). -/
structure BlockCopy where
  source : Nat
  dest : Nat
  logical : Nat
  /-- Pages of the source still to copy, in ascending order. -/
  todo : List Nat
  /-- The page whose program failed: page, KIND, IMAGE and data; none for a refresh. -/
  target : Option (Nat × Nat × Nat × List QWord)
  /-- The NV_PROGRAM slot that the failed page belongs to; none for a refresh. -/
  slot : Option Nat
  deriving DecidableEq, Repr

/-- A block waiting for refresh, with its cause 0 to 4 (R242). -/
structure RefreshReq where
  block : Nat
  cause : Nat
  deriving DecidableEq, Repr

/-- A refresh in progress (R243). -/
structure Refresh where
  block : Nat
  spare : Nat
  logical : Nat
  /-- The table version is written and the remap waits for a boundary (steps 4 and 5). -/
  mapped : Bool
  /-- The cause that queued the block. -/
  cause : Nat
  deriving DecidableEq, Repr

/-- A model slot (R251 to R253). -/
structure Slot where
  /-- 0 UNDEFINED to 8 XO. -/
  state : Nat
  lastOp : Nat
  binds : Nat
  firstStripe : Nat
  stripes : Nat
  slabMask : BitVec 64
  imageId : Bytes
  slabsDone : BitVec 64
  seq : Nat
  epochDigest : Bytes
  /-- The manifest of the image held or being programmed (R256). -/
  manifest : Bytes
  deriving DecidableEq, Repr

def Slot.undefined : Slot :=
  { state := 0, lastOp := 0, binds := 0, firstStripe := 0, stripes := 0, slabMask := 0, imageId := [], slabsDone := 0,
    seq := 0, epochDigest := [], manifest := [] }

/-- An NV_PROGRAM at work (R265). -/
structure NvProgram where
  cmd : Nat
  slot : Nat
  source : Nat
  address : Nat
  /-- Image key while the program runs (R515, R516). -/
  key : Bytes
  payload : Nat
  /-- Payload sectors programmed so far, in payload order (R258). -/
  next : Nat
  /-- Blocks that RESUME still has to erase (R269). -/
  erase : List (Nat × Nat)
  resume : Bool
  /-- A page program of it completed with the relocation flag (R227). -/
  relocated : Bool
  /-- Decrypted words of each slab's sectors so far, which its digest covers (R265, step 4). -/
  streamed : Tab (List QWord)
  deriving DecidableEq, Repr

/-- An NV_ERASE at work (R263). -/
structure NvErase where
  cmd : Nat
  slot : Option Nat
  /-- Logical blocks still to erase: (slab × 4 + plane, logical block). -/
  blocks : List (Nat × Nat)
  /-- Those of a new extent, which are erased after them (R262). -/
  later : List (Nat × Nat)
  /-- Every logical block that the command covers, blank ones too: it clears their XO bits (R246). -/
  covers : List (Nat × Nat)
  /-- Slabs on which the command is at work until it ends (R243). -/
  slabs : BitVec 64
  /-- The slot's new extent, or none for Release. -/
  extent : Option (Nat × Nat × BitVec 64)
  failed : Bool
  deriving DecidableEq, Repr

/-- The open erase batch (R230). -/
structure Batch where
  /-- Time at which the batch opened: its erase pulses follow INTENT (R230). -/
  start : Nat
  seq : Nat
  entries : List (Nat × Nat × Nat)
  deriving DecidableEq, Repr

/-- A host page read in progress: its address, and WARN and WARN_REFRESH_EN of NVS_CTL when it began (R249, R250). -/
structure HostRead where
  addr : Nat
  warn : Nat
  refresh : Bool
  deriving DecidableEq, Repr

/-- The resident weight store and its control store. -/
structure Nv where
  /-- Programmed pages by page key; a page not listed is blank. -/
  pages : Tab Page
  /-- Block keys of the factory-bad blocks (R237). -/
  factoryBad : List Nat
  /-- Block table in RAM by block key; not listed: as shipped (R237). -/
  blocks : Tab Block
  tablesA : Tab TableVersion
  tablesB : Tab TableVersion
  journalA : List JRecord
  journalB : List JRecord
  /-- Retention clock of each plane in millionths of a weighted second, by slab × 4 + plane (R240). -/
  clocks : Tab Nat
  /-- Sequence numbers: WRITE_SEQ, journal SEQ, table SEQ, slot-record SEQ. -/
  writeSeq : Nat
  journalSeq : Nat
  tableSeq : Nat
  slotSeq : Nat
  batch : Option Batch
  ops : List PageOp
  copies : List BlockCopy
  refreshQueue : List RefreshReq
  refresh : Option Refresh
  hostRead : Option HostRead
  /-- RESULT, LEVEL, TAG_OK, CE and BCH bits are in NVS registers; the buffer and the tag view are here. -/
  pageBuf : Bytes
  pageTag : Bytes
  slots : Tab Slot
  slotsA : Tab Slot
  slotsB : Tab Slot
  programs : List NvProgram
  erases : List NvErase
  /-- Blocks that wait for an erase outside a command: block, logical block or 0xFFFF, reason (R225, R238, R243). -/
  reErase : List (Nat × Nat × Nat)
  /-- Blocks whose re-erase a recovery wants, and which wait for a free window (R222, R223, R232). -/
  recoveryWaits : List Nat
  /-- Age recorded at entry to sleep and the plane's clock then, by slab × 4 + plane (R241). -/
  sleepAge : Tab (Nat × Nat)
  /-- Step 1 of the scan of R248 has read the block tables. -/
  tablesRead : Bool
  /-- The scan could read no copy of the journal or of the tables. -/
  faulty : Bool
  deriving DecidableEq, Repr

def Nv.reset : Nv :=
  { pages := [], factoryBad := [], blocks := [], tablesA := [], tablesB := [], journalA := [], journalB := [], clocks := [],
    writeSeq := 0, journalSeq := 0, tableSeq := 0, slotSeq := 0, batch := none, ops := [], copies := [], refreshQueue := [],
    refresh := none, hostRead := none, pageBuf := [], pageTag := [], slots := [], slotsA := [], slotsB := [],
    programs := [], erases := [], reErase := [], recoveryWaits := [], sleepAge := [], tablesRead := false, faulty := false }

/-! ### LPDDR, the tensor pool and exponent coding -/

/-- Where the data of a pool range are (R300). -/
inductive PoolWhere where
  /-- Held in the frames listed, in page order. -/
  | held | writingBack | backed | lost | never | restoring
  deriving DecidableEq, Repr

/-- A pool range of a class C service (R299 to R306). -/
structure PoolRange where
  svc : Nat
  range : Nat
  /-- Window offset and size in bytes. -/
  base : Nat
  size : Nat
  keep : Bool
  wherein : PoolWhere
  frames : List Nat
  /-- Tick in which it was last touched. -/
  touched : Nat
  tainted : Bool
  fails : Nat
  /-- Bus address of its T4 copy. -/
  backing : Nat
  /-- Where the data were when a restore began. -/
  origin : PoolWhere
  /-- A failed restore starts again at the next boundary (R306). -/
  redo : Bool
  /-- Its service has given it up during a move, which completes first (R305). -/
  dying : Bool
  /-- Number among the ranges of this service and number: a new one can take frames while a dying one still moves. -/
  life : Nat
  deriving DecidableEq, Repr

/-- A coding table in a slot (R329, R335). -/
structure CodeTable where
  format : Nat
  tchk : Nat
  lens : List Nat
  deriving DecidableEq, Repr

/-- LPDDR, its pool, and the coding-table slots. -/
structure Mem where
  /-- Bytes of the eight channels that have been written: key channel × 2^34 + channel offset (R290, R313). -/
  cells : List Host.Cell
  /-- Frames whose initialised bit is set (R316). -/
  init : List Nat
  /-- Lines queued for line repair (R312). -/
  repairQueue : List Nat
  pool : List PoolRange
  /-- Coding-table slots (R335) and the waiting operation (R336). -/
  tables : Tab CodeTable
  tableOp : Option (Nat × Option CodeTable)
  /-- The coded-region map: words of 128 open flags with their check bits; a word not listed holds ones (R339). -/
  map : Tab CWord
  /-- Words, as address / 16, that a read has found uncorrectable: they are counted no more (R315, R542). -/
  found : List Nat
  deriving DecidableEq, Repr

def Mem.reset : Mem :=
  { cells := [], init := [], repairQueue := [], pool := [], tables := [], tableOp := none, map := [], found := [] }

/-! ### Camera intake, video and event output -/

/-- A received frame that the port accepted (R345), waiting for the unit it concerns. -/
structure RxFrame where
  port : Nat
  /-- Destination and source MAC address, VLAN identifier when tagged, EtherType and body. -/
  dst : Nat
  src : Nat
  vlan : Option Nat
  etherType : Nat
  body : Bytes
  /-- Hardware timestamp of the PTP clock, and the time base of R352. -/
  ptpTime : Int
  time : Nat
  /-- The coding-table slot on which an operation waited when the frame arrived (R336). -/
  waited : Option Nat
  deriving DecidableEq, Repr

/-- A dynamic next-hop entry (R347). -/
structure ArpEntry where
  ip : Nat
  mac : Nat
  port : Nat
  /-- VLAN on which it was learnt. -/
  vlan : Option Nat
  learnt : Nat
  /-- The request of 10 s before expiry has been sent. -/
  refreshed : Bool
  deriving DecidableEq, Repr

/-- A group record of an IGMPv3 report: record type, group, sources (R348). -/
structure GroupRecord where
  type : Nat
  group : Nat
  sources : List Nat
  deriving DecidableEq, Repr

/-- An IGMP report that waits for its timer (R348). -/
inductive IgmpDue where
  /-- The repeat of an unsolicited report. -/
  | again (records : List GroupRecord)
  /-- The answer to a query of a group (0: every group) and of sources (none: the whole group). -/
  | answer (group : Nat) (sources : List Nat)
  deriving DecidableEq, Repr

/-- A foreign master of a PTP port (R349). -/
structure Foreign where
  /-- Grandmaster priority vector, in comparison order, ending in the sender's port identity. -/
  rank : List Nat
  grandmaster : Nat
  /-- Port identity of the sender: clock identity × 2^16 + port number. -/
  sender : Nat
  last : Nat
  /-- Announce interval in ns. -/
  interval : Nat
  count : Nat
  deriving DecidableEq, Repr

/-- The PTP hardware clock and its port state (R349, R350). -/
structure Ptp where
  /-- PTP clock minus time since release, in ns. -/
  shift : Int
  /-- Rate correction in parts per 10^9. -/
  rate : Int
  /-- Time at which the rate was last set. -/
  rateFrom : Nat
  /-- Consecutive offsets within, and beyond, LOCK_NS. -/
  good : Nat
  bad : Nat
  lastSync : Nat
  /-- The chosen master: port, sender's port identity, grandmaster identity. -/
  master : Option (Nat × Nat × Nat)
  /-- Grandmaster of the last master chosen (R350). -/
  grandmaster : Option Nat
  foreign0 : List Foreign
  foreign1 : List Foreign
  /-- Pending two-step Sync: sequence number, receive time, correction. -/
  sync : Option (Nat × Int × Int)
  /-- Delay request outstanding: sequence number, send time. -/
  delayReq : Option (Nat × Int)
  delaySeq : Nat
  /-- Peer-delay response of a two-step responder that waits for its follow-up: sequence number, its receive time here,
  request receive time there with corrections. -/
  peer : Option (Nat × Int × Int)
  /-- Time from the master to this clock by the last Sync. -/
  fromMaster : Option Int
  /-- Measured path delay in ns. -/
  pathDelay : Int
  deriving DecidableEq, Repr

def Ptp.reset : Ptp :=
  { shift := 0, rate := 0, rateFrom := 0, good := 0, bad := 0, lastSync := 0, master := none, grandmaster := none, foreign0 := [],
    foreign1 := [], sync := none, delayReq := none, delaySeq := 0, peer := none, fromMaster := none, pathDelay := 0 }

/-- A packet in a jitter buffer (R356). -/
structure RtpPacket where
  seq : Nat
  ts : Nat
  marker : Bool
  payload : Bytes
  arrival : Nat
  /-- Model time of its arrival. -/
  came : Nat
  deriving DecidableEq, Repr

/-- A complete access unit that waits for the decoder (R356). -/
structure AccessUnit where
  ts : Nat
  arrival : Nat
  /-- NAL units in order. -/
  nals : List Bytes
  deriving DecidableEq, Repr

/-- A decoded picture that waits for its turn in display order (R357); the first after a resync (R358). -/
structure DecodedPic where
  unit : AccessUnit
  pic : Picture
  resync : Bool
  deriving DecidableEq, Repr

/-- A decoded picture held for shaping and encoding (R367). -/
structure Shown where
  frame : Nat
  ts : Nat
  arrival : Nat
  resync : Bool
  resChange : Bool
  /-- The stream's count of lost pictures when this one was decoded (R367). -/
  lost : Nat
  pic : Picture
  deriving DecidableEq, Repr

/-- A camera stream (R353 to R361). Its settings are in the register file. -/
structure Stream where
  /-- Adopted SSRC and the time of its last packet (R353). -/
  ssrc : Option Nat
  lastPacket : Nat
  /-- SSRC of the packets whose sequence numbers the fields below hold. -/
  source : Option Nat
  jitter : List RtpPacket
  /-- Extended sequence numbers that follow the last packets of access units passed on or lost, latest first. -/
  ends : List Nat
  /-- Missing sequence numbers below this one have been counted. -/
  counted : Nat
  /-- Time stamps of access units already passed on or lost, latest first. -/
  doneTs : List Nat
  /-- Complete access units that wait for decode, in the order in which they passed on. -/
  queue : List AccessUnit
  decoded : List DecodedPic
  /-- The sequence parameter set in force names a profile, level or frame form beyond R357. -/
  spsBad : Bool
  /-- The stream waits for a random access point (R358); and it does so after an error, not after its enable. -/
  resync : Bool
  fault : Bool
  /-- RASL pictures of a CRA picture are being discarded (R358). -/
  skipRasl : Bool
  frames : Nat
  /-- Pictures lost or discarded (R367). -/
  lost : Nat
  shown : Option Shown
  /-- Service, snapshot and picture of the buffers that still have to be shaped (R367). -/
  toShape : List (Nat × Nat × Shown)
  /-- Size of the previous decoded picture (R367). -/
  lastSize : Option (Nat × Nat)
  /-- The first picture after resync is due to carry RESYNC. -/
  resyncDue : Bool
  deriving DecidableEq, Repr

def Stream.reset : Stream :=
  { ssrc := none, lastPacket := 0, source := none, jitter := [], ends := [], counted := 0, doneTs := [], queue := [], decoded := [], spsBad := false, resync := true, fault := false,
    skipRasl := false, frames := 0, lost := 0, shown := none, toShape := [], lastSize := none, resyncDue := false }

/-- An event datagram queued for a port (R372), or a frame of another unit that waits behind one in the port's eight queues
(R345). -/
structure Datagram where
  port : Nat
  profile : Nat
  pcp : Nat
  dst : Nat
  dscp : Nat
  srcPort : Nat
  dstPort : Nat
  svc : Nat
  records : Nat
  body : Bytes
  /-- A whole frame, which leaves as it is; `profile` is 16 then, which no event datagram has. -/
  raw : Option Bytes
  /-- Of a PTP event message: its place in the frame, and the clock's time when it was handed over; it takes its stamp as it leaves
  (R349). -/
  ptp : Option (Nat × Int)
  deriving DecidableEq, Repr

/-- An encoder at work (R373 to R375). -/
structure Encoder where
  /-- The annotated picture being encoded, and the boundary time of its tick; the next picture, not started. -/
  picture : Option (Picture × Nat)
  waiting : Option (Picture × Nat)
  seq : Nat
  /-- Pictures encoded since the encoder was enabled (R374). -/
  frame : Nat
  deriving DecidableEq, Repr

def Encoder.reset : Encoder := { picture := none, waiting := none, seq := 0, frame := 0 }

/-- The intake domain. -/
structure Intake where
  rx : List RxFrame
  arp : List ArpEntry
  /-- Time of the last request for an address (R347). -/
  arpAsked : Tab Nat
  igmpDue0 : List IgmpDue
  igmpDue1 : List IgmpDue
  /-- End of IGMPv2 compatibility mode (R348). -/
  igmpV2 : Tab Nat
  ptp : Ptp
  /-- Next whole PTP second at which PPS_OUT rises. -/
  ppsNext : Nat
  streams : Tab Stream
  encoders : Tab Encoder
  egress : List Datagram
  /-- SEQ by egress profile (R371). -/
  egrSeq : Tab Nat
  /-- Luma samples decoded in the last second: time and count (R379). -/
  demand : List (Nat × Nat)
  /-- Input DMA in flight: command, service, input (R400). -/
  inputDma : List (Nat × Nat × Nat)
  /-- Commands of READY buffers: command, service, snapshot (R400). -/
  inputReady : List (Nat × Nat × Nat)
  deriving DecidableEq, Repr

def Intake.reset : Intake :=
  { rx := [], arp := [], arpAsked := [], igmpDue0 := [], igmpDue1 := [], igmpV2 := [],
    ptp := Ptp.reset, ppsNext := 0, streams := [], encoders := [], egress := [], egrSeq := [], demand := [], inputDma := [],
    inputReady := [] }

/-! ### Host interface -/

/-- The host interface. Ring settings, doorbells and vectors are in the register file. -/
structure Hif where
  cmdRings : Tab Ring
  cplRings : Tab Ring
  resRings : Tab Ring
  /-- Ring served last in each PRIO, for the round robin (R394). -/
  lastServed : Tab Nat
  accepted : List HostCmd
  nextId : Nat
  /-- Vectors with a message held pending (R387). -/
  msixPending : List Nat
  d3hot : Bool
  /-- DMA pauses while the link is in recovery (R384). -/
  dmaPaused : Bool
  /-- PCIE_PERST_N is asserted. -/
  perst : Bool
  /-- High halves latched by a read of the low half, and low halves held by a write (R13). -/
  latched : Tab Word
  heldLow : Tab Word
  /-- Host requests to BAR2 so far: the argument of the free values of Config.emuRead. -/
  emuCount : Nat
  /-- Result records of the last boundary that wait for the link to end its recovery (R384, R406). -/
  heldRecords : List ResultRec
  deriving DecidableEq, Repr

def Hif.reset : Hif :=
  { cmdRings := [], cplRings := [], resRings := [], lastServed := [], accepted := [], nextId := 0, msixPending := [],
    d3hot := false, dmaPaused := false, perst := true, latched := [], heldLow := [], emuCount := 0,
    heldRecords := [] }

/-! ### Consort -/

/-- A chained session (R432 to R434). -/
structure Session where
  id : Nat
  /-- This device is the leader (true) or the target (false). -/
  leads : Bool
  peer : Nat
  /-- The leader's command, or the command bytes of the target. -/
  cmd : Nat
  bytes : Bytes
  /-- First byte not yet received, as the target has it and as the leader last heard it. -/
  next : Nat
  limit : Nat
  sent : Nat
  /-- Image bytes received (target). -/
  data : Bytes
  lastHeard : Nat
  lastAdvance : Nat
  lastCredit : Nat
  deriving DecidableEq, Repr

/-- An agreement of one KIND (R282, R428). -/
structure Agreement where
  /-- This member's changes are armed, since this tick. -/
  armedAt : Option Nat
  /-- Members that have armed (leader). -/
  armed : List Nat
  /-- Consort ticks of the APPLY frames sent or heard whose boundary has not come. -/
  applied : List Int
  /-- Frames that the leader still repeats: an APPLY's consort tick, or none for CANCEL, and the copies left (R428). -/
  sends : List (Option Int × Nat)
  deriving DecidableEq, Repr

def Agreement.none : Agreement := { armedAt := Option.none, armed := [], applied := [], sends := [] }

/-- The consort unit. -/
structure Consort where
  /-- Tokens heard in the tick being judged: member and body, the first copy of each for each consort tick (R417). -/
  tokens : List (Nat × Bytes)
  /-- JOIN bodies of the tick (R423). -/
  joins : List (Nat × Bytes)
  /-- Copies of the token sent for this tick (R415). -/
  copies : Nat
  /-- The verdict of the present tick; none before its deadline (R417). -/
  verdict : Option Bool
  /-- Proposal of the leader: epoch, mask, T, members that accepted (R423 to R425). -/
  proposal : Option (Nat × Nat × Nat × List Nat)
  /-- Epoch staged on this member: epoch, mask, T, model epoch, configuration epoch (R424). -/
  staged : Option (Nat × Nat × Nat × Nat × Nat)
  lastEpoch : Nat
  /-- A consort epoch is in force (R421). -/
  formed : Bool
  /-- CNS_EPOCH_CTL.FORM has been written: a proposal with unequal epoch fields is allowed (R423). -/
  form : Bool
  /-- Body of this member's TOKEN for the present tick (R415). -/
  token : Bytes
  /-- Earliest consort tick of the next proposal (R425). -/
  holdOff : Nat
  /-- The epoch ends at this consort tick (DISSOLVE, ABORT KIND 1), or at the next boundary (LEAVE). -/
  endAt : Option Nat
  leave : Bool
  dissolve : Option Nat
  seq : Nat
  /-- Member: MAC address, where a frame came from the member itself, port and time last heard (R414). -/
  peers : Tab (Option Nat × Nat × Nat)
  bind : Agreement
  config : Agreement
  firmware : Agreement
  sessions : List Session
  nextSession : Nat
  /-- Time since which the PTP clock is in holdover (R417). -/
  holdSince : Option Nat
  /-- Worham outputs of the previous tick still to send: service, snapshot (R430). -/
  toSend : List (Nat × Nat)
  deriving DecidableEq, Repr

def Consort.reset : Consort :=
  { tokens := [], joins := [], copies := 0, verdict := none, proposal := none, staged := none,
    lastEpoch := 0, formed := false, form := false, token := [], holdOff := 0, endAt := none, leave := false, dissolve := none, seq := 0,
    peers := [], bind := Agreement.none, config := Agreement.none, firmware := Agreement.none, sessions := [],
    nextSession := 0, holdSince := none, toSend := [] }

/-! ### Firmware cores, soundpost partition, power, security -/

/-- A code bank: the header of the image in it, and its code in words with their check bits (R438, R440). -/
structure FwBank where
  header : Bytes
  code : List CWord
  deriving DecidableEq, Repr

def FwBank.empty : FwBank := { header := [], code := [] }

/-- A firmware core: its two code banks (R438). STATE, BANK, OTHER and the counts are in SEC_FW_CORE. -/
structure Core where
  bank0 : FwBank
  bank1 : FwBank
  /-- The core's data memory (R438). -/
  data : Tab CWord
  /-- Time of the crash being restarted from, and of the core's crashes within 60 s (R451). -/
  crashedAt : Nat
  recent : List Nat
  /-- Boundary time and ready time of the last activation (R455, R456), and crashes since. -/
  activatedAt : Option Nat
  readyBy : Option Nat
  crashesSince : Nat
  /-- Time at which the core began to quiesce (R454). -/
  quiesceAt : Option Nat
  /-- Boundary at which an activation was last applied, and whether its completion is still to be told (R453, R455). -/
  appliedTick : Nat
  applied : Bool
  deriving DecidableEq, Repr

def Core.reset : Core :=
  { bank0 := FwBank.empty, bank1 := FwBank.empty, data := [], crashedAt := 0, recent := [], activatedAt := none,
    readyBy := none, crashesSince := 0, quiesceAt := none, appliedTick := 0, applied := false }

/-- A soundpost write set: 32-bit writes by BAR0 offset, in order, and the time of its COMMIT or acceptance (R467). -/
structure WriteSet where
  records : List (Nat × Word)
  since : Nat
  /-- The set is that of the SOUNDPOST section of the configuration image (R532). -/
  start : Bool
  deriving DecidableEq, Repr

/-- The soundpost partition beside its registers. -/
structure Spp where
  /-- The shadow of SPP_SPI: (offset, value) in order (R469). -/
  shadow : List (Nat × Word)
  spiSet : Option WriteSet
  /-- Signed sets that wait for their boundary, oldest first. -/
  signedSets : List WriteSet
  /-- SPP_SCMD_BUF as it was submitted, while SEC checks it (R470). -/
  checking : Option Bytes
  /-- On-time judgements in a row (R472). -/
  onTime : Nat
  /-- AUTO_HOLD sets HOLD once the boundary's write sets have been applied (R472, R477). -/
  autoHold : Bool
  deriving DecidableEq, Repr

def Spp.reset : Spp := { shadow := [], spiSet := none, signedSets := [], checking := none, onTime := 0, autoHold := false }

/-- Where the arithmetic clock comes from (R481, R482). -/
inductive ClockSource where
  | pll0 | pll0Half | pll1 | osc
  deriving DecidableEq, Repr

/-- The power block beside its registers. -/
structure Power where
  clock : ClockSource
  /-- PLLs that were lost while they fed the arithmetic clock and have not locked again: E30 is held (R482). -/
  pllHold : List Nat
  refclk : Bool
  /-- Last acknowledged voltage in mV, and the write in progress: target and time (R484). -/
  acked : Nat
  write : Option (Nat × Nat)
  /-- The voltage that a sleep, a wake or a pizzicato cycle asks of the rail, in mV (R494, R497, R501). -/
  railGoal : Option Nat
  /-- Failed repeats of a transaction (R485). -/
  nacks : Nat
  /-- Time at which every sensor was last seen below the release temperature; none when one was not (R487). -/
  coolSince : Option Nat
  /-- A sensor has reached T_clamp: the clamp takes effect at the next boundary (R487). -/
  clampDue : Bool
  /-- The last readings had a sensor at or above TALERT as it then was (R473). -/
  hot : Bool
  /-- Time at which CLEAR_MS reaches 0 (R492). -/
  clearAt : Option Nat
  /-- Accepted sleep request: true for PIZZICATO; and whether its last boundary has passed (R494). -/
  sleepReq : Option Bool
  lastBoundary : Bool
  wakeCause : Option Nat
  /-- Pizzicato: wake instants counted from t0, consecutive misses, cycle in progress, sentry history (R500, R501). -/
  pzStart : Nat
  pzCycle : Nat
  pzMisses : Nat
  pzActive : Bool
  /-- The tripped state of R488: every clock stopped. -/
  tripped : Bool
  /-- What each running tile draws with its ballast, mA (R489), and the tiles' part of the core-rail current, mA, at the time at
  which it last began to move. -/
  draws : Tab Nat
  railFrom : Nat
  railAt : Nat
  deriving DecidableEq, Repr

def Power.reset : Power :=
  { clock := .osc, pllHold := [], refclk := true, acked := 0, write := none, railGoal := none, nacks := 0, coolSince := none,
    clampDue := false, hot := false, clearAt := none, sleepReq := none, lastBoundary := false, wakeCause := none, pzStart := 0, pzCycle := 0,
    pzMisses := 0, pzActive := false, tripped := false, draws := [], railFrom := 0, railAt := 0 }

/-- A key of the key table (R510). -/
structure Key where
  pub : Bytes
  source : Nat
  roles : Nat
  deriving DecidableEq, Repr

/-- What the fuses hold (R4, R483, R505, R512, R513, R558); the device secret is Config.dus. -/
structure Fuses where
  grade : Nat
  dies : Nat
  step : Nat
  minor : Nat
  ownerHash : Option Bytes
  minSvn : Nat
  v30 : Nat
  v50 : Nat
  v75 : Nat
  spareRows : Nat
  spareCols : Nat
  factory : Bool
  /-- Physical sites of logical tiles 0 to 63, and the four disabled sites in ascending order. -/
  sites : List Nat
  disabled : List Nat
  deriving DecidableEq, Repr

/-- A T32 part of first stepping without spares in use (R1, R4); trims at the typical values of R483. -/
def Fuses.shipped : Fuses :=
  { grade := 1, dies := 4, step := 1, minor := 0, ownerHash := none, minSvn := 0, v30 := 650, v50 := 730, v75 := 820,
    spareRows := 0, spareCols := 0, factory := false, sites := List.range 64, disabled := [64, 65, 66, 67] }

/-- A fuse operation in progress (R512, R513): PROVISION with the key in SEC_PROV_BUF as it was written, or SVN_COMMIT with
the value it raises to. -/
inductive FuseOp where
  | provision (key : Bytes)
  | svn (value : Nat)
  deriving DecidableEq, Repr

/-- SEC and start-up beside their registers. -/
structure Boot where
  fuses : Fuses
  keys : List (Option Key)
  /-- The device certificate in the two control-store copies (R508); none: as the factory wrote it. -/
  certA : Option Bytes
  certB : Option Bytes
  secOp : Option FuseOp
  /-- ATTEST commands that wait for their boundary (R517). -/
  attest : List Nat
  /-- Quotes that wait for host DMA: the command and the signed bytes (R383, R384). -/
  quotesHeld : List (Nat × Bytes)
  /-- Every rail is valid (R525, R570). -/
  rails : Bool
  fuseDone : Bool
  /-- PORST_N is deasserted. -/
  porst : Bool
  /-- Release has happened; its time is the origin of time since release (R525). -/
  releasedAt : Option Nat
  coresUp : Bool
  /-- A standalone firmware load has failed (R445). -/
  bootFailed : Bool
  scanDone : Bool
  trained : Bool
  /-- The configuration image in use (R529); empty for the bare configuration. -/
  config : Bytes
  /-- Commands of the start-up list not yet submitted, and the index of the next to complete (R532). -/
  list : List Bytes
  listIndex : Nat
  /-- REGISTERS and SOUNDPOST wait for the boundary at READY; and the list waits for the SOUNDPOST write set. -/
  startDue : Bool
  soundpostWait : Bool
  /-- Sources of SMBus and JTAG state (R578, R580). -/
  smbusAddr : Nat
  jtag : Nat
  deriving DecidableEq, Repr

def Boot.reset : Boot :=
  { fuses := Fuses.shipped, keys := [], certA := none, certB := none, secOp := none, attest := [], quotesHeld := [], rails := false, fuseDone := false, porst := false,
    releasedAt := none, coresUp := false, bootFailed := false, scanDone := false, trained := false, config := [], list := [],
    listIndex := 0, startDue := false, soundpostWait := false, smbusAddr := 0, jtag := 0 }

/-! ### The event log -/

/-- An occurrence on its way to the event unit (R543, R545, R548). -/
structure Occurrence where
  /-- Model time. -/
  instant : Nat
  src : Nat
  code : Nat
  severity : Nat
  tick : Nat
  /-- In the time base of R352. -/
  time : Nat
  detail : Bytes
  deriving DecidableEq, Repr

/-- The event unit beside its registers (R543 to R550). -/
structure EventLog where
  /-- Occurrences of the present command that have not entered the log (R545). -/
  group : List Occurrence
  /-- Words of the log, two for each record, with their check bits (R546). -/
  words : Tab CWord
  /-- Occurrences since the last boundary by 256 × SOURCE + CODE: logged, suppressed, time of the first suppressed. -/
  rate : Tab (Nat × Nat × Nat)
  /-- The next record written carries LOST (R547). -/
  lostDue : Bool
  /-- Records held in the always-on queue (R550). -/
  sleepQueue : List Bytes
  deriving DecidableEq, Repr

def EventLog.reset : EventLog := { group := [], words := [], rate := [], lostDue := false, sleepQueue := [] }

/-! ### The whole machine -/

/-- The block. -/
structure State where
  /-- Commands that wait, first in, first out. -/
  pending : List Instr
  /-- Registers by BAR0 offset + bank × 2^32; a key not listed holds the reset value (Machine/Regs). -/
  regs : Tab DWord
  /-- Model time in ns since power-on. -/
  now : Nat
  /-- Model time of the last boundary, and whether a boundary has been made since READY. -/
  boundaryAt : Nat
  ticking : Bool
  /-- Earliest model time of the next boundary that the internal source makes (R57). -/
  tickFrom : Nat
  /-- A tick-source event has come and its boundary is due: its time (R56 to R58). -/
  tickEvent : Option Nat
  /-- TCK_CTL.SRC has been written since the last boundary, so that the source changes at the next (R58, R60). -/
  srcWritten : Bool
  /-- Consecutive boundaries made without a TICK_IN edge (R58). -/
  missed : Nat
  /-- PHASE_US in force (R60). -/
  phaseAct : Nat
  /-- Boundaries have been made in holdover, and ticks are lengthened until they are back at the PTP times (R59). -/
  slewing : Bool
  /-- GAP has been raised for the present gap (R472). -/
  gapSeen : Bool
  /-- Model time of the latest END of the present tick, for the slack (R18). -/
  lastEnd : Nat
  /-- A model time of the present run window and the run-window cycle at it (R21). -/
  runStart : Nat
  runCycle : Nat
  /-- The next free value's number; the model's own. -/
  freeCount : Nat
  services : Tab Service
  staged : List Change
  /-- Model epoch and configuration epoch number (R273, R401). -/
  modelEpoch : Nat
  configEpoch : Nat
  tiles : Tab Tile
  clusters : Tab Cluster
  barriers : Tab Barrier
  /-- (source, destination, cycle) of flits deferred in the present tick (R189). -/
  deferred : List (Nat × Nat × Nat)
  nv : Nv
  mem : Mem
  intake : Intake
  hif : Hif
  consort : Consort
  cores : Tab Core
  spp : Spp
  power : Power
  boot : Boot
  log : EventLog
  /-- Everything that has left the device, oldest first. -/
  out : List Out
  deriving DecidableEq, Repr

/-- The block before its rails are valid for the first time: every register at its reset value, every store empty,
state FUSE_LOAD (ID_STATE resets to 0x1). -/
def State.reset : State :=
  { pending := [], regs := [], now := 0, boundaryAt := 0, ticking := false, tickFrom := 0, tickEvent := none, srcWritten := false, missed := 0,
    phaseAct := 0, slewing := false, gapSeen := false, lastEnd := 0, runStart := 0, runCycle := 0, freeCount := 0, services := [], staged := [], modelEpoch := 0, configEpoch := 0,
    tiles := [], clusters := [], barriers := [], deferred := [], nv := Nv.reset, mem := Mem.reset,
    intake := Intake.reset, hif := Hif.reset, consort := Consort.reset, cores := [], spp := Spp.reset,
    power := Power.reset, boot := Boot.reset, log := EventLog.reset, out := [] }

end Sys2Proof.Machine
end

