-- ==== Sys2Proof/Machine/K137.lean ====
section
/-! DEFINITION. The word code K137 (R307, R308), its address fold and stored poison in SRAM (R309). -/

namespace Sys2Proof.Machine

/-- Columns of the 128 data bits (R307): the low eight bits run through the values of weight 2, then 3, then 4, each in
ascending order, and bit 8 makes the weight odd. -/
def kCols : List Nat :=
  [0x103, 0x105, 0x106, 0x109, 0x10A, 0x10C, 0x111, 0x112, 0x114, 0x118, 0x121, 0x122, 0x124, 0x128, 0x130, 0x141] ++
  [0x142, 0x144, 0x148, 0x150, 0x160, 0x181, 0x182, 0x184, 0x188, 0x190, 0x1A0, 0x1C0, 0x007, 0x00B, 0x00D, 0x00E] ++
  [0x013, 0x015, 0x016, 0x019, 0x01A, 0x01C, 0x023, 0x025, 0x026, 0x029, 0x02A, 0x02C, 0x031, 0x032, 0x034, 0x038] ++
  [0x043, 0x045, 0x046, 0x049, 0x04A, 0x04C, 0x051, 0x052, 0x054, 0x058, 0x061, 0x062, 0x064, 0x068, 0x070, 0x083] ++
  [0x085, 0x086, 0x089, 0x08A, 0x08C, 0x091, 0x092, 0x094, 0x098, 0x0A1, 0x0A2, 0x0A4, 0x0A8, 0x0B0, 0x0C1, 0x0C2] ++
  [0x0C4, 0x0C8, 0x0D0, 0x0E0, 0x10F, 0x117, 0x11B, 0x11D, 0x11E, 0x127, 0x12B, 0x12D, 0x12E, 0x133, 0x135, 0x136] ++
  [0x139, 0x13A, 0x13C, 0x147, 0x14B, 0x14D, 0x14E, 0x153, 0x155, 0x156, 0x159, 0x15A, 0x15C, 0x163, 0x165, 0x166] ++
  [0x169, 0x16A, 0x16C, 0x171, 0x172, 0x174, 0x178, 0x187, 0x18B, 0x18D, 0x18E, 0x193, 0x195, 0x196, 0x199, 0x19A]

/-- XOR of the columns of the set bits. -/
def kFold : List Nat → Nat → Nat → Nat
  | [], _, a => a
  | c :: r, d, a => kFold r (d / 2) (if d % 2 = 1 then a ^^^ c else a)

/-- The nine check bits of a word (R307). -/
def kCheck (d : QWord) : BitVec 9 := BitVec.ofNat 9 (kFold kCols d.toNat 0)

/-- The 9-bit values of weight 2, ascending (R309). -/
def gCols : List Nat :=
  [0x003, 0x005, 0x006, 0x009, 0x00A, 0x00C, 0x011, 0x012, 0x014, 0x018, 0x021, 0x022] ++
  [0x024, 0x028, 0x030, 0x041, 0x042, 0x044, 0x048, 0x050, 0x060, 0x081, 0x082, 0x084] ++
  [0x088, 0x090, 0x0A0, 0x0C0, 0x101, 0x102, 0x104, 0x108, 0x110, 0x120, 0x140, 0x180]

/-- The address fold f(w) (R309). -/
def addrFold (w : Nat) : BitVec 9 := BitVec.ofNat 9 (kFold gCols w 0)

/-- What a decode finds (R308). -/
inductive KKind where
  | clean
  | corrected
  | poison
  | uncorrectable
  deriving DecidableEq, Repr

/-- The position of a column, when it is one. -/
def colIndex : List Nat → Nat → Nat → Option Nat
  | [], _, _ => none
  | c :: r, s, i => if c = s then some i else colIndex r s (i + 1)

/-- Decodes a nine-bit syndrome over a word (R308): what it finds, and the data with a data bit corrected. -/
def kDecode (syn : BitVec 9) (d : QWord) : KKind × QWord :=
  if syn = 0 then (.clean, d)
  else if syn = 0x1FF then (.poison, d)
  else
    match colIndex kCols syn.toNat 0 with
    | some i => (.corrected, d ^^^ BitVec.ofNat 128 (1 <<< i))
    | none => if popCount 9 syn.toNat = 1 then (.corrected, d) else (.uncorrectable, d)

/-- A word as it is stored at word index w of an SRAM (R309). -/
def CWord.enc (w : Nat) (m : MWord) : CWord :=
  { data := m.data, chk := kCheck m.data ^^^ addrFold w ^^^ (if m.poison then 0x1FF else 0), found := false }

/-- A stored word as it is read at word index w: what the code finds, and the word delivered (R314, R315). -/
def CWord.dec (w : Nat) (c : CWord) : KKind × MWord :=
  let r := kDecode (c.chk ^^^ kCheck c.data ^^^ addrFold w) c.data
  (r.1, { data := r.2, poison := r.1 = .poison || r.1 = .uncorrectable })

/-- A stored word after a read at word index w, which finds it uncorrectable or not (R315). -/
def CWord.read (w : Nat) (c : CWord) : CWord := if (c.dec w).1 = .uncorrectable then { c with found := true } else c

/-- The zero word, unmarked. -/
def MWord.zero : MWord := { data := 0, poison := false }

end Sys2Proof.Machine
end

