-- ==== Sys2Proof/Machine/Regs.lean ====
section
/-! DEFINITION. The register tables of the spec as data: for every register its BAR0 offset, width, count and fields,
for every field its bits, access code (R10) and reset value. A field whose reset is a fuse,
      a strap or its tile number is
marked by its note and computed when it is read (Machine/RegView); its number here is then 0. -/

namespace Sys2Proof.Machine

/-- Access codes that the register tables use (R10). -/
inductive Acc where
  | ro | rw | rw1c | wo
  deriving DecidableEq, Repr

/-- A register field: the register's BAR0 offset, bits [hi:lo], access code, reset value, and the reset value of the
whole register. -/
structure Fld where
  off : Nat
  hi : Nat
  lo : Nat
  acc : Acc
  reset : Nat
  whole : Nat
  deriving DecidableEq, Repr

/-- A register, or an array of `count` registers `stride` apart; `perTile`: one in each TIL window. -/
structure Reg where
  off : Nat
  width : Nat
  count : Nat
  stride : Nat
  perTile : Bool
  reset : Nat
  fields : List Fld
  deriving DecidableEq, Repr

/-! ### ID (R4, R539) -/

def ID_PART_PART : Fld := ⟨0x0, 31, 16, .ro, 2148, 0x8640000⟩
def ID_PART_GRADE : Fld := ⟨0x0, 15, 12, .ro, 0, 0x8640000⟩
def ID_PART_NVDIES : Fld := ⟨0x0, 11, 8, .ro, 0, 0x8640000⟩
def ID_PART_STEP : Fld := ⟨0x0, 7, 4, .ro, 0, 0x8640000⟩
def ID_PART_MINOR : Fld := ⟨0x0, 3, 0, .ro, 0, 0x8640000⟩
def ID_PART : Reg :=
  { off := 0x0, width := 32, count := 1, stride := 4, perTile := false, reset := 140771328,
    fields := [ID_PART_PART, ID_PART_GRADE, ID_PART_NVDIES, ID_PART_STEP, ID_PART_MINOR] }

def ID_CAP_TILES : Fld := ⟨0x4, 23, 16, .ro, 64, 0x400001⟩
def ID_CAP_SLAB_MIB : Fld := ⟨0x4, 15, 8, .ro, 0, 0x400001⟩
def ID_CAP_ECC_COMPAT : Fld := ⟨0x4, 1, 1, .ro, 0, 0x400001⟩
def ID_CAP_BAR2_EMU : Fld := ⟨0x4, 0, 0, .ro, 1, 0x400001⟩
def ID_CAP : Reg :=
  { off := 0x4, width := 32, count := 1, stride := 4, perTile := false, reset := 4194305,
    fields := [ID_CAP_TILES, ID_CAP_SLAB_MIB, ID_CAP_ECC_COMPAT, ID_CAP_BAR2_EMU] }

def ID_STATE_STATE : Fld := ⟨0x8, 3, 0, .ro, 1, 0x1⟩
def ID_STATE : Reg :=
  { off := 0x8, width := 32, count := 1, stride := 4, perTile := false, reset := 1,
    fields := [ID_STATE_STATE] }

def ID_STRAPS_BOOT_SRC : Fld := ⟨0xC, 9, 8, .ro, 0, 0x0⟩
def ID_STRAPS_ENV_DEFAULT : Fld := ⟨0xC, 7, 6, .ro, 0, 0x0⟩
def ID_STRAPS_TICK_SRC : Fld := ⟨0xC, 5, 5, .ro, 0, 0x0⟩
def ID_STRAPS_ECC_COMPAT : Fld := ⟨0xC, 4, 4, .ro, 0, 0x0⟩
def ID_STRAPS_CONSORT_ROLE : Fld := ⟨0xC, 3, 3, .ro, 0, 0x0⟩
def ID_STRAPS_SPP_EN : Fld := ⟨0xC, 2, 2, .ro, 0, 0x0⟩
def ID_STRAPS_ETH_MODE : Fld := ⟨0xC, 1, 1, .ro, 0, 0x0⟩
def ID_STRAPS_PCIE_MODE : Fld := ⟨0xC, 0, 0, .ro, 0, 0x0⟩
def ID_STRAPS : Reg :=
  { off := 0xC, width := 32, count := 1, stride := 4, perTile := false, reset := 0,
    fields := [ID_STRAPS_BOOT_SRC, ID_STRAPS_ENV_DEFAULT, ID_STRAPS_TICK_SRC, ID_STRAPS_ECC_COMPAT,
      ID_STRAPS_CONSORT_ROLE, ID_STRAPS_SPP_EN, ID_STRAPS_ETH_MODE, ID_STRAPS_PCIE_MODE] }

def ID_BOOT_PRI_RESULT : Fld := ⟨0x10, 31, 29, .ro, 0, 0xFF00⟩
def ID_BOOT_SEC_RESULT : Fld := ⟨0x10, 28, 26, .ro, 0, 0xFF00⟩
def ID_BOOT_USED : Fld := ⟨0x10, 25, 24, .ro, 0, 0xFF00⟩
def ID_BOOT_LIST_BUSY : Fld := ⟨0x10, 23, 23, .ro, 0, 0xFF00⟩
def ID_BOOT_LIST_DONE : Fld := ⟨0x10, 22, 16, .ro, 0, 0xFF00⟩
def ID_BOOT_LIST_FAIL : Fld := ⟨0x10, 15, 8, .ro, 255, 0xFF00⟩
def ID_BOOT_LIST_STATUS : Fld := ⟨0x10, 7, 0, .ro, 0, 0xFF00⟩
def ID_BOOT : Reg :=
  { off := 0x10, width := 32, count := 1, stride := 4, perTile := false, reset := 65280,
    fields := [ID_BOOT_PRI_RESULT, ID_BOOT_SEC_RESULT, ID_BOOT_USED, ID_BOOT_LIST_BUSY, ID_BOOT_LIST_DONE,
      ID_BOOT_LIST_FAIL, ID_BOOT_LIST_STATUS] }

def ID_RESET_COUNT : Fld := ⟨0x14, 31, 16, .ro, 0, 0x0⟩
def ID_RESET_KIND : Fld := ⟨0x14, 1, 0, .ro, 0, 0x0⟩
def ID_RESET : Reg :=
  { off := 0x14, width := 32, count := 1, stride := 4, perTile := false, reset := 0,
    fields := [ID_RESET_COUNT, ID_RESET_KIND] }

def ID_RESET_CTL_KEY : Fld := ⟨0x18, 31, 16, .wo, 0, 0x0⟩
def ID_RESET_CTL_RESULT : Fld := ⟨0x18, 7, 4, .ro, 0, 0x0⟩
def ID_RESET_CTL_DEVICE : Fld := ⟨0x18, 0, 0, .wo, 0, 0x0⟩
def ID_RESET_CTL : Reg :=
  { off := 0x18, width := 32, count := 1, stride := 4, perTile := false, reset := 0,
    fields := [ID_RESET_CTL_KEY, ID_RESET_CTL_RESULT, ID_RESET_CTL_DEVICE] }

def regsID0 : List Reg := [ID_PART, ID_CAP, ID_STATE, ID_STRAPS, ID_BOOT, ID_RESET, ID_RESET_CTL]

/-! ### TCK (R62) -/

def TCK_CTL_HOLD_LIMIT : Fld := ⟨0x200000, 15, 8, .rw, 8, 0x840⟩
def TCK_CTL_SLACK_RST : Fld := ⟨0x200000, 7, 7, .wo, 0, 0x840⟩
def TCK_CTL_OUT_EN : Fld := ⟨0x200000, 6, 6, .rw, 1, 0x840⟩
def TCK_CTL_SRC_ACTIVE : Fld := ⟨0x200000, 5, 4, .ro, 0, 0x840⟩
def TCK_CTL_SRC : Fld := ⟨0x200000, 1, 0, .rw, 0, 0x840⟩
def TCK_CTL : Reg :=
  { off := 0x200000, width := 32, count := 1, stride := 4, perTile := false, reset := 2112,
    fields := [TCK_CTL_HOLD_LIMIT, TCK_CTL_SLACK_RST, TCK_CTL_OUT_EN, TCK_CTL_SRC_ACTIVE, TCK_CTL_SRC] }

def TCK_PERIOD_PERIOD_US : Fld := ⟨0x200004, 16, 0, .rw, 40000, 0x9C40⟩
def TCK_PERIOD : Reg :=
  { off := 0x200004, width := 32, count := 1, stride := 4, perTile := false, reset := 40000,
    fields := [TCK_PERIOD_PERIOD_US] }

def TCK_PERIOD_ACT_PERIOD_US : Fld := ⟨0x200008, 16, 0, .ro, 40000, 0x9C40⟩
def TCK_PERIOD_ACT : Reg :=
  { off := 0x200008, width := 32, count := 1, stride := 4, perTile := false, reset := 40000,
    fields := [TCK_PERIOD_ACT_PERIOD_US] }

def TCK_PHASE_PHASE_US : Fld := ⟨0x20000C, 16, 0, .rw, 0, 0x0⟩
def TCK_PHASE : Reg :=
  { off := 0x20000C, width := 32, count := 1, stride := 4, perTile := false, reset := 0,
    fields := [TCK_PHASE_PHASE_US] }

def TCK_TICKIN_EDGE : Fld := ⟨0x200010, 16, 16, .rw, 0, 0x64⟩
def TCK_TICKIN_TOL_US : Fld := ⟨0x200010, 9, 0, .rw, 100, 0x64⟩
def TCK_TICKIN : Reg :=
  { off := 0x200010, width := 32, count := 1, stride := 4, perTile := false, reset := 100,
    fields := [TCK_TICKIN_EDGE, TCK_TICKIN_TOL_US] }

def TCK_STATUS_HOLDOVER : Fld := ⟨0x200014, 8, 8, .ro, 0, 0x0⟩
def TCK_STATUS_SRC_FALLBACK : Fld := ⟨0x200014, 7, 7, .rw1c, 0, 0x0⟩
def TCK_STATUS_SRC_REJ : Fld := ⟨0x200014, 6, 6, .rw1c, 0, 0x0⟩
def TCK_STATUS_PER_REJ : Fld := ⟨0x200014, 5, 5, .rw1c, 0, 0x0⟩
def TCK_STATUS_COMMIT_DEFER : Fld := ⟨0x200014, 4, 4, .rw1c, 0, 0x0⟩
def TCK_STATUS_EARLY : Fld := ⟨0x200014, 3, 3, .rw1c, 0, 0x0⟩
def TCK_STATUS_MISSED : Fld := ⟨0x200014, 2, 2, .rw1c, 0, 0x0⟩
def TCK_STATUS_BREACH : Fld := ⟨0x200014, 1, 1, .rw1c, 0, 0x0⟩
def TCK_STATUS_OVERRUN : Fld := ⟨0x200014, 0, 0, .rw1c, 0, 0x0⟩
def TCK_STATUS : Reg :=
  { off := 0x200014, width := 32, count := 1, stride := 4, perTile := false, reset := 0,
    fields := [TCK_STATUS_HOLDOVER, TCK_STATUS_SRC_FALLBACK, TCK_STATUS_SRC_REJ, TCK_STATUS_PER_REJ,
      TCK_STATUS_COMMIT_DEFER, TCK_STATUS_EARLY, TCK_STATUS_MISSED, TCK_STATUS_BREACH, TCK_STATUS_OVERRUN] }

def TCK_NOTIFY_DIV : Fld := ⟨0x200018, 15, 0, .rw, 0, 0x0⟩
def TCK_NOTIFY : Reg :=
  { off := 0x200018, width := 32, count := 1, stride := 4, perTile := false, reset := 0,
    fields := [TCK_NOTIFY_DIV] }

def TCK_ELAPSED_ELAPSED_US : Fld := ⟨0x20001C, 17, 0, .ro, 0, 0x0⟩
def TCK_ELAPSED : Reg :=
  { off := 0x20001C, width := 32, count := 1, stride := 4, perTile := false, reset := 0,
    fields := [TCK_ELAPSED_ELAPSED_US] }

def TCK_SLACK_LAST_SLACK_US : Fld := ⟨0x200020, 16, 0, .ro, 0, 0x0⟩
def TCK_SLACK_LAST : Reg :=
  { off := 0x200020, width := 32, count := 1, stride := 4, perTile := false, reset := 0,
    fields := [TCK_SLACK_LAST_SLACK_US] }

def TCK_SLACK_MIN_SLACK_US : Fld := ⟨0x200024, 16, 0, .ro, 131071, 0x1FFFF⟩
def TCK_SLACK_MIN : Reg :=
  { off := 0x200024, width := 32, count := 1, stride := 4, perTile := false, reset := 131071,
    fields := [TCK_SLACK_MIN_SLACK_US] }

def TCK_COUNT_TICK : Fld := ⟨0x200028, 63, 0, .ro, 0, 0x0⟩
def TCK_COUNT : Reg :=
  { off := 0x200028, width := 64, count := 1, stride := 8, perTile := false, reset := 0,
    fields := [TCK_COUNT_TICK] }

def TCK_BOUNDARY_TS_TIME_NS : Fld := ⟨0x200030, 63, 0, .ro, 0, 0x0⟩
def TCK_BOUNDARY_TS : Reg :=
  { off := 0x200030, width := 64, count := 1, stride := 8, perTile := false, reset := 0,
    fields := [TCK_BOUNDARY_TS_TIME_NS] }

def TCK_COMMIT_PENDING : Fld := ⟨0x200038, 63, 56, .ro, 0, 0x0⟩
def TCK_COMMIT_LAST_TICK : Fld := ⟨0x200038, 47, 0, .ro, 0, 0x0⟩
def TCK_COMMIT : Reg :=
  { off := 0x200038, width := 64, count := 1, stride := 8, perTile := false, reset := 0,
    fields := [TCK_COMMIT_PENDING, TCK_COMMIT_LAST_TICK] }

def TCK_OVR_COUNT_SAT : Fld := ⟨0x200040, 63, 63, .rw1c, 0, 0x0⟩
def TCK_OVR_COUNT_COUNT : Fld := ⟨0x200040, 47, 0, .ro, 0, 0x0⟩
def TCK_OVR_COUNT : Reg :=
  { off := 0x200040, width := 64, count := 1, stride := 8, perTile := false, reset := 0,
    fields := [TCK_OVR_COUNT_SAT, TCK_OVR_COUNT_COUNT] }

def TCK_BREACH_COUNT_SAT : Fld := ⟨0x200048, 63, 63, .rw1c, 0, 0x0⟩
def TCK_BREACH_COUNT_COUNT : Fld := ⟨0x200048, 47, 0, .ro, 0, 0x0⟩
def TCK_BREACH_COUNT : Reg :=
  { off := 0x200048, width := 64, count := 1, stride := 8, perTile := false, reset := 0,
    fields := [TCK_BREACH_COUNT_SAT, TCK_BREACH_COUNT_COUNT] }

def TCK_EDGE_COUNT_SAT : Fld := ⟨0x200050, 63, 63, .rw1c, 0, 0x0⟩
def TCK_EDGE_COUNT_COUNT : Fld := ⟨0x200050, 47, 0, .ro, 0, 0x0⟩
def TCK_EDGE_COUNT : Reg :=
  { off := 0x200050, width := 64, count := 1, stride := 8, perTile := false, reset := 0,
    fields := [TCK_EDGE_COUNT_SAT, TCK_EDGE_COUNT_COUNT] }

def TCK_OVR_REC_VALID : Fld := ⟨0x200058, 63, 63, .rw1c, 0, 0x0⟩
def TCK_OVR_REC_TICK : Fld := ⟨0x200058, 55, 32, .ro, 0, 0x0⟩
def TCK_OVR_REC_CLASS : Fld := ⟨0x200058, 31, 30, .ro, 0, 0x0⟩
def TCK_OVR_REC_SERVICE : Fld := ⟨0x200058, 21, 16, .ro, 0, 0x0⟩
def TCK_OVR_REC_TILES_OPEN : Fld := ⟨0x200058, 6, 0, .ro, 0, 0x0⟩
def TCK_OVR_REC : Reg :=
  { off := 0x200058, width := 64, count := 1, stride := 8, perTile := false, reset := 0,
    fields := [TCK_OVR_REC_VALID, TCK_OVR_REC_TICK, TCK_OVR_REC_CLASS, TCK_OVR_REC_SERVICE, TCK_OVR_REC_TILES_OPEN] }

def TCK_BREACH_REC_VALID : Fld := ⟨0x200060, 63, 63, .rw1c, 0, 0x0⟩
def TCK_BREACH_REC_TICK : Fld := ⟨0x200060, 55, 32, .ro, 0, 0x0⟩
def TCK_BREACH_REC_SOURCE : Fld := ⟨0x200060, 31, 28, .ro, 0, 0x0⟩
def TCK_BREACH_REC_TILE : Fld := ⟨0x200060, 27, 22, .ro, 0, 0x0⟩
def TCK_BREACH_REC_CYCLE64 : Fld := ⟨0x200060, 21, 0, .ro, 0, 0x0⟩
def TCK_BREACH_REC : Reg :=
  { off := 0x200060, width := 64, count := 1, stride := 8, perTile := false, reset := 0,
    fields := [TCK_BREACH_REC_VALID, TCK_BREACH_REC_TICK, TCK_BREACH_REC_SOURCE, TCK_BREACH_REC_TILE,
      TCK_BREACH_REC_CYCLE64] }

def regsTCK0 : List Reg := [TCK_CTL, TCK_PERIOD, TCK_PERIOD_ACT, TCK_PHASE, TCK_TICKIN, TCK_STATUS, TCK_NOTIFY,
      TCK_ELAPSED, TCK_SLACK_LAST, TCK_SLACK_MIN, TCK_COUNT, TCK_BOUNDARY_TS, TCK_COMMIT, TCK_OVR_COUNT,
      TCK_BREACH_COUNT, TCK_EDGE_COUNT, TCK_OVR_REC, TCK_BREACH_REC]

/-! ### TIL (R96) -/

def TIL_ID_CLUSTER : Fld := ⟨0x1000000, 10, 8, .ro, 0, 0x0⟩
def TIL_ID_TILE : Fld := ⟨0x1000000, 5, 0, .ro, 0, 0x0⟩
def TIL_ID : Reg :=
  { off := 0x1000000, width := 32, count := 1, stride := 4, perTile := true, reset := 0,
    fields := [TIL_ID_CLUSTER, TIL_ID_TILE] }

def TIL_STATE_SERVICE : Fld := ⟨0x1000004, 21, 16, .ro, 0, 0x0⟩
def TIL_STATE_CLASS : Fld := ⟨0x1000004, 9, 8, .ro, 0, 0x0⟩
def TIL_STATE_PHASE : Fld := ⟨0x1000004, 5, 4, .ro, 0, 0x0⟩
def TIL_STATE_STATE : Fld := ⟨0x1000004, 2, 0, .ro, 0, 0x0⟩
def TIL_STATE : Reg :=
  { off := 0x1000004, width := 32, count := 1, stride := 4, perTile := true, reset := 0,
    fields := [TIL_STATE_SERVICE, TIL_STATE_CLASS, TIL_STATE_PHASE, TIL_STATE_STATE] }

def TIL_CFG_FTAB_LOADED : Fld := ⟨0x1000008, 23, 16, .ro, 0, 0x0⟩
def TIL_CFG_STAGE : Fld := ⟨0x1000008, 1, 0, .ro, 0, 0x0⟩
def TIL_CFG : Reg :=
  { off := 0x1000008, width := 32, count := 1, stride := 4, perTile := true, reset := 0,
    fields := [TIL_CFG_FTAB_LOADED, TIL_CFG_STAGE] }

def TIL_STATUS_HOST_REJ : Fld := ⟨0x100000C, 8, 8, .rw1c, 0, 0x0⟩
def TIL_STATUS_DMA_LIMIT : Fld := ⟨0x100000C, 7, 7, .rw1c, 0, 0x0⟩
def TIL_STATUS_SLAB_BUSY : Fld := ⟨0x100000C, 6, 6, .rw1c, 0, 0x0⟩
def TIL_STATUS_SLAB_POISON : Fld := ⟨0x100000C, 5, 5, .rw1c, 0, 0x0⟩
def TIL_STATUS_MEM_UE : Fld := ⟨0x100000C, 4, 4, .rw1c, 0, 0x0⟩
def TIL_STATUS_MEM_CE : Fld := ⟨0x100000C, 3, 3, .rw1c, 0, 0x0⟩
def TIL_STATUS_ACC_SAT : Fld := ⟨0x100000C, 2, 2, .rw1c, 0, 0x0⟩
def TIL_STATUS_POISON_OUT : Fld := ⟨0x100000C, 1, 1, .rw1c, 0, 0x0⟩
def TIL_STATUS_POISON_IN : Fld := ⟨0x100000C, 0, 0, .rw1c, 0, 0x0⟩
def TIL_STATUS : Reg :=
  { off := 0x100000C, width := 32, count := 1, stride := 4, perTile := true, reset := 0,
    fields := [TIL_STATUS_HOST_REJ, TIL_STATUS_DMA_LIMIT, TIL_STATUS_SLAB_BUSY, TIL_STATUS_SLAB_POISON,
      TIL_STATUS_MEM_UE, TIL_STATUS_MEM_CE, TIL_STATUS_ACC_SAT, TIL_STATUS_POISON_OUT, TIL_STATUS_POISON_IN] }

def TIL_EVT_EN_EN : Fld := ⟨0x1000010, 8, 0, .rw, 508, 0x1FC⟩
def TIL_EVT_EN : Reg :=
  { off := 0x1000010, width := 32, count := 1, stride := 4, perTile := true, reset := 508,
    fields := [TIL_EVT_EN_EN] }

def TIL_CYCLE_CYCLE : Fld := ⟨0x1000014, 31, 0, .ro, 0, 0x0⟩
def TIL_CYCLE : Reg :=
  { off := 0x1000014, width := 32, count := 1, stride := 4, perTile := true, reset := 0,
    fields := [TIL_CYCLE_CYCLE] }

def TIL_SLAB_STAT_RETRY_MAX : Fld := ⟨0x1000018, 18, 16, .ro, 0, 0x0⟩
def TIL_SLAB_STAT_FILLING : Fld := ⟨0x1000018, 8, 8, .ro, 0, 0x0⟩
def TIL_SLAB_STAT_HALF : Fld := ⟨0x1000018, 0, 0, .ro, 0, 0x0⟩
def TIL_SLAB_STAT : Reg :=
  { off := 0x1000018, width := 32, count := 1, stride := 4, perTile := true, reset := 0,
    fields := [TIL_SLAB_STAT_RETRY_MAX, TIL_SLAB_STAT_FILLING, TIL_SLAB_STAT_HALF] }

def TIL_INVAL_GO : Fld := ⟨0x100001C, 0, 0, .wo, 0, 0x0⟩
def TIL_INVAL : Reg :=
  { off := 0x100001C, width := 32, count := 1, stride := 4, perTile := true, reset := 0,
    fields := [TIL_INVAL_GO] }

def TIL_STEP_COUNT_SAT : Fld := ⟨0x1000020, 63, 63, .rw1c, 0, 0x0⟩
def TIL_STEP_COUNT_COUNT : Fld := ⟨0x1000020, 47, 0, .ro, 0, 0x0⟩
def TIL_STEP_COUNT : Reg :=
  { off := 0x1000020, width := 64, count := 1, stride := 8, perTile := true, reset := 0,
    fields := [TIL_STEP_COUNT_SAT, TIL_STEP_COUNT_COUNT] }

def TIL_STALL_COUNT_SAT : Fld := ⟨0x1000028, 63, 63, .rw1c, 0, 0x0⟩
def TIL_STALL_COUNT_COUNT : Fld := ⟨0x1000028, 47, 0, .ro, 0, 0x0⟩
def TIL_STALL_COUNT : Reg :=
  { off := 0x1000028, width := 64, count := 1, stride := 8, perTile := true, reset := 0,
    fields := [TIL_STALL_COUNT_SAT, TIL_STALL_COUNT_COUNT] }

def TIL_CE_COUNT_SAT : Fld := ⟨0x1000030, 63, 63, .rw1c, 0, 0x0⟩
def TIL_CE_COUNT_COUNT : Fld := ⟨0x1000030, 47, 0, .ro, 0, 0x0⟩
def TIL_CE_COUNT : Reg :=
  { off := 0x1000030, width := 64, count := 1, stride := 8, perTile := true, reset := 0,
    fields := [TIL_CE_COUNT_SAT, TIL_CE_COUNT_COUNT] }

def TIL_UE_COUNT_SAT : Fld := ⟨0x1000038, 63, 63, .rw1c, 0, 0x0⟩
def TIL_UE_COUNT_COUNT : Fld := ⟨0x1000038, 47, 0, .ro, 0, 0x0⟩
def TIL_UE_COUNT : Reg :=
  { off := 0x1000038, width := 64, count := 1, stride := 8, perTile := true, reset := 0,
    fields := [TIL_UE_COUNT_SAT, TIL_UE_COUNT_COUNT] }

def TIL_SAT_COUNT_SAT : Fld := ⟨0x1000040, 63, 63, .rw1c, 0, 0x0⟩
def TIL_SAT_COUNT_COUNT : Fld := ⟨0x1000040, 47, 0, .ro, 0, 0x0⟩
def TIL_SAT_COUNT : Reg :=
  { off := 0x1000040, width := 64, count := 1, stride := 8, perTile := true, reset := 0,
    fields := [TIL_SAT_COUNT_SAT, TIL_SAT_COUNT_COUNT] }

def TIL_SLAB_POISON_COUNT_SAT : Fld := ⟨0x1000048, 63, 63, .rw1c, 0, 0x0⟩
def TIL_SLAB_POISON_COUNT_COUNT : Fld := ⟨0x1000048, 47, 0, .ro, 0, 0x0⟩
def TIL_SLAB_POISON_COUNT : Reg :=
  { off := 0x1000048, width := 64, count := 1, stride := 8, perTile := true, reset := 0,
    fields := [TIL_SLAB_POISON_COUNT_SAT, TIL_SLAB_POISON_COUNT_COUNT] }

def TIL_MEM_ADDR_WORD : Fld := ⟨0x1000050, 15, 0, .rw, 0, 0x0⟩
def TIL_MEM_ADDR : Reg :=
  { off := 0x1000050, width := 32, count := 1, stride := 4, perTile := true, reset := 0,
    fields := [TIL_MEM_ADDR_WORD] }

def TIL_MEM_CTL_BUSY : Fld := ⟨0x1000054, 7, 7, .ro, 0, 0x0⟩
def TIL_MEM_CTL_RESULT : Fld := ⟨0x1000054, 6, 5, .ro, 0, 0x0⟩
def TIL_MEM_CTL_VALID : Fld := ⟨0x1000054, 4, 4, .ro, 0, 0x0⟩
def TIL_MEM_CTL_WRITE : Fld := ⟨0x1000054, 1, 1, .wo, 0, 0x0⟩
def TIL_MEM_CTL_READ : Fld := ⟨0x1000054, 0, 0, .wo, 0, 0x0⟩
def TIL_MEM_CTL : Reg :=
  { off := 0x1000054, width := 32, count := 1, stride := 4, perTile := true, reset := 0,
    fields := [TIL_MEM_CTL_BUSY, TIL_MEM_CTL_RESULT, TIL_MEM_CTL_VALID, TIL_MEM_CTL_WRITE, TIL_MEM_CTL_READ] }

def TIL_MEM_DATA_DATA : Fld := ⟨0x1000058, 31, 0, .rw, 0, 0x0⟩
def TIL_MEM_DATA : Reg :=
  { off := 0x1000058, width := 32, count := 4, stride := 4, perTile := true, reset := 0,
    fields := [TIL_MEM_DATA_DATA] }

def regsTIL0 : List Reg := [TIL_ID, TIL_STATE, TIL_CFG, TIL_STATUS, TIL_EVT_EN, TIL_CYCLE, TIL_SLAB_STAT, TIL_INVAL,
      TIL_STEP_COUNT, TIL_STALL_COUNT, TIL_CE_COUNT, TIL_UE_COUNT, TIL_SAT_COUNT, TIL_SLAB_POISON_COUNT,
      TIL_MEM_ADDR, TIL_MEM_CTL, TIL_MEM_DATA]

/-! ### FAB (R207) -/

def FAB_STATUS_PROXY : Fld := ⟨0xC00000, 6, 6, .rw1c, 0, 0x0⟩
def FAB_STATUS_EVT_LATE : Fld := ⟨0xC00000, 5, 5, .rw1c, 0, 0x0⟩
def FAB_STATUS_SEM_LATE : Fld := ⟨0xC00000, 4, 4, .rw1c, 0, 0x0⟩
def FAB_STATUS_BAR_LATE : Fld := ⟨0xC00000, 3, 3, .rw1c, 0, 0x0⟩
def FAB_STATUS_DEFER : Fld := ⟨0xC00000, 2, 2, .rw1c, 0, 0x0⟩
def FAB_STATUS_LINK_UE : Fld := ⟨0xC00000, 1, 1, .rw1c, 0, 0x0⟩
def FAB_STATUS_LINK_CE : Fld := ⟨0xC00000, 0, 0, .rw1c, 0, 0x0⟩
def FAB_STATUS : Reg :=
  { off := 0xC00000, width := 32, count := 1, stride := 4, perTile := false, reset := 0,
    fields := [FAB_STATUS_PROXY, FAB_STATUS_EVT_LATE, FAB_STATUS_SEM_LATE, FAB_STATUS_BAR_LATE, FAB_STATUS_DEFER,
      FAB_STATUS_LINK_UE, FAB_STATUS_LINK_CE] }

def FAB_EVT_EN_EN : Fld := ⟨0xC00004, 6, 0, .rw, 126, 0x7E⟩
def FAB_EVT_EN : Reg :=
  { off := 0xC00004, width := 32, count := 1, stride := 4, perTile := false, reset := 126,
    fields := [FAB_EVT_EN_EN] }

def FAB_BAR_OWNER_USED3 : Fld := ⟨0xC00008, 31, 31, .ro, 0, 0x0⟩
def FAB_BAR_OWNER_SERVICE3 : Fld := ⟨0xC00008, 29, 24, .ro, 0, 0x0⟩
def FAB_BAR_OWNER_USED2 : Fld := ⟨0xC00008, 23, 23, .ro, 0, 0x0⟩
def FAB_BAR_OWNER_SERVICE2 : Fld := ⟨0xC00008, 21, 16, .ro, 0, 0x0⟩
def FAB_BAR_OWNER_USED1 : Fld := ⟨0xC00008, 15, 15, .ro, 0, 0x0⟩
def FAB_BAR_OWNER_SERVICE1 : Fld := ⟨0xC00008, 13, 8, .ro, 0, 0x0⟩
def FAB_BAR_OWNER_USED0 : Fld := ⟨0xC00008, 7, 7, .ro, 0, 0x0⟩
def FAB_BAR_OWNER_SERVICE0 : Fld := ⟨0xC00008, 5, 0, .ro, 0, 0x0⟩
def FAB_BAR_OWNER : Reg :=
  { off := 0xC00008, width := 32, count := 1, stride := 4, perTile := false, reset := 0,
    fields := [FAB_BAR_OWNER_USED3, FAB_BAR_OWNER_SERVICE3, FAB_BAR_OWNER_USED2, FAB_BAR_OWNER_SERVICE2,
      FAB_BAR_OWNER_USED1, FAB_BAR_OWNER_SERVICE1, FAB_BAR_OWNER_USED0, FAB_BAR_OWNER_SERVICE0] }

def FAB_RES_LOAD_PEAK : Fld := ⟨0xC0000C, 25, 16, .ro, 0, 0x0⟩
def FAB_RES_LOAD_MEAN : Fld := ⟨0xC0000C, 9, 0, .ro, 0, 0x0⟩
def FAB_RES_LOAD : Reg :=
  { off := 0xC0000C, width := 32, count := 1, stride := 4, perTile := false, reset := 0,
    fields := [FAB_RES_LOAD_PEAK, FAB_RES_LOAD_MEAN] }

def FAB_BAR_STATE_INSTANCE : Fld := ⟨0xC00010, 31, 16, .ro, 0, 0x0⟩
def FAB_BAR_STATE_OPEN : Fld := ⟨0xC00010, 7, 7, .ro, 0, 0x0⟩
def FAB_BAR_STATE_ARRIVED : Fld := ⟨0xC00010, 6, 0, .ro, 0, 0x0⟩
def FAB_BAR_STATE : Reg :=
  { off := 0xC00010, width := 32, count := 4, stride := 4, perTile := false, reset := 0,
    fields := [FAB_BAR_STATE_INSTANCE, FAB_BAR_STATE_OPEN, FAB_BAR_STATE_ARRIVED] }

def FAB_LINK_CE_COUNT_SAT : Fld := ⟨0xC00020, 63, 63, .rw1c, 0, 0x0⟩
def FAB_LINK_CE_COUNT_COUNT : Fld := ⟨0xC00020, 47, 0, .ro, 0, 0x0⟩
def FAB_LINK_CE_COUNT : Reg :=
  { off := 0xC00020, width := 64, count := 1, stride := 8, perTile := false, reset := 0,
    fields := [FAB_LINK_CE_COUNT_SAT, FAB_LINK_CE_COUNT_COUNT] }

def FAB_LINK_UE_COUNT_SAT : Fld := ⟨0xC00028, 63, 63, .rw1c, 0, 0x0⟩
def FAB_LINK_UE_COUNT_COUNT : Fld := ⟨0xC00028, 47, 0, .ro, 0, 0x0⟩
def FAB_LINK_UE_COUNT : Reg :=
  { off := 0xC00028, width := 64, count := 1, stride := 8, perTile := false, reset := 0,
    fields := [FAB_LINK_UE_COUNT_SAT, FAB_LINK_UE_COUNT_COUNT] }

def FAB_DEFER_COUNT_SAT : Fld := ⟨0xC00030, 63, 63, .rw1c, 0, 0x0⟩
def FAB_DEFER_COUNT_COUNT : Fld := ⟨0xC00030, 47, 0, .ro, 0, 0x0⟩
def FAB_DEFER_COUNT : Reg :=
  { off := 0xC00030, width := 64, count := 1, stride := 8, perTile := false, reset := 0,
    fields := [FAB_DEFER_COUNT_SAT, FAB_DEFER_COUNT_COUNT] }

def FAB_PROXY_COUNT_SAT : Fld := ⟨0xC00038, 63, 63, .rw1c, 0, 0x0⟩
def FAB_PROXY_COUNT_COUNT : Fld := ⟨0xC00038, 47, 0, .ro, 0, 0x0⟩
def FAB_PROXY_COUNT : Reg :=
  { off := 0xC00038, width := 64, count := 1, stride := 8, perTile := false, reset := 0,
    fields := [FAB_PROXY_COUNT_SAT, FAB_PROXY_COUNT_COUNT] }

def FAB_LINK_REC_VALID : Fld := ⟨0xC00040, 63, 63, .rw1c, 0, 0x0⟩
def FAB_LINK_REC_UE : Fld := ⟨0xC00040, 62, 62, .ro, 0, 0x0⟩
def FAB_LINK_REC_TICK : Fld := ⟨0xC00040, 55, 32, .ro, 0, 0x0⟩
def FAB_LINK_REC_TILE : Fld := ⟨0xC00040, 31, 26, .ro, 0, 0x0⟩
def FAB_LINK_REC_DIR : Fld := ⟨0xC00040, 25, 24, .ro, 0, 0x0⟩
def FAB_LINK_REC_CYCLE64 : Fld := ⟨0xC00040, 21, 0, .ro, 0, 0x0⟩
def FAB_LINK_REC : Reg :=
  { off := 0xC00040, width := 64, count := 1, stride := 8, perTile := false, reset := 0,
    fields := [FAB_LINK_REC_VALID, FAB_LINK_REC_UE, FAB_LINK_REC_TICK, FAB_LINK_REC_TILE, FAB_LINK_REC_DIR,
      FAB_LINK_REC_CYCLE64] }

def regsFAB0 : List Reg := [FAB_STATUS, FAB_EVT_EN, FAB_BAR_OWNER, FAB_RES_LOAD, FAB_BAR_STATE, FAB_LINK_CE_COUNT,
      FAB_LINK_UE_COUNT, FAB_DEFER_COUNT, FAB_PROXY_COUNT, FAB_LINK_REC]

/-! ### NVS (R249) -/

def NVS_GEOM_BLOCKS_PER_BANK : Fld := ⟨0x400000, 31, 24, .ro, 66, 0x42800240⟩
def NVS_GEOM_PAGES_PER_BLOCK : Fld := ⟨0x400000, 23, 16, .ro, 128, 0x42800240⟩
def NVS_GEOM_SPARES_PER_BANK : Fld := ⟨0x400000, 11, 8, .ro, 2, 0x42800240⟩
def NVS_GEOM_BANKS_PER_PLANE : Fld := ⟨0x400000, 7, 4, .ro, 4, 0x42800240⟩
def NVS_GEOM_PLANES : Fld := ⟨0x400000, 3, 0, .ro, 0, 0x42800240⟩
def NVS_GEOM : Reg :=
  { off := 0x400000, width := 32, count := 1, stride := 4, perTile := false, reset := 1115685440,
    fields := [NVS_GEOM_BLOCKS_PER_BANK, NVS_GEOM_PAGES_PER_BLOCK, NVS_GEOM_SPARES_PER_BANK,
      NVS_GEOM_BANKS_PER_PLANE, NVS_GEOM_PLANES] }

def NVS_CTL_PLANE_OPS : Fld := ⟨0x400004, 23, 16, .rw, 64, 0x4018FC⟩
def NVS_CTL_WARN : Fld := ⟨0x400004, 15, 8, .rw, 24, 0x4018FC⟩
def NVS_CTL_RETRY_MAX : Fld := ⟨0x400004, 7, 5, .rw, 7, 0x4018FC⟩
def NVS_CTL_AGE_REFRESH_EN : Fld := ⟨0x400004, 4, 4, .rw, 1, 0x4018FC⟩
def NVS_CTL_READ_REFRESH_EN : Fld := ⟨0x400004, 3, 3, .rw, 1, 0x4018FC⟩
def NVS_CTL_WARN_REFRESH_EN : Fld := ⟨0x400004, 2, 2, .rw, 1, 0x4018FC⟩
def NVS_CTL_HOLD : Fld := ⟨0x400004, 1, 1, .rw, 0, 0x4018FC⟩
def NVS_CTL : Reg :=
  { off := 0x400004, width := 32, count := 1, stride := 4, perTile := false, reset := 4200700,
    fields := [NVS_CTL_PLANE_OPS, NVS_CTL_WARN, NVS_CTL_RETRY_MAX, NVS_CTL_AGE_REFRESH_EN, NVS_CTL_READ_REFRESH_EN,
      NVS_CTL_WARN_REFRESH_EN, NVS_CTL_HOLD] }

def NVS_STATUS_PF_QUIESCE : Fld := ⟨0x400008, 13, 13, .rw1c, 0, 0x0⟩
def NVS_STATUS_RECOVERED : Fld := ⟨0x400008, 12, 12, .rw1c, 0, 0x0⟩
def NVS_STATUS_TABLE_REPAIR : Fld := ⟨0x400008, 11, 11, .rw1c, 0, 0x0⟩
def NVS_STATUS_WORN : Fld := ⟨0x400008, 10, 10, .rw1c, 0, 0x0⟩
def NVS_STATUS_SPARE_LOW : Fld := ⟨0x400008, 9, 9, .rw1c, 0, 0x0⟩
def NVS_STATUS_GROWN_BAD : Fld := ⟨0x400008, 8, 8, .rw1c, 0, 0x0⟩
def NVS_STATUS_ERASE_FAIL : Fld := ⟨0x400008, 7, 7, .rw1c, 0, 0x0⟩
def NVS_STATUS_PROG_FAIL : Fld := ⟨0x400008, 6, 6, .rw1c, 0, 0x0⟩
def NVS_STATUS_NOT_ERASED : Fld := ⟨0x400008, 5, 5, .rw1c, 0, 0x0⟩
def NVS_STATUS_XO_READ : Fld := ⟨0x400008, 4, 4, .rw1c, 0, 0x0⟩
def NVS_STATUS_BUSY_STALL : Fld := ⟨0x400008, 3, 3, .rw1c, 0, 0x0⟩
def NVS_STATUS_UE : Fld := ⟨0x400008, 2, 2, .rw1c, 0, 0x0⟩
def NVS_STATUS_RETRY : Fld := ⟨0x400008, 1, 1, .rw1c, 0, 0x0⟩
def NVS_STATUS_WARN : Fld := ⟨0x400008, 0, 0, .rw1c, 0, 0x0⟩
def NVS_STATUS : Reg :=
  { off := 0x400008, width := 32, count := 1, stride := 4, perTile := false, reset := 0,
    fields := [NVS_STATUS_PF_QUIESCE, NVS_STATUS_RECOVERED, NVS_STATUS_TABLE_REPAIR, NVS_STATUS_WORN,
      NVS_STATUS_SPARE_LOW, NVS_STATUS_GROWN_BAD, NVS_STATUS_ERASE_FAIL, NVS_STATUS_PROG_FAIL, NVS_STATUS_NOT_ERASED,
      NVS_STATUS_XO_READ, NVS_STATUS_BUSY_STALL, NVS_STATUS_UE, NVS_STATUS_RETRY, NVS_STATUS_WARN] }

def NVS_EVT_EN_EN : Fld := ⟨0x40000C, 13, 0, .rw, 16381, 0x3FFD⟩
def NVS_EVT_EN : Reg :=
  { off := 0x40000C, width := 32, count := 1, stride := 4, perTile := false, reset := 16381,
    fields := [NVS_EVT_EN_EN] }

def NVS_STATE_OPS : Fld := ⟨0x400010, 23, 16, .ro, 0, 0x0⟩
def NVS_STATE_REFRESH_QUEUE : Fld := ⟨0x400010, 15, 8, .ro, 0, 0x0⟩
def NVS_STATE_WAITING : Fld := ⟨0x400010, 4, 4, .ro, 0, 0x0⟩
def NVS_STATE_BATCH_OPEN : Fld := ⟨0x400010, 3, 3, .ro, 0, 0x0⟩
def NVS_STATE_PHASE : Fld := ⟨0x400010, 2, 0, .ro, 0, 0x0⟩
def NVS_STATE : Reg :=
  { off := 0x400010, width := 32, count := 1, stride := 4, perTile := false, reset := 0,
    fields := [NVS_STATE_OPS, NVS_STATE_REFRESH_QUEUE, NVS_STATE_WAITING, NVS_STATE_BATCH_OPEN, NVS_STATE_PHASE] }

def NVS_REFRESH_CFG_AGE_DAYS : Fld := ⟨0x400014, 31, 16, .rw, 365, 0x16D8000⟩
def NVS_REFRESH_CFG_READ_LIMIT : Fld := ⟨0x400014, 15, 0, .rw, 32768, 0x16D8000⟩
def NVS_REFRESH_CFG : Reg :=
  { off := 0x400014, width := 32, count := 1, stride := 4, perTile := false, reset := 23953408,
    fields := [NVS_REFRESH_CFG_AGE_DAYS, NVS_REFRESH_CFG_READ_LIMIT] }

def NVS_SPARE_MIN_SLAB : Fld := ⟨0x400018, 23, 18, .ro, 0, 0x0⟩
def NVS_SPARE_MIN_BANK : Fld := ⟨0x400018, 15, 12, .ro, 0, 0x0⟩
def NVS_SPARE_MIN_FREE : Fld := ⟨0x400018, 1, 0, .ro, 0, 0x0⟩
def NVS_SPARE_MIN : Reg :=
  { off := 0x400018, width := 32, count := 1, stride := 4, perTile := false, reset := 0,
    fields := [NVS_SPARE_MIN_SLAB, NVS_SPARE_MIN_BANK, NVS_SPARE_MIN_FREE] }

def NVS_PAGE_ADDR_PAGE : Fld := ⟨0x400020, 39, 12, .rw, 0, 0x0⟩
def NVS_PAGE_ADDR : Reg :=
  { off := 0x400020, width := 64, count := 1, stride := 8, perTile := false, reset := 0,
    fields := [NVS_PAGE_ADDR_PAGE] }

def NVS_PAGE_CTL_BUSY : Fld := ⟨0x400028, 7, 7, .ro, 0, 0x0⟩
def NVS_PAGE_CTL_LEVEL : Fld := ⟨0x400028, 6, 4, .ro, 0, 0x0⟩
def NVS_PAGE_CTL_RESULT : Fld := ⟨0x400028, 3, 2, .ro, 0, 0x0⟩
def NVS_PAGE_CTL_TAG_OK : Fld := ⟨0x400028, 1, 1, .ro, 0, 0x0⟩
def NVS_PAGE_CTL_READ : Fld := ⟨0x400028, 0, 0, .wo, 0, 0x0⟩
def NVS_PAGE_CTL : Reg :=
  { off := 0x400028, width := 32, count := 1, stride := 4, perTile := false, reset := 0,
    fields := [NVS_PAGE_CTL_BUSY, NVS_PAGE_CTL_LEVEL, NVS_PAGE_CTL_RESULT, NVS_PAGE_CTL_TAG_OK, NVS_PAGE_CTL_READ] }

def NVS_PAGE_STAT_BCH_BITS : Fld := ⟨0x40002C, 23, 16, .ro, 0, 0x0⟩
def NVS_PAGE_STAT_CE_BITS : Fld := ⟨0x40002C, 8, 0, .ro, 0, 0x0⟩
def NVS_PAGE_STAT : Reg :=
  { off := 0x40002C, width := 32, count := 1, stride := 4, perTile := false, reset := 0,
    fields := [NVS_PAGE_STAT_BCH_BITS, NVS_PAGE_STAT_CE_BITS] }

def NVS_TABLE_SEL_SLAB : Fld := ⟨0x400030, 25, 20, .rw, 0, 0x0⟩
def NVS_TABLE_SEL_PLANE : Fld := ⟨0x400030, 17, 16, .rw, 0, 0x0⟩
def NVS_TABLE_SEL_BLOCK : Fld := ⟨0x400030, 8, 0, .rw, 0, 0x0⟩
def NVS_TABLE_SEL : Reg :=
  { off := 0x400030, width := 32, count := 1, stride := 4, perTile := false, reset := 0,
    fields := [NVS_TABLE_SEL_SLAB, NVS_TABLE_SEL_PLANE, NVS_TABLE_SEL_BLOCK] }

def NVS_TABLE_DATA_STATE : Fld := ⟨0x400038, 63, 62, .ro, 0, 0x0⟩
def NVS_TABLE_DATA_XO : Fld := ⟨0x400038, 61, 61, .ro, 0, 0x0⟩
def NVS_TABLE_DATA_ERASED : Fld := ⟨0x400038, 60, 60, .ro, 0, 0x0⟩
def NVS_TABLE_DATA_REFRESH : Fld := ⟨0x400038, 59, 59, .ro, 0, 0x0⟩
def NVS_TABLE_DATA_LOGICAL : Fld := ⟨0x400038, 55, 48, .ro, 0, 0x0⟩
def NVS_TABLE_DATA_ERASES : Fld := ⟨0x400038, 47, 32, .ro, 0, 0x0⟩
def NVS_TABLE_DATA_AGE : Fld := ⟨0x400038, 31, 16, .ro, 0, 0x0⟩
def NVS_TABLE_DATA_SENSES : Fld := ⟨0x400038, 15, 0, .ro, 0, 0x0⟩
def NVS_TABLE_DATA : Reg :=
  { off := 0x400038, width := 64, count := 1, stride := 8, perTile := false, reset := 0,
    fields := [NVS_TABLE_DATA_STATE, NVS_TABLE_DATA_XO, NVS_TABLE_DATA_ERASED, NVS_TABLE_DATA_REFRESH,
      NVS_TABLE_DATA_LOGICAL, NVS_TABLE_DATA_ERASES, NVS_TABLE_DATA_AGE, NVS_TABLE_DATA_SENSES] }

def NVS_JOURNAL_STAT_OPEN : Fld := ⟨0x400040, 47, 40, .ro, 0, 0x0⟩
def NVS_JOURNAL_STAT_REERASED : Fld := ⟨0x400040, 39, 32, .ro, 0, 0x0⟩
def NVS_JOURNAL_STAT_CONFIRMED : Fld := ⟨0x400040, 31, 24, .ro, 0, 0x0⟩
def NVS_JOURNAL_STAT_ABANDONED : Fld := ⟨0x400040, 23, 16, .ro, 0, 0x0⟩
def NVS_JOURNAL_STAT_TABLES : Fld := ⟨0x400040, 15, 8, .ro, 0, 0x0⟩
def NVS_JOURNAL_STAT_DONE : Fld := ⟨0x400040, 0, 0, .ro, 0, 0x0⟩
def NVS_JOURNAL_STAT : Reg :=
  { off := 0x400040, width := 64, count := 1, stride := 8, perTile := false, reset := 0,
    fields := [NVS_JOURNAL_STAT_OPEN, NVS_JOURNAL_STAT_REERASED, NVS_JOURNAL_STAT_CONFIRMED,
      NVS_JOURNAL_STAT_ABANDONED, NVS_JOURNAL_STAT_TABLES, NVS_JOURNAL_STAT_DONE] }

def NVS_ERR_REC_VALID : Fld := ⟨0x400048, 63, 63, .rw1c, 0, 0x0⟩
def NVS_ERR_REC_KIND : Fld := ⟨0x400048, 62, 60, .ro, 0, 0x0⟩
def NVS_ERR_REC_SLAB : Fld := ⟨0x400048, 57, 52, .ro, 0, 0x0⟩
def NVS_ERR_REC_PLANE : Fld := ⟨0x400048, 51, 50, .ro, 0, 0x0⟩
def NVS_ERR_REC_BLOCK : Fld := ⟨0x400048, 49, 41, .ro, 0, 0x0⟩
def NVS_ERR_REC_PAGE : Fld := ⟨0x400048, 40, 34, .ro, 0, 0x0⟩
def NVS_ERR_REC_TICK : Fld := ⟨0x400048, 31, 0, .ro, 0, 0x0⟩
def NVS_ERR_REC : Reg :=
  { off := 0x400048, width := 64, count := 1, stride := 8, perTile := false, reset := 0,
    fields := [NVS_ERR_REC_VALID, NVS_ERR_REC_KIND, NVS_ERR_REC_SLAB, NVS_ERR_REC_PLANE, NVS_ERR_REC_BLOCK,
      NVS_ERR_REC_PAGE, NVS_ERR_REC_TICK] }

def NVS_CE_BITS_COUNT_SAT : Fld := ⟨0x400050, 63, 63, .rw1c, 0, 0x0⟩
def NVS_CE_BITS_COUNT_COUNT : Fld := ⟨0x400050, 47, 0, .ro, 0, 0x0⟩
def NVS_CE_BITS_COUNT : Reg :=
  { off := 0x400050, width := 64, count := 1, stride := 8, perTile := false, reset := 0,
    fields := [NVS_CE_BITS_COUNT_SAT, NVS_CE_BITS_COUNT_COUNT] }

def NVS_WARN_COUNT_SAT : Fld := ⟨0x400058, 63, 63, .rw1c, 0, 0x0⟩
def NVS_WARN_COUNT_COUNT : Fld := ⟨0x400058, 47, 0, .ro, 0, 0x0⟩
def NVS_WARN_COUNT : Reg :=
  { off := 0x400058, width := 64, count := 1, stride := 8, perTile := false, reset := 0,
    fields := [NVS_WARN_COUNT_SAT, NVS_WARN_COUNT_COUNT] }

def NVS_RETRY_COUNT_SAT : Fld := ⟨0x400060, 63, 63, .rw1c, 0, 0x0⟩
def NVS_RETRY_COUNT_COUNT : Fld := ⟨0x400060, 47, 0, .ro, 0, 0x0⟩
def NVS_RETRY_COUNT : Reg :=
  { off := 0x400060, width := 64, count := 1, stride := 8, perTile := false, reset := 0,
    fields := [NVS_RETRY_COUNT_SAT, NVS_RETRY_COUNT_COUNT] }

def NVS_UE_PAGE_COUNT_SAT : Fld := ⟨0x400068, 63, 63, .rw1c, 0, 0x0⟩
def NVS_UE_PAGE_COUNT_COUNT : Fld := ⟨0x400068, 47, 0, .ro, 0, 0x0⟩
def NVS_UE_PAGE_COUNT : Reg :=
  { off := 0x400068, width := 64, count := 1, stride := 8, perTile := false, reset := 0,
    fields := [NVS_UE_PAGE_COUNT_SAT, NVS_UE_PAGE_COUNT_COUNT] }

def NVS_PROG_COUNT_SAT : Fld := ⟨0x400070, 63, 63, .rw1c, 0, 0x0⟩
def NVS_PROG_COUNT_COUNT : Fld := ⟨0x400070, 47, 0, .ro, 0, 0x0⟩
def NVS_PROG_COUNT : Reg :=
  { off := 0x400070, width := 64, count := 1, stride := 8, perTile := false, reset := 0,
    fields := [NVS_PROG_COUNT_SAT, NVS_PROG_COUNT_COUNT] }

def NVS_ERASE_COUNT_SAT : Fld := ⟨0x400078, 63, 63, .rw1c, 0, 0x0⟩
def NVS_ERASE_COUNT_COUNT : Fld := ⟨0x400078, 47, 0, .ro, 0, 0x0⟩
def NVS_ERASE_COUNT : Reg :=
  { off := 0x400078, width := 64, count := 1, stride := 8, perTile := false, reset := 0,
    fields := [NVS_ERASE_COUNT_SAT, NVS_ERASE_COUNT_COUNT] }

def NVS_REFRESH_COUNT_SAT : Fld := ⟨0x400080, 63, 63, .rw1c, 0, 0x0⟩
def NVS_REFRESH_COUNT_COUNT : Fld := ⟨0x400080, 47, 0, .ro, 0, 0x0⟩
def NVS_REFRESH_COUNT : Reg :=
  { off := 0x400080, width := 64, count := 1, stride := 8, perTile := false, reset := 0,
    fields := [NVS_REFRESH_COUNT_SAT, NVS_REFRESH_COUNT_COUNT] }

def NVS_STALL_COUNT_SAT : Fld := ⟨0x400088, 63, 63, .rw1c, 0, 0x0⟩
def NVS_STALL_COUNT_COUNT : Fld := ⟨0x400088, 47, 0, .ro, 0, 0x0⟩
def NVS_STALL_COUNT : Reg :=
  { off := 0x400088, width := 64, count := 1, stride := 8, perTile := false, reset := 0,
    fields := [NVS_STALL_COUNT_SAT, NVS_STALL_COUNT_COUNT] }

def NVS_PAGE_BUF_DATA : Fld := ⟨0x401000, 31, 0, .ro, 0, 0x0⟩
def NVS_PAGE_BUF : Reg :=
  { off := 0x401000, width := 32, count := 1024, stride := 4, perTile := false, reset := 0,
    fields := [NVS_PAGE_BUF_DATA] }

def NVS_PAGE_TAG_DATA : Fld := ⟨0x402000, 31, 0, .ro, 0, 0x0⟩
def NVS_PAGE_TAG : Reg :=
  { off := 0x402000, width := 32, count := 8, stride := 4, perTile := false, reset := 0,
    fields := [NVS_PAGE_TAG_DATA] }

def regsNVS0 : List Reg := [NVS_GEOM, NVS_CTL, NVS_STATUS, NVS_EVT_EN, NVS_STATE, NVS_REFRESH_CFG, NVS_SPARE_MIN,
      NVS_PAGE_ADDR, NVS_PAGE_CTL, NVS_PAGE_STAT, NVS_TABLE_SEL, NVS_TABLE_DATA, NVS_JOURNAL_STAT, NVS_ERR_REC,
      NVS_CE_BITS_COUNT, NVS_WARN_COUNT, NVS_RETRY_COUNT, NVS_UE_PAGE_COUNT, NVS_PROG_COUNT, NVS_ERASE_COUNT]
def regsNVS1 : List Reg := [NVS_REFRESH_COUNT, NVS_STALL_COUNT, NVS_PAGE_BUF, NVS_PAGE_TAG]

/-! ### MEM (R322) -/

def MEM_CFG_DENSITY : Fld := ⟨0x300000, 23, 20, .ro, 0, 0x800⟩
def MEM_CFG_ECC_COMPAT : Fld := ⟨0x300000, 16, 16, .ro, 0, 0x800⟩
def MEM_CFG_CHANNELS : Fld := ⟨0x300000, 15, 8, .ro, 8, 0x800⟩
def MEM_CFG_TRAINED : Fld := ⟨0x300000, 0, 0, .ro, 0, 0x800⟩
def MEM_CFG : Reg :=
  { off := 0x300000, width := 32, count := 1, stride := 4, perTile := false, reset := 2048,
    fields := [MEM_CFG_DENSITY, MEM_CFG_ECC_COMPAT, MEM_CFG_CHANNELS, MEM_CFG_TRAINED] }

def MEM_CTL_WARN : Fld := ⟨0x300004, 15, 8, .rw, 2, 0x204⟩
def MEM_CTL_REPAIR_EN : Fld := ⟨0x300004, 2, 2, .rw, 1, 0x204⟩
def MEM_CTL_POOL_EN : Fld := ⟨0x300004, 1, 1, .rw, 0, 0x204⟩
def MEM_CTL : Reg :=
  { off := 0x300004, width := 32, count := 1, stride := 4, perTile := false, reset := 516,
    fields := [MEM_CTL_WARN, MEM_CTL_REPAIR_EN, MEM_CTL_POOL_EN] }

def MEM_STATUS_TRAIN_FAIL : Fld := ⟨0x300008, 12, 12, .rw1c, 0, 0x0⟩
def MEM_STATUS_ACCESS : Fld := ⟨0x300008, 11, 11, .rw1c, 0, 0x0⟩
def MEM_STATUS_SRAM_UE : Fld := ⟨0x300008, 10, 10, .rw1c, 0, 0x0⟩
def MEM_STATUS_POOL_WAIT : Fld := ⟨0x300008, 9, 9, .rw1c, 0, 0x0⟩
def MEM_STATUS_TAINT : Fld := ⟨0x300008, 8, 8, .rw1c, 0, 0x0⟩
def MEM_STATUS_DISCARD : Fld := ⟨0x300008, 7, 7, .rw1c, 0, 0x0⟩
def MEM_STATUS_EVICT : Fld := ⟨0x300008, 6, 6, .rw1c, 0, 0x0⟩
def MEM_STATUS_REPAIR_FAIL : Fld := ⟨0x300008, 5, 5, .rw1c, 0, 0x0⟩
def MEM_STATUS_REPAIRED : Fld := ⟨0x300008, 4, 4, .rw1c, 0, 0x0⟩
def MEM_STATUS_UNINIT_READ : Fld := ⟨0x300008, 3, 3, .rw1c, 0, 0x0⟩
def MEM_STATUS_POISON_READ : Fld := ⟨0x300008, 2, 2, .rw1c, 0, 0x0⟩
def MEM_STATUS_UE : Fld := ⟨0x300008, 1, 1, .rw1c, 0, 0x0⟩
def MEM_STATUS_CE : Fld := ⟨0x300008, 0, 0, .rw1c, 0, 0x0⟩
def MEM_STATUS : Reg :=
  { off := 0x300008, width := 32, count := 1, stride := 4, perTile := false, reset := 0,
    fields := [MEM_STATUS_TRAIN_FAIL, MEM_STATUS_ACCESS, MEM_STATUS_SRAM_UE, MEM_STATUS_POOL_WAIT, MEM_STATUS_TAINT,
      MEM_STATUS_DISCARD, MEM_STATUS_EVICT, MEM_STATUS_REPAIR_FAIL, MEM_STATUS_REPAIRED, MEM_STATUS_UNINIT_READ,
      MEM_STATUS_POISON_READ, MEM_STATUS_UE, MEM_STATUS_CE] }

def MEM_EVT_EN_EN : Fld := ⟨0x30000C, 12, 0, .rw, 7598, 0x1DAE⟩
def MEM_EVT_EN : Reg :=
  { off := 0x30000C, width := 32, count := 1, stride := 4, perTile := false, reset := 7598,
    fields := [MEM_EVT_EN_EN] }

def MEM_USABLE_MIB : Fld := ⟨0x300010, 15, 0, .ro, 0, 0x0⟩
def MEM_USABLE : Reg :=
  { off := 0x300010, width := 32, count := 1, stride := 4, perTile := false, reset := 0,
    fields := [MEM_USABLE_MIB] }

def MEM_POOL_BASE_FRAME : Fld := ⟨0x300014, 15, 0, .rw, 0, 0x0⟩
def MEM_POOL_BASE : Reg :=
  { off := 0x300014, width := 32, count := 1, stride := 4, perTile := false, reset := 0,
    fields := [MEM_POOL_BASE_FRAME] }

def MEM_POOL_SIZE_FRAMES : Fld := ⟨0x300018, 15, 0, .rw, 0, 0x0⟩
def MEM_POOL_SIZE : Reg :=
  { off := 0x300018, width := 32, count := 1, stride := 4, perTile := false, reset := 0,
    fields := [MEM_POOL_SIZE_FRAMES] }

def MEM_POOL_STAT_FREE : Fld := ⟨0x30001C, 31, 16, .ro, 0, 0x0⟩
def MEM_POOL_STAT_WAITING : Fld := ⟨0x30001C, 6, 0, .ro, 0, 0x0⟩
def MEM_POOL_STAT : Reg :=
  { off := 0x30001C, width := 32, count := 1, stride := 4, perTile := false, reset := 0,
    fields := [MEM_POOL_STAT_FREE, MEM_POOL_STAT_WAITING] }

def MEM_BACKING_BASE_ADDR : Fld := ⟨0x300020, 63, 12, .rw, 0, 0x0⟩
def MEM_BACKING_BASE_EN : Fld := ⟨0x300020, 0, 0, .rw, 0, 0x0⟩
def MEM_BACKING_BASE : Reg :=
  { off := 0x300020, width := 64, count := 1, stride := 8, perTile := false, reset := 0,
    fields := [MEM_BACKING_BASE_ADDR, MEM_BACKING_BASE_EN] }

def MEM_SPARE_STAT_ROWS : Fld := ⟨0x300028, 31, 16, .ro, 0, 0x0⟩
def MEM_SPARE_STAT_COLUMNS : Fld := ⟨0x300028, 15, 0, .ro, 0, 0x0⟩
def MEM_SPARE_STAT : Reg :=
  { off := 0x300028, width := 32, count := 1, stride := 4, perTile := false, reset := 0,
    fields := [MEM_SPARE_STAT_ROWS, MEM_SPARE_STAT_COLUMNS] }

def MEM_CE_COUNT_SAT : Fld := ⟨0x300030, 63, 63, .rw1c, 0, 0x0⟩
def MEM_CE_COUNT_COUNT : Fld := ⟨0x300030, 47, 0, .ro, 0, 0x0⟩
def MEM_CE_COUNT : Reg :=
  { off := 0x300030, width := 64, count := 1, stride := 8, perTile := false, reset := 0,
    fields := [MEM_CE_COUNT_SAT, MEM_CE_COUNT_COUNT] }

def MEM_UE_COUNT_SAT : Fld := ⟨0x300038, 63, 63, .rw1c, 0, 0x0⟩
def MEM_UE_COUNT_COUNT : Fld := ⟨0x300038, 47, 0, .ro, 0, 0x0⟩
def MEM_UE_COUNT : Reg :=
  { off := 0x300038, width := 64, count := 1, stride := 8, perTile := false, reset := 0,
    fields := [MEM_UE_COUNT_SAT, MEM_UE_COUNT_COUNT] }

def MEM_REPAIR_COUNT_SAT : Fld := ⟨0x300040, 63, 63, .rw1c, 0, 0x0⟩
def MEM_REPAIR_COUNT_COUNT : Fld := ⟨0x300040, 47, 0, .ro, 0, 0x0⟩
def MEM_REPAIR_COUNT : Reg :=
  { off := 0x300040, width := 64, count := 1, stride := 8, perTile := false, reset := 0,
    fields := [MEM_REPAIR_COUNT_SAT, MEM_REPAIR_COUNT_COUNT] }

def MEM_EVICT_COUNT_SAT : Fld := ⟨0x300048, 63, 63, .rw1c, 0, 0x0⟩
def MEM_EVICT_COUNT_COUNT : Fld := ⟨0x300048, 47, 0, .ro, 0, 0x0⟩
def MEM_EVICT_COUNT : Reg :=
  { off := 0x300048, width := 64, count := 1, stride := 8, perTile := false, reset := 0,
    fields := [MEM_EVICT_COUNT_SAT, MEM_EVICT_COUNT_COUNT] }

def MEM_DISCARD_COUNT_SAT : Fld := ⟨0x300050, 63, 63, .rw1c, 0, 0x0⟩
def MEM_DISCARD_COUNT_COUNT : Fld := ⟨0x300050, 47, 0, .ro, 0, 0x0⟩
def MEM_DISCARD_COUNT : Reg :=
  { off := 0x300050, width := 64, count := 1, stride := 8, perTile := false, reset := 0,
    fields := [MEM_DISCARD_COUNT_SAT, MEM_DISCARD_COUNT_COUNT] }

def MEM_SRAM_CE_COUNT_SAT : Fld := ⟨0x300058, 63, 63, .rw1c, 0, 0x0⟩
def MEM_SRAM_CE_COUNT_COUNT : Fld := ⟨0x300058, 47, 0, .ro, 0, 0x0⟩
def MEM_SRAM_CE_COUNT : Reg :=
  { off := 0x300058, width := 64, count := 1, stride := 8, perTile := false, reset := 0,
    fields := [MEM_SRAM_CE_COUNT_SAT, MEM_SRAM_CE_COUNT_COUNT] }

def MEM_SRAM_UE_COUNT_SAT : Fld := ⟨0x300060, 63, 63, .rw1c, 0, 0x0⟩
def MEM_SRAM_UE_COUNT_COUNT : Fld := ⟨0x300060, 47, 0, .ro, 0, 0x0⟩
def MEM_SRAM_UE_COUNT : Reg :=
  { off := 0x300060, width := 64, count := 1, stride := 8, perTile := false, reset := 0,
    fields := [MEM_SRAM_UE_COUNT_SAT, MEM_SRAM_UE_COUNT_COUNT] }

def MEM_ERR_REC_VALID : Fld := ⟨0x300068, 63, 63, .rw1c, 0, 0x0⟩
def MEM_ERR_REC_KIND : Fld := ⟨0x300068, 62, 60, .ro, 0, 0x0⟩
def MEM_ERR_REC_TICK : Fld := ⟨0x300068, 59, 36, .ro, 0, 0x0⟩
def MEM_ERR_REC_WORD : Fld := ⟨0x300068, 35, 0, .ro, 0, 0x0⟩
def MEM_ERR_REC : Reg :=
  { off := 0x300068, width := 64, count := 1, stride := 8, perTile := false, reset := 0,
    fields := [MEM_ERR_REC_VALID, MEM_ERR_REC_KIND, MEM_ERR_REC_TICK, MEM_ERR_REC_WORD] }

def regsMEM0 : List Reg := [MEM_CFG, MEM_CTL, MEM_STATUS, MEM_EVT_EN, MEM_USABLE, MEM_POOL_BASE, MEM_POOL_SIZE,
      MEM_POOL_STAT, MEM_BACKING_BASE, MEM_SPARE_STAT, MEM_CE_COUNT, MEM_UE_COUNT, MEM_REPAIR_COUNT, MEM_EVICT_COUNT,
      MEM_DISCARD_COUNT, MEM_SRAM_CE_COUNT, MEM_SRAM_UE_COUNT, MEM_ERR_REC]

/-! ### CMP (R342) -/

def CMP_STATUS_TAB_REJ : Fld := ⟨0x500000, 4, 4, .rw1c, 0, 0x0⟩
def CMP_STATUS_ACCESS : Fld := ⟨0x500000, 3, 3, .rw1c, 0, 0x0⟩
def CMP_STATUS_MAP_UE : Fld := ⟨0x500000, 2, 2, .rw1c, 0, 0x0⟩
def CMP_STATUS_DECODE_ERR : Fld := ⟨0x500000, 1, 1, .rw1c, 0, 0x0⟩
def CMP_STATUS_STALE : Fld := ⟨0x500000, 0, 0, .rw1c, 0, 0x0⟩
def CMP_STATUS : Reg :=
  { off := 0x500000, width := 32, count := 1, stride := 4, perTile := false, reset := 0,
    fields := [CMP_STATUS_TAB_REJ, CMP_STATUS_ACCESS, CMP_STATUS_MAP_UE, CMP_STATUS_DECODE_ERR, CMP_STATUS_STALE] }

def CMP_EVT_EN_EN : Fld := ⟨0x500004, 4, 0, .rw, 31, 0x1F⟩
def CMP_EVT_EN : Reg :=
  { off := 0x500004, width := 32, count := 1, stride := 4, perTile := false, reset := 31,
    fields := [CMP_EVT_EN_EN] }

def CMP_TAB_CTL_RESULT : Fld := ⟨0x500008, 11, 10, .ro, 0, 0x0⟩
def CMP_TAB_CTL_WAITING : Fld := ⟨0x500008, 9, 9, .ro, 0, 0x0⟩
def CMP_TAB_CTL_SLOT : Fld := ⟨0x500008, 7, 4, .rw, 0, 0x0⟩
def CMP_TAB_CTL_CLEAR : Fld := ⟨0x500008, 1, 1, .wo, 0, 0x0⟩
def CMP_TAB_CTL_LOAD : Fld := ⟨0x500008, 0, 0, .wo, 0, 0x0⟩
def CMP_TAB_CTL : Reg :=
  { off := 0x500008, width := 32, count := 1, stride := 4, perTile := false, reset := 0,
    fields := [CMP_TAB_CTL_RESULT, CMP_TAB_CTL_WAITING, CMP_TAB_CTL_SLOT, CMP_TAB_CTL_CLEAR, CMP_TAB_CTL_LOAD] }

def CMP_SLOT_STATE_PINNED : Fld := ⟨0x50000C, 31, 16, .ro, 0, 0x0⟩
def CMP_SLOT_STATE_LOADED : Fld := ⟨0x50000C, 15, 0, .ro, 0, 0x0⟩
def CMP_SLOT_STATE : Reg :=
  { off := 0x50000C, width := 32, count := 1, stride := 4, perTile := false, reset := 0,
    fields := [CMP_SLOT_STATE_PINNED, CMP_SLOT_STATE_LOADED] }

def CMP_REF_INFLIGHT : Fld := ⟨0x500010, 31, 8, .ro, 0, 0x0⟩
def CMP_REF_PINS : Fld := ⟨0x500010, 6, 0, .ro, 0, 0x0⟩
def CMP_REF : Reg :=
  { off := 0x500010, width := 32, count := 1, stride := 4, perTile := false, reset := 0,
    fields := [CMP_REF_INFLIGHT, CMP_REF_PINS] }

def CMP_REGION_SEL_REGION : Fld := ⟨0x500014, 2, 0, .rw, 0, 0x0⟩
def CMP_REGION_SEL : Reg :=
  { off := 0x500014, width := 32, count := 1, stride := 4, perTile := false, reset := 0,
    fields := [CMP_REGION_SEL_REGION] }

def CMP_REGION_BASE_BASE : Fld := ⟨0x500018, 39, 9, .rw, 0, 0x0⟩
def CMP_REGION_BASE : Reg :=
  { off := 0x500018, width := 64, count := 1, stride := 8, perTile := false, reset := 0,
    fields := [CMP_REGION_BASE_BASE] }

def CMP_REGION_SIZE_EN : Fld := ⟨0x500020, 31, 31, .rw, 0, 0x0⟩
def CMP_REGION_SIZE_BLOCKS : Fld := ⟨0x500020, 22, 0, .rw, 0, 0x0⟩
def CMP_REGION_SIZE : Reg :=
  { off := 0x500020, width := 32, count := 1, stride := 4, perTile := false, reset := 0,
    fields := [CMP_REGION_SIZE_EN, CMP_REGION_SIZE_BLOCKS] }

def CMP_CODED_COUNT_SAT : Fld := ⟨0x500028, 63, 63, .rw1c, 0, 0x0⟩
def CMP_CODED_COUNT_COUNT : Fld := ⟨0x500028, 47, 0, .ro, 0, 0x0⟩
def CMP_CODED_COUNT : Reg :=
  { off := 0x500028, width := 64, count := 1, stride := 8, perTile := false, reset := 0,
    fields := [CMP_CODED_COUNT_SAT, CMP_CODED_COUNT_COUNT] }

def CMP_OPEN_COUNT_SAT : Fld := ⟨0x500030, 63, 63, .rw1c, 0, 0x0⟩
def CMP_OPEN_COUNT_COUNT : Fld := ⟨0x500030, 47, 0, .ro, 0, 0x0⟩
def CMP_OPEN_COUNT : Reg :=
  { off := 0x500030, width := 64, count := 1, stride := 8, perTile := false, reset := 0,
    fields := [CMP_OPEN_COUNT_SAT, CMP_OPEN_COUNT_COUNT] }

def CMP_SAVED_COUNT_SAT : Fld := ⟨0x500038, 63, 63, .rw1c, 0, 0x0⟩
def CMP_SAVED_COUNT_COUNT : Fld := ⟨0x500038, 47, 0, .ro, 0, 0x0⟩
def CMP_SAVED_COUNT : Reg :=
  { off := 0x500038, width := 64, count := 1, stride := 8, perTile := false, reset := 0,
    fields := [CMP_SAVED_COUNT_SAT, CMP_SAVED_COUNT_COUNT] }

def CMP_STALE_COUNT_SAT : Fld := ⟨0x500040, 63, 63, .rw1c, 0, 0x0⟩
def CMP_STALE_COUNT_COUNT : Fld := ⟨0x500040, 47, 0, .ro, 0, 0x0⟩
def CMP_STALE_COUNT : Reg :=
  { off := 0x500040, width := 64, count := 1, stride := 8, perTile := false, reset := 0,
    fields := [CMP_STALE_COUNT_SAT, CMP_STALE_COUNT_COUNT] }

def CMP_DECODE_ERR_COUNT_SAT : Fld := ⟨0x500048, 63, 63, .rw1c, 0, 0x0⟩
def CMP_DECODE_ERR_COUNT_COUNT : Fld := ⟨0x500048, 47, 0, .ro, 0, 0x0⟩
def CMP_DECODE_ERR_COUNT : Reg :=
  { off := 0x500048, width := 64, count := 1, stride := 8, perTile := false, reset := 0,
    fields := [CMP_DECODE_ERR_COUNT_SAT, CMP_DECODE_ERR_COUNT_COUNT] }

def CMP_TCHK_FORMAT : Fld := ⟨0x500080, 16, 16, .ro, 0, 0x0⟩
def CMP_TCHK_TCHK : Fld := ⟨0x500080, 15, 0, .ro, 0, 0x0⟩
def CMP_TCHK : Reg :=
  { off := 0x500080, width := 32, count := 16, stride := 4, perTile := false, reset := 0,
    fields := [CMP_TCHK_FORMAT, CMP_TCHK_TCHK] }

def CMP_TAB_BUF_DATA : Fld := ⟨0x500100, 31, 0, .rw, 0, 0x0⟩
def CMP_TAB_BUF : Reg :=
  { off := 0x500100, width := 32, count := 36, stride := 4, perTile := false, reset := 0,
    fields := [CMP_TAB_BUF_DATA] }

def regsCMP0 : List Reg := [CMP_STATUS, CMP_EVT_EN, CMP_TAB_CTL, CMP_SLOT_STATE, CMP_REF, CMP_REGION_SEL,
      CMP_REGION_BASE, CMP_REGION_SIZE, CMP_CODED_COUNT, CMP_OPEN_COUNT, CMP_SAVED_COUNT, CMP_STALE_COUNT,
      CMP_DECODE_ERR_COUNT, CMP_TCHK, CMP_TAB_BUF]

/-! ### INT (R378) -/

def INT_STATUS_ACCESS : Fld := ⟨0x600000, 9, 9, .rw1c, 0, 0x0⟩
def INT_STATUS_PPS_IN : Fld := ⟨0x600000, 8, 8, .rw1c, 0, 0x0⟩
def INT_STATUS_PTP_STEP : Fld := ⟨0x600000, 7, 7, .rw1c, 0, 0x0⟩
def INT_STATUS_PTP_UNLOCK : Fld := ⟨0x600000, 6, 6, .rw1c, 0, 0x0⟩
def INT_STATUS_IGMP_COMPAT : Fld := ⟨0x600000, 5, 5, .rw1c, 0, 0x0⟩
def INT_STATUS_ARP_MISS : Fld := ⟨0x600000, 4, 4, .rw1c, 0, 0x0⟩
def INT_STATUS_TX_DROP : Fld := ⟨0x600000, 3, 3, .rw1c, 0, 0x0⟩
def INT_STATUS_RX_DROP : Fld := ⟨0x600000, 2, 2, .rw1c, 0, 0x0⟩
def INT_STATUS_LINK1_DOWN : Fld := ⟨0x600000, 1, 1, .rw1c, 0, 0x0⟩
def INT_STATUS_LINK0_DOWN : Fld := ⟨0x600000, 0, 0, .rw1c, 0, 0x0⟩
def INT_STATUS : Reg :=
  { off := 0x600000, width := 32, count := 1, stride := 4, perTile := false, reset := 0,
    fields := [INT_STATUS_ACCESS, INT_STATUS_PPS_IN, INT_STATUS_PTP_STEP, INT_STATUS_PTP_UNLOCK,
      INT_STATUS_IGMP_COMPAT, INT_STATUS_ARP_MISS, INT_STATUS_TX_DROP, INT_STATUS_RX_DROP, INT_STATUS_LINK1_DOWN,
      INT_STATUS_LINK0_DOWN] }

def INT_EVT_EN_EN : Fld := ⟨0x600004, 9, 0, .rw, 763, 0x2FB⟩
def INT_EVT_EN : Reg :=
  { off := 0x600004, width := 32, count := 1, stride := 4, perTile := false, reset := 763,
    fields := [INT_EVT_EN_EN] }

def INT_PORT_CTL_PREFIX : Fld := ⟨0x600008, 13, 8, .rw, 0, 0xE1⟩
def INT_PORT_CTL_UNTAGGED_EN : Fld := ⟨0x600008, 7, 7, .rw, 1, 0xE1⟩
def INT_PORT_CTL_ICMP_EN : Fld := ⟨0x600008, 6, 6, .rw, 1, 0xE1⟩
def INT_PORT_CTL_FEC : Fld := ⟨0x600008, 5, 4, .rw, 2, 0xE1⟩
def INT_PORT_CTL_SPEED : Fld := ⟨0x600008, 1, 1, .rw, 0, 0xE1⟩
def INT_PORT_CTL_EN : Fld := ⟨0x600008, 0, 0, .rw, 1, 0xE1⟩
def INT_PORT_CTL : Reg :=
  { off := 0x600008, width := 32, count := 2, stride := 4, perTile := false, reset := 225,
    fields := [INT_PORT_CTL_PREFIX, INT_PORT_CTL_UNTAGGED_EN, INT_PORT_CTL_ICMP_EN, INT_PORT_CTL_FEC,
      INT_PORT_CTL_SPEED, INT_PORT_CTL_EN] }

def INT_PORT_STAT_PTP_PORT : Fld := ⟨0x600010, 3, 2, .ro, 0, 0x0⟩
def INT_PORT_STAT_LINK1 : Fld := ⟨0x600010, 1, 1, .ro, 0, 0x0⟩
def INT_PORT_STAT_LINK0 : Fld := ⟨0x600010, 0, 0, .ro, 0, 0x0⟩
def INT_PORT_STAT : Reg :=
  { off := 0x600010, width := 32, count := 1, stride := 4, perTile := false, reset := 0,
    fields := [INT_PORT_STAT_PTP_PORT, INT_PORT_STAT_LINK1, INT_PORT_STAT_LINK0] }

def INT_PTP_CTL_DOMAIN : Fld := ⟨0x600014, 31, 24, .rw, 0, 0xC3E88C⟩
def INT_PTP_CTL_PCP : Fld := ⟨0x600014, 23, 21, .rw, 6, 0xC3E88C⟩
def INT_PTP_CTL_LOCK_NS : Fld := ⟨0x600014, 20, 8, .rw, 1000, 0xC3E88C⟩
def INT_PTP_CTL_PPS_OUT_EN : Fld := ⟨0x600014, 7, 7, .rw, 1, 0xC3E88C⟩
def INT_PTP_CTL_DELAY : Fld := ⟨0x600014, 5, 5, .rw, 0, 0xC3E88C⟩
def INT_PTP_CTL_TRANSPORT : Fld := ⟨0x600014, 4, 4, .rw, 0, 0xC3E88C⟩
def INT_PTP_CTL_PORT : Fld := ⟨0x600014, 3, 2, .rw, 3, 0xC3E88C⟩
def INT_PTP_CTL : Reg :=
  { off := 0x600014, width := 32, count := 1, stride := 4, perTile := false, reset := 12839052,
    fields := [INT_PTP_CTL_DOMAIN, INT_PTP_CTL_PCP, INT_PTP_CTL_LOCK_NS, INT_PTP_CTL_PPS_OUT_EN, INT_PTP_CTL_DELAY,
      INT_PTP_CTL_TRANSPORT, INT_PTP_CTL_PORT] }

def INT_MAC_MAC : Fld := ⟨0x600018, 47, 0, .rw, 0, 0x0⟩
def INT_MAC : Reg :=
  { off := 0x600018, width := 64, count := 2, stride := 8, perTile := false, reset := 0,
    fields := [INT_MAC_MAC] }

def INT_IP_GATEWAY : Fld := ⟨0x600028, 63, 32, .rw, 0, 0x0⟩
def INT_IP_ADDR : Fld := ⟨0x600028, 31, 0, .rw, 0, 0x0⟩
def INT_IP : Reg :=
  { off := 0x600028, width := 64, count := 2, stride := 8, perTile := false, reset := 0,
    fields := [INT_IP_GATEWAY, INT_IP_ADDR] }

def INT_VLAN_EN_0 : Fld := ⟨0x600038, 15, 15, .rw, 0, 0x0⟩
def INT_VLAN_VID_0 : Fld := ⟨0x600038, 11, 0, .rw, 0, 0x0⟩
def INT_VLAN_EN_1 : Fld := ⟨0x600038, 31, 31, .rw, 0, 0x0⟩
def INT_VLAN_VID_1 : Fld := ⟨0x600038, 27, 16, .rw, 0, 0x0⟩
def INT_VLAN_EN_2 : Fld := ⟨0x600038, 47, 47, .rw, 0, 0x0⟩
def INT_VLAN_VID_2 : Fld := ⟨0x600038, 43, 32, .rw, 0, 0x0⟩
def INT_VLAN_EN_3 : Fld := ⟨0x600038, 63, 63, .rw, 0, 0x0⟩
def INT_VLAN_VID_3 : Fld := ⟨0x600038, 59, 48, .rw, 0, 0x0⟩
def INT_VLAN : Reg :=
  { off := 0x600038, width := 64, count := 2, stride := 8, perTile := false, reset := 0,
    fields := [INT_VLAN_EN_0, INT_VLAN_VID_0, INT_VLAN_EN_1, INT_VLAN_VID_1, INT_VLAN_EN_2, INT_VLAN_VID_2,
      INT_VLAN_EN_3, INT_VLAN_VID_3] }

def INT_PTP_STATUS_STEPS : Fld := ⟨0x600048, 15, 8, .ro, 0, 0x0⟩
def INT_PTP_STATUS_MASTER_SEEN : Fld := ⟨0x600048, 1, 1, .ro, 0, 0x0⟩
def INT_PTP_STATUS_LOCK : Fld := ⟨0x600048, 0, 0, .ro, 0, 0x0⟩
def INT_PTP_STATUS : Reg :=
  { off := 0x600048, width := 32, count := 1, stride := 4, perTile := false, reset := 0,
    fields := [INT_PTP_STATUS_STEPS, INT_PTP_STATUS_MASTER_SEEN, INT_PTP_STATUS_LOCK] }

def INT_PTP_OFFSET_OFFSET : Fld := ⟨0x600050, 63, 0, .ro, 0, 0x0⟩
def INT_PTP_OFFSET : Reg :=
  { off := 0x600050, width := 64, count := 1, stride := 8, perTile := false, reset := 0,
    fields := [INT_PTP_OFFSET_OFFSET] }

def INT_PTP_TIME_TIME : Fld := ⟨0x600058, 63, 0, .ro, 0, 0x0⟩
def INT_PTP_TIME : Reg :=
  { off := 0x600058, width := 64, count := 1, stride := 8, perTile := false, reset := 0,
    fields := [INT_PTP_TIME_TIME] }

def INT_PPS_IN_TS_TIME : Fld := ⟨0x600060, 63, 0, .ro, 0, 0x0⟩
def INT_PPS_IN_TS : Reg :=
  { off := 0x600060, width := 64, count := 1, stride := 8, perTile := false, reset := 0,
    fields := [INT_PPS_IN_TS_TIME] }

def INT_RX_DROP_COUNT_SAT : Fld := ⟨0x600068, 63, 63, .rw1c, 0, 0x0⟩
def INT_RX_DROP_COUNT_COUNT : Fld := ⟨0x600068, 47, 0, .ro, 0, 0x0⟩
def INT_RX_DROP_COUNT : Reg :=
  { off := 0x600068, width := 64, count := 1, stride := 8, perTile := false, reset := 0,
    fields := [INT_RX_DROP_COUNT_SAT, INT_RX_DROP_COUNT_COUNT] }

def INT_TX_DROP_COUNT_SAT : Fld := ⟨0x600070, 63, 63, .rw1c, 0, 0x0⟩
def INT_TX_DROP_COUNT_COUNT : Fld := ⟨0x600070, 47, 0, .ro, 0, 0x0⟩
def INT_TX_DROP_COUNT : Reg :=
  { off := 0x600070, width := 64, count := 1, stride := 8, perTile := false, reset := 0,
    fields := [INT_TX_DROP_COUNT_SAT, INT_TX_DROP_COUNT_COUNT] }

def INT_ARP_MISS_COUNT_SAT : Fld := ⟨0x600078, 63, 63, .rw1c, 0, 0x0⟩
def INT_ARP_MISS_COUNT_COUNT : Fld := ⟨0x600078, 47, 0, .ro, 0, 0x0⟩
def INT_ARP_MISS_COUNT : Reg :=
  { off := 0x600078, width := 64, count := 1, stride := 8, perTile := false, reset := 0,
    fields := [INT_ARP_MISS_COUNT_SAT, INT_ARP_MISS_COUNT_COUNT] }

def INT_ARP_STATIC_DATA : Fld := ⟨0x600100, 31, 0, .rw, 0, 0x0⟩
def INT_ARP_STATIC : Reg :=
  { off := 0x600100, width := 32, count := 64, stride := 4, perTile := false, reset := 0,
    fields := [INT_ARP_STATIC_DATA] }

def regsINT0 : List Reg := [INT_STATUS, INT_EVT_EN, INT_PORT_CTL, INT_PORT_STAT, INT_PTP_CTL, INT_MAC, INT_IP,
      INT_VLAN, INT_PTP_STATUS, INT_PTP_OFFSET, INT_PTP_TIME, INT_PPS_IN_TS, INT_RX_DROP_COUNT, INT_TX_DROP_COUNT,
      INT_ARP_MISS_COUNT, INT_ARP_STATIC]

/-! ### VID (R379) -/

def VID_STATUS_ACCESS : Fld := ⟨0x700000, 10, 10, .rw1c, 0, 0x0⟩
def VID_STATUS_OVL_ERR : Fld := ⟨0x700000, 9, 9, .rw1c, 0, 0x0⟩
def VID_STATUS_ENC_REJ : Fld := ⟨0x700000, 8, 8, .rw1c, 0, 0x0⟩
def VID_STATUS_ENC_SKIP : Fld := ⟨0x700000, 7, 7, .rw1c, 0, 0x0⟩
def VID_STATUS_EVT_TRUNC : Fld := ⟨0x700000, 6, 6, .rw1c, 0, 0x0⟩
def VID_STATUS_EVT_DISCARD : Fld := ⟨0x700000, 5, 5, .rw1c, 0, 0x0⟩
def VID_STATUS_MEM_SHORT : Fld := ⟨0x700000, 4, 4, .rw1c, 0, 0x0⟩
def VID_STATUS_UNSUPPORTED : Fld := ⟨0x700000, 3, 3, .rw1c, 0, 0x0⟩
def VID_STATUS_RESYNC : Fld := ⟨0x700000, 2, 2, .rw1c, 0, 0x0⟩
def VID_STATUS_FRAME_LOST : Fld := ⟨0x700000, 1, 1, .rw1c, 0, 0x0⟩
def VID_STATUS_SUBST : Fld := ⟨0x700000, 0, 0, .rw1c, 0, 0x0⟩
def VID_STATUS : Reg :=
  { off := 0x700000, width := 32, count := 1, stride := 4, perTile := false, reset := 0,
    fields := [VID_STATUS_ACCESS, VID_STATUS_OVL_ERR, VID_STATUS_ENC_REJ, VID_STATUS_ENC_SKIP, VID_STATUS_EVT_TRUNC,
      VID_STATUS_EVT_DISCARD, VID_STATUS_MEM_SHORT, VID_STATUS_UNSUPPORTED, VID_STATUS_RESYNC, VID_STATUS_FRAME_LOST,
      VID_STATUS_SUBST] }

def VID_EVT_EN_EN : Fld := ⟨0x700004, 10, 0, .rw, 2044, 0x7FC⟩
def VID_EVT_EN : Reg :=
  { off := 0x700004, width := 32, count := 1, stride := 4, perTile := false, reset := 2044,
    fields := [VID_EVT_EN_EN] }

def VID_MEM_BASE_FRAME : Fld := ⟨0x700008, 15, 0, .rw, 0, 0x0⟩
def VID_MEM_BASE : Reg :=
  { off := 0x700008, width := 32, count := 1, stride := 4, perTile := false, reset := 0,
    fields := [VID_MEM_BASE_FRAME] }

def VID_MEM_SIZE_FRAMES : Fld := ⟨0x70000C, 15, 0, .rw, 0, 0x0⟩
def VID_MEM_SIZE : Reg :=
  { off := 0x70000C, width := 32, count := 1, stride := 4, perTile := false, reset := 0,
    fields := [VID_MEM_SIZE_FRAMES] }

def VID_LOAD_RESERVED : Fld := ⟨0x700010, 31, 16, .ro, 0, 0x0⟩
def VID_LOAD_DEMAND : Fld := ⟨0x700010, 15, 0, .ro, 0, 0x0⟩
def VID_LOAD : Reg :=
  { off := 0x700010, width := 32, count := 1, stride := 4, perTile := false, reset := 0,
    fields := [VID_LOAD_RESERVED, VID_LOAD_DEMAND] }

def VID_SNAP_FREE_FREE : Fld := ⟨0x700014, 18, 0, .ro, 327680, 0x50000⟩
def VID_SNAP_FREE : Reg :=
  { off := 0x700014, width := 32, count := 1, stride := 4, perTile := false, reset := 327680,
    fields := [VID_SNAP_FREE_FREE] }

def VID_STREAM_SEL_SEL : Fld := ⟨0x700018, 4, 0, .rw, 0, 0x0⟩
def VID_STREAM_SEL : Reg :=
  { off := 0x700018, width := 32, count := 1, stride := 4, perTile := false, reset := 0,
    fields := [VID_STREAM_SEL_SEL] }

def VID_STREAM_CTL_EN : Fld := ⟨0x70001C, 31, 31, .rw, 0, 0xC000280⟩
def VID_STREAM_CTL_PORT : Fld := ⟨0x70001C, 30, 29, .rw, 0, 0xC000280⟩
def VID_STREAM_CTL_CODEC : Fld := ⟨0x70001C, 28, 28, .rw, 0, 0xC000280⟩
def VID_STREAM_CTL_PT : Fld := ⟨0x70001C, 27, 21, .rw, 96, 0xC000280⟩
def VID_STREAM_CTL_MEM : Fld := ⟨0x70001C, 20, 13, .rw, 0, 0xC000280⟩
def VID_STREAM_CTL_JITTER_MS : Fld := ⟨0x70001C, 12, 5, .rw, 20, 0xC000280⟩
def VID_STREAM_CTL : Reg :=
  { off := 0x70001C, width := 32, count := 1, stride := 4, perTile := false, reset := 201327232,
    fields := [VID_STREAM_CTL_EN, VID_STREAM_CTL_PORT, VID_STREAM_CTL_CODEC, VID_STREAM_CTL_PT, VID_STREAM_CTL_MEM,
      VID_STREAM_CTL_JITTER_MS] }

def VID_STREAM_ADDR_SRC : Fld := ⟨0x700020, 63, 32, .rw, 0, 0x0⟩
def VID_STREAM_ADDR_DST : Fld := ⟨0x700020, 31, 0, .rw, 0, 0x0⟩
def VID_STREAM_ADDR : Reg :=
  { off := 0x700020, width := 64, count := 1, stride := 8, perTile := false, reset := 0,
    fields := [VID_STREAM_ADDR_SRC, VID_STREAM_ADDR_DST] }

def VID_STREAM_UDP_PORT : Fld := ⟨0x700028, 15, 0, .rw, 0, 0x0⟩
def VID_STREAM_UDP : Reg :=
  { off := 0x700028, width := 32, count := 1, stride := 4, perTile := false, reset := 0,
    fields := [VID_STREAM_UDP_PORT] }

def VID_STREAM_SSRC_SSRC : Fld := ⟨0x70002C, 31, 0, .rw, 0, 0x0⟩
def VID_STREAM_SSRC : Reg :=
  { off := 0x70002C, width := 32, count := 1, stride := 4, perTile := false, reset := 0,
    fields := [VID_STREAM_SSRC_SSRC] }

def VID_STREAM_STAT_STATE : Fld := ⟨0x700030, 31, 29, .ro, 0, 0x0⟩
def VID_STREAM_STAT_WIDTH : Fld := ⟨0x700030, 25, 13, .ro, 0, 0x0⟩
def VID_STREAM_STAT_HEIGHT : Fld := ⟨0x700030, 12, 0, .ro, 0, 0x0⟩
def VID_STREAM_STAT : Reg :=
  { off := 0x700030, width := 32, count := 1, stride := 4, perTile := false, reset := 0,
    fields := [VID_STREAM_STAT_STATE, VID_STREAM_STAT_WIDTH, VID_STREAM_STAT_HEIGHT] }

def VID_STREAM_FRAME_COUNT_SAT : Fld := ⟨0x700038, 63, 63, .rw1c, 0, 0x0⟩
def VID_STREAM_FRAME_COUNT_COUNT : Fld := ⟨0x700038, 47, 0, .ro, 0, 0x0⟩
def VID_STREAM_FRAME_COUNT : Reg :=
  { off := 0x700038, width := 64, count := 1, stride := 8, perTile := false, reset := 0,
    fields := [VID_STREAM_FRAME_COUNT_SAT, VID_STREAM_FRAME_COUNT_COUNT] }

def VID_STREAM_LOST_COUNT_SAT : Fld := ⟨0x700040, 63, 63, .rw1c, 0, 0x0⟩
def VID_STREAM_LOST_COUNT_COUNT : Fld := ⟨0x700040, 47, 0, .ro, 0, 0x0⟩
def VID_STREAM_LOST_COUNT : Reg :=
  { off := 0x700040, width := 64, count := 1, stride := 8, perTile := false, reset := 0,
    fields := [VID_STREAM_LOST_COUNT_SAT, VID_STREAM_LOST_COUNT_COUNT] }

def VID_STREAM_PKT_LOSS_COUNT_SAT : Fld := ⟨0x700048, 63, 63, .rw1c, 0, 0x0⟩
def VID_STREAM_PKT_LOSS_COUNT_COUNT : Fld := ⟨0x700048, 47, 0, .ro, 0, 0x0⟩
def VID_STREAM_PKT_LOSS_COUNT : Reg :=
  { off := 0x700048, width := 64, count := 1, stride := 8, perTile := false, reset := 0,
    fields := [VID_STREAM_PKT_LOSS_COUNT_SAT, VID_STREAM_PKT_LOSS_COUNT_COUNT] }

def VID_EGR_SEL_SEL : Fld := ⟨0x700050, 4, 0, .rw, 0, 0x0⟩
def VID_EGR_SEL : Reg :=
  { off := 0x700050, width := 32, count := 1, stride := 4, perTile := false, reset := 0,
    fields := [VID_EGR_SEL_SEL] }

def VID_EGR_CTL_EN : Fld := ⟨0x700054, 31, 31, .rw, 0, 0x1000000⟩
def VID_EGR_CTL_HEARTBEAT : Fld := ⟨0x700054, 30, 30, .rw, 0, 0x1000000⟩
def VID_EGR_CTL_PORT : Fld := ⟨0x700054, 29, 28, .rw, 0, 0x1000000⟩
def VID_EGR_CTL_PCP : Fld := ⟨0x700054, 27, 25, .rw, 0, 0x1000000⟩
def VID_EGR_CTL_VLAN : Fld := ⟨0x700054, 24, 22, .rw, 4, 0x1000000⟩
def VID_EGR_CTL_DSCP : Fld := ⟨0x700054, 21, 16, .rw, 0, 0x1000000⟩
def VID_EGR_CTL : Reg :=
  { off := 0x700054, width := 32, count := 1, stride := 4, perTile := false, reset := 16777216,
    fields := [VID_EGR_CTL_EN, VID_EGR_CTL_HEARTBEAT, VID_EGR_CTL_PORT, VID_EGR_CTL_PCP, VID_EGR_CTL_VLAN,
      VID_EGR_CTL_DSCP] }

def VID_EGR_DST_DST_PORT : Fld := ⟨0x700058, 63, 48, .rw, 0, 0x0⟩
def VID_EGR_DST_SRC_PORT : Fld := ⟨0x700058, 47, 32, .rw, 0, 0x0⟩
def VID_EGR_DST_DST_ADDR : Fld := ⟨0x700058, 31, 0, .rw, 0, 0x0⟩
def VID_EGR_DST : Reg :=
  { off := 0x700058, width := 64, count := 1, stride := 8, perTile := false, reset := 0,
    fields := [VID_EGR_DST_DST_PORT, VID_EGR_DST_SRC_PORT, VID_EGR_DST_DST_ADDR] }

def VID_ENC_SEL_SEL : Fld := ⟨0x700060, 4, 0, .rw, 0, 0x0⟩
def VID_ENC_SEL : Reg :=
  { off := 0x700060, width := 32, count := 1, stride := 4, perTile := false, reset := 0,
    fields := [VID_ENC_SEL_SEL] }

def VID_ENC_CTL_EN : Fld := ⟨0x700064, 31, 31, .rw, 0, 0x40000400⟩
def VID_ENC_CTL_CODEC : Fld := ⟨0x700064, 30, 30, .rw, 1, 0x40000400⟩
def VID_ENC_CTL_SCALE : Fld := ⟨0x700064, 29, 28, .rw, 0, 0x40000400⟩
def VID_ENC_CTL_EGR : Fld := ⟨0x700064, 27, 24, .rw, 0, 0x40000400⟩
def VID_ENC_CTL_STREAM : Fld := ⟨0x700064, 23, 19, .rw, 0, 0x40000400⟩
def VID_ENC_CTL_SERVICE : Fld := ⟨0x700064, 18, 13, .rw, 0, 0x40000400⟩
def VID_ENC_CTL_GOP : Fld := ⟨0x700064, 12, 5, .rw, 32, 0x40000400⟩
def VID_ENC_CTL : Reg :=
  { off := 0x700064, width := 32, count := 1, stride := 4, perTile := false, reset := 1073742848,
    fields := [VID_ENC_CTL_EN, VID_ENC_CTL_CODEC, VID_ENC_CTL_SCALE, VID_ENC_CTL_EGR, VID_ENC_CTL_STREAM,
      VID_ENC_CTL_SERVICE, VID_ENC_CTL_GOP] }

def VID_ENC_DST_DST_PORT : Fld := ⟨0x700068, 63, 48, .rw, 0, 0x0⟩
def VID_ENC_DST_SRC_PORT : Fld := ⟨0x700068, 47, 32, .rw, 0, 0x0⟩
def VID_ENC_DST_DST_ADDR : Fld := ⟨0x700068, 31, 0, .rw, 0, 0x0⟩
def VID_ENC_DST : Reg :=
  { off := 0x700068, width := 64, count := 1, stride := 8, perTile := false, reset := 0,
    fields := [VID_ENC_DST_DST_PORT, VID_ENC_DST_SRC_PORT, VID_ENC_DST_DST_ADDR] }

def VID_ENC_RATE_CQP : Fld := ⟨0x700070, 31, 31, .rw, 0, 0x60700FA0⟩
def VID_ENC_RATE_PT : Fld := ⟨0x700070, 30, 24, .rw, 96, 0x60700FA0⟩
def VID_ENC_RATE_QP : Fld := ⟨0x700070, 23, 18, .rw, 28, 0x60700FA0⟩
def VID_ENC_RATE_KBPS : Fld := ⟨0x700070, 17, 0, .rw, 4000, 0x60700FA0⟩
def VID_ENC_RATE : Reg :=
  { off := 0x700070, width := 32, count := 1, stride := 4, perTile := false, reset := 1617956768,
    fields := [VID_ENC_RATE_CQP, VID_ENC_RATE_PT, VID_ENC_RATE_QP, VID_ENC_RATE_KBPS] }

def VID_ENC_SSRC_SSRC : Fld := ⟨0x700074, 31, 0, .rw, 0, 0x0⟩
def VID_ENC_SSRC : Reg :=
  { off := 0x700074, width := 32, count := 1, stride := 4, perTile := false, reset := 0,
    fields := [VID_ENC_SSRC_SSRC] }

def VID_EGR_TX_COUNT_SAT : Fld := ⟨0x700078, 63, 63, .rw1c, 0, 0x0⟩
def VID_EGR_TX_COUNT_COUNT : Fld := ⟨0x700078, 47, 0, .ro, 0, 0x0⟩
def VID_EGR_TX_COUNT : Reg :=
  { off := 0x700078, width := 64, count := 1, stride := 8, perTile := false, reset := 0,
    fields := [VID_EGR_TX_COUNT_SAT, VID_EGR_TX_COUNT_COUNT] }

def VID_EGR_DISCARD_COUNT_SAT : Fld := ⟨0x700080, 63, 63, .rw1c, 0, 0x0⟩
def VID_EGR_DISCARD_COUNT_COUNT : Fld := ⟨0x700080, 47, 0, .ro, 0, 0x0⟩
def VID_EGR_DISCARD_COUNT : Reg :=
  { off := 0x700080, width := 64, count := 1, stride := 8, perTile := false, reset := 0,
    fields := [VID_EGR_DISCARD_COUNT_SAT, VID_EGR_DISCARD_COUNT_COUNT] }

def VID_ENC_SKIP_COUNT_SAT : Fld := ⟨0x700088, 63, 63, .rw1c, 0, 0x0⟩
def VID_ENC_SKIP_COUNT_COUNT : Fld := ⟨0x700088, 47, 0, .ro, 0, 0x0⟩
def VID_ENC_SKIP_COUNT : Reg :=
  { off := 0x700088, width := 64, count := 1, stride := 8, perTile := false, reset := 0,
    fields := [VID_ENC_SKIP_COUNT_SAT, VID_ENC_SKIP_COUNT_COUNT] }

def regsVID0 : List Reg := [VID_STATUS, VID_EVT_EN, VID_MEM_BASE, VID_MEM_SIZE, VID_LOAD, VID_SNAP_FREE,
      VID_STREAM_SEL, VID_STREAM_CTL, VID_STREAM_ADDR, VID_STREAM_UDP, VID_STREAM_SSRC, VID_STREAM_STAT,
      VID_STREAM_FRAME_COUNT, VID_STREAM_LOST_COUNT, VID_STREAM_PKT_LOSS_COUNT, VID_EGR_SEL, VID_EGR_CTL,
      VID_EGR_DST, VID_ENC_SEL, VID_ENC_CTL]
def regsVID1 : List Reg := [VID_ENC_DST, VID_ENC_RATE, VID_ENC_SSRC, VID_EGR_TX_COUNT, VID_EGR_DISCARD_COUNT,
      VID_ENC_SKIP_COUNT]

/-! ### DBL (R408) -/

def DBL_CMD_TAIL_INDEX : Fld := ⟨0x1000, 15, 0, .rw, 0, 0x0⟩
def DBL_CMD_TAIL : Reg :=
  { off := 0x1000, width := 32, count := 64, stride := 4096, perTile := false, reset := 0,
    fields := [DBL_CMD_TAIL_INDEX] }

def DBL_CPL_HEAD_INDEX : Fld := ⟨0x1004, 15, 0, .rw, 0, 0x0⟩
def DBL_CPL_HEAD : Reg :=
  { off := 0x1004, width := 32, count := 64, stride := 4096, perTile := false, reset := 0,
    fields := [DBL_CPL_HEAD_INDEX] }

def DBL_RES_HEAD_INDEX : Fld := ⟨0x1008, 15, 0, .rw, 0, 0x0⟩
def DBL_RES_HEAD : Reg :=
  { off := 0x1008, width := 32, count := 16, stride := 4096, perTile := false, reset := 0,
    fields := [DBL_RES_HEAD_INDEX] }

def regsDBL0 : List Reg := [DBL_CMD_TAIL, DBL_CPL_HEAD, DBL_RES_HEAD]

/-! ### HIF (R409) -/

def HIF_STATUS_READY : Fld := ⟨0x100000, 31, 31, .ro, 0, 0x0⟩
def HIF_STATUS_SCH_DOWN : Fld := ⟨0x100000, 30, 30, .ro, 0, 0x0⟩
def HIF_STATUS_EMU_LOST : Fld := ⟨0x100000, 5, 5, .rw1c, 0, 0x0⟩
def HIF_STATUS_ACCESS : Fld := ⟨0x100000, 4, 4, .rw1c, 0, 0x0⟩
def HIF_STATUS_RES_DROP : Fld := ⟨0x100000, 3, 3, .rw1c, 0, 0x0⟩
def HIF_STATUS_DMA_ERR : Fld := ⟨0x100000, 2, 2, .rw1c, 0, 0x0⟩
def HIF_STATUS_RING_REJ : Fld := ⟨0x100000, 1, 1, .rw1c, 0, 0x0⟩
def HIF_STATUS_RING_ERR : Fld := ⟨0x100000, 0, 0, .rw1c, 0, 0x0⟩
def HIF_STATUS : Reg :=
  { off := 0x100000, width := 32, count := 1, stride := 4, perTile := false, reset := 0,
    fields := [HIF_STATUS_READY, HIF_STATUS_SCH_DOWN, HIF_STATUS_EMU_LOST, HIF_STATUS_ACCESS, HIF_STATUS_RES_DROP,
      HIF_STATUS_DMA_ERR, HIF_STATUS_RING_REJ, HIF_STATUS_RING_ERR] }

def HIF_EVT_EN_EN : Fld := ⟨0x100004, 5, 0, .rw, 63, 0x3F⟩
def HIF_EVT_EN : Reg :=
  { off := 0x100004, width := 32, count := 1, stride := 4, perTile := false, reset := 63,
    fields := [HIF_EVT_EN_EN] }

def HIF_VEC_EVT_VEC : Fld := ⟨0x100008, 13, 8, .rw, 0, 0x0⟩
def HIF_VEC_TICK_VEC : Fld := ⟨0x100008, 5, 0, .rw, 0, 0x0⟩
def HIF_VEC : Reg :=
  { off := 0x100008, width := 32, count := 1, stride := 4, perTile := false, reset := 0,
    fields := [HIF_VEC_EVT_VEC, HIF_VEC_TICK_VEC] }

def HIF_LINK_UP : Fld := ⟨0x10000C, 10, 10, .ro, 0, 0x0⟩
def HIF_LINK_WIDTH : Fld := ⟨0x10000C, 9, 4, .ro, 0, 0x0⟩
def HIF_LINK_GEN : Fld := ⟨0x10000C, 3, 0, .ro, 0, 0x0⟩
def HIF_LINK : Reg :=
  { off := 0x10000C, width := 32, count := 1, stride := 4, perTile := false, reset := 0,
    fields := [HIF_LINK_UP, HIF_LINK_WIDTH, HIF_LINK_GEN] }

def HIF_RING_SEL_TYPE : Fld := ⟨0x100010, 7, 6, .rw, 0, 0x0⟩
def HIF_RING_SEL_RING : Fld := ⟨0x100010, 5, 0, .rw, 0, 0x0⟩
def HIF_RING_SEL : Reg :=
  { off := 0x100010, width := 32, count := 1, stride := 4, perTile := false, reset := 0,
    fields := [HIF_RING_SEL_TYPE, HIF_RING_SEL_RING] }

def HIF_RING_CFG_EN : Fld := ⟨0x100014, 31, 31, .rw, 0, 0x0⟩
def HIF_RING_CFG_BUSY : Fld := ⟨0x100014, 30, 30, .ro, 0, 0x0⟩
def HIF_RING_CFG_PRIO : Fld := ⟨0x100014, 29, 28, .rw, 0, 0x0⟩
def HIF_RING_CFG_AUDIT : Fld := ⟨0x100014, 27, 27, .rw, 0, 0x0⟩
def HIF_RING_CFG_HALTED : Fld := ⟨0x100014, 26, 26, .ro, 0, 0x0⟩
def HIF_RING_CFG_PEER : Fld := ⟨0x100014, 21, 16, .rw, 0, 0x0⟩
def HIF_RING_CFG_VECTOR : Fld := ⟨0x100014, 13, 8, .rw, 0, 0x0⟩
def HIF_RING_CFG_IRQ_EN : Fld := ⟨0x100014, 7, 7, .rw, 0, 0x0⟩
def HIF_RING_CFG_LOG2SIZE : Fld := ⟨0x100014, 4, 0, .rw, 0, 0x0⟩
def HIF_RING_CFG : Reg :=
  { off := 0x100014, width := 32, count := 1, stride := 4, perTile := false, reset := 0,
    fields := [HIF_RING_CFG_EN, HIF_RING_CFG_BUSY, HIF_RING_CFG_PRIO, HIF_RING_CFG_AUDIT, HIF_RING_CFG_HALTED,
      HIF_RING_CFG_PEER, HIF_RING_CFG_VECTOR, HIF_RING_CFG_IRQ_EN, HIF_RING_CFG_LOG2SIZE] }

def HIF_RING_BASE_ADDR : Fld := ⟨0x100018, 63, 12, .rw, 0, 0x0⟩
def HIF_RING_BASE : Reg :=
  { off := 0x100018, width := 64, count := 1, stride := 8, perTile := false, reset := 0,
    fields := [HIF_RING_BASE_ADDR] }

def HIF_RING_IDX_TAIL : Fld := ⟨0x100020, 31, 16, .ro, 0, 0x0⟩
def HIF_RING_IDX_HEAD : Fld := ⟨0x100020, 15, 0, .ro, 0, 0x0⟩
def HIF_RING_IDX : Reg :=
  { off := 0x100020, width := 32, count := 1, stride := 4, perTile := false, reset := 0,
    fields := [HIF_RING_IDX_TAIL, HIF_RING_IDX_HEAD] }

def HIF_RING_COAL_USEC : Fld := ⟨0x100024, 31, 16, .rw, 0, 0x1⟩
def HIF_RING_COAL_COUNT : Fld := ⟨0x100024, 15, 0, .rw, 1, 0x1⟩
def HIF_RING_COAL : Reg :=
  { off := 0x100024, width := 32, count := 1, stride := 4, perTile := false, reset := 1,
    fields := [HIF_RING_COAL_USEC, HIF_RING_COAL_COUNT] }

def HIF_RES_PAYLOAD_ADDR : Fld := ⟨0x100028, 63, 6, .rw, 0, 0x0⟩
def HIF_RES_PAYLOAD : Reg :=
  { off := 0x100028, width := 64, count := 1, stride := 8, perTile := false, reset := 0,
    fields := [HIF_RES_PAYLOAD_ADDR] }

def HIF_RES_STRIDE_STRIDE : Fld := ⟨0x100030, 31, 6, .rw, 0, 0x0⟩
def HIF_RES_STRIDE : Reg :=
  { off := 0x100030, width := 32, count := 1, stride := 4, perTile := false, reset := 0,
    fields := [HIF_RES_STRIDE_STRIDE] }

def HIF_BAR4_BASE_WINDOW : Fld := ⟨0x100034, 7, 0, .rw, 0, 0x0⟩
def HIF_BAR4_BASE : Reg :=
  { off := 0x100034, width := 32, count := 1, stride := 4, perTile := false, reset := 0,
    fields := [HIF_BAR4_BASE_WINDOW] }

def HIF_EMU_CTL_ACTIVE : Fld := ⟨0x100038, 1, 1, .ro, 0, 0x0⟩
def HIF_EMU_CTL_EN : Fld := ⟨0x100038, 0, 0, .rw, 0, 0x0⟩
def HIF_EMU_CTL : Reg :=
  { off := 0x100038, width := 32, count := 1, stride := 4, perTile := false, reset := 0,
    fields := [HIF_EMU_CTL_ACTIVE, HIF_EMU_CTL_EN] }

def HIF_RING_ERR_VALID : Fld := ⟨0x100040, 63, 63, .rw1c, 0, 0x0⟩
def HIF_RING_ERR_CAUSE : Fld := ⟨0x100040, 62, 60, .ro, 0, 0x0⟩
def HIF_RING_ERR_TYPE : Fld := ⟨0x100040, 59, 58, .ro, 0, 0x0⟩
def HIF_RING_ERR_RING : Fld := ⟨0x100040, 57, 52, .ro, 0, 0x0⟩
def HIF_RING_ERR_VALUE : Fld := ⟨0x100040, 31, 16, .ro, 0, 0x0⟩
def HIF_RING_ERR_INDEX : Fld := ⟨0x100040, 15, 0, .ro, 0, 0x0⟩
def HIF_RING_ERR : Reg :=
  { off := 0x100040, width := 64, count := 1, stride := 8, perTile := false, reset := 0,
    fields := [HIF_RING_ERR_VALID, HIF_RING_ERR_CAUSE, HIF_RING_ERR_TYPE, HIF_RING_ERR_RING, HIF_RING_ERR_VALUE,
      HIF_RING_ERR_INDEX] }

def HIF_CMD_COUNT_SAT : Fld := ⟨0x100048, 63, 63, .rw1c, 0, 0x0⟩
def HIF_CMD_COUNT_COUNT : Fld := ⟨0x100048, 47, 0, .ro, 0, 0x0⟩
def HIF_CMD_COUNT : Reg :=
  { off := 0x100048, width := 64, count := 1, stride := 8, perTile := false, reset := 0,
    fields := [HIF_CMD_COUNT_SAT, HIF_CMD_COUNT_COUNT] }

def HIF_DMA_ERR_COUNT_SAT : Fld := ⟨0x100050, 63, 63, .rw1c, 0, 0x0⟩
def HIF_DMA_ERR_COUNT_COUNT : Fld := ⟨0x100050, 47, 0, .ro, 0, 0x0⟩
def HIF_DMA_ERR_COUNT : Reg :=
  { off := 0x100050, width := 64, count := 1, stride := 8, perTile := false, reset := 0,
    fields := [HIF_DMA_ERR_COUNT_SAT, HIF_DMA_ERR_COUNT_COUNT] }

def HIF_RES_DROP_COUNT_SAT : Fld := ⟨0x100058, 63, 63, .rw1c, 0, 0x0⟩
def HIF_RES_DROP_COUNT_COUNT : Fld := ⟨0x100058, 47, 0, .ro, 0, 0x0⟩
def HIF_RES_DROP_COUNT : Reg :=
  { off := 0x100058, width := 64, count := 1, stride := 8, perTile := false, reset := 0,
    fields := [HIF_RES_DROP_COUNT_SAT, HIF_RES_DROP_COUNT_COUNT] }

def HIF_MSIX_TABLE_DATA : Fld := ⟨0x101000, 31, 0, .rw, 0, 0x0⟩
def HIF_MSIX_TABLE : Reg :=
  { off := 0x101000, width := 32, count := 256, stride := 4, perTile := false, reset := 0,
    fields := [HIF_MSIX_TABLE_DATA] }

def HIF_MSIX_PBA_PENDING : Fld := ⟨0x102000, 63, 0, .ro, 0, 0x0⟩
def HIF_MSIX_PBA : Reg :=
  { off := 0x102000, width := 64, count := 1, stride := 8, perTile := false, reset := 0,
    fields := [HIF_MSIX_PBA_PENDING] }

def regsHIF0 : List Reg := [HIF_STATUS, HIF_EVT_EN, HIF_VEC, HIF_LINK, HIF_RING_SEL, HIF_RING_CFG, HIF_RING_BASE,
      HIF_RING_IDX, HIF_RING_COAL, HIF_RES_PAYLOAD, HIF_RES_STRIDE, HIF_BAR4_BASE, HIF_EMU_CTL, HIF_RING_ERR,
      HIF_CMD_COUNT, HIF_DMA_ERR_COUNT, HIF_RES_DROP_COUNT, HIF_MSIX_TABLE, HIF_MSIX_PBA]

/-! ### CNS (R436) -/

def CNS_ID_LEADER : Fld := ⟨0x800000, 8, 8, .ro, 0, 0x0⟩
def CNS_ID_MEMBER : Fld := ⟨0x800000, 3, 0, .rw, 0, 0x0⟩
def CNS_ID : Reg :=
  { off := 0x800000, width := 32, count := 1, stride := 4, perTile := false, reset := 0,
    fields := [CNS_ID_LEADER, CNS_ID_MEMBER] }

def CNS_CTL_EN : Fld := ⟨0x800004, 31, 31, .rw, 0, 0x4D600000⟩
def CNS_CTL_AUTO_REJOIN : Fld := ⟨0x800004, 30, 30, .rw, 1, 0x4D600000⟩
def CNS_CTL_LEAVE : Fld := ⟨0x800004, 29, 29, .wo, 0, 0x4D600000⟩
def CNS_CTL_PORT : Fld := ⟨0x800004, 28, 28, .rw, 0, 0x4D600000⟩
def CNS_CTL_PCP_TOKEN : Fld := ⟨0x800004, 27, 25, .rw, 6, 0x4D600000⟩
def CNS_CTL_PCP_TENSOR : Fld := ⟨0x800004, 24, 22, .rw, 5, 0x4D600000⟩
def CNS_CTL_VLAN : Fld := ⟨0x800004, 21, 19, .rw, 4, 0x4D600000⟩
def CNS_CTL : Reg :=
  { off := 0x800004, width := 32, count := 1, stride := 4, perTile := false, reset := 1298137088,
    fields := [CNS_CTL_EN, CNS_CTL_AUTO_REJOIN, CNS_CTL_LEAVE, CNS_CTL_PORT, CNS_CTL_PCP_TOKEN, CNS_CTL_PCP_TENSOR,
      CNS_CTL_VLAN] }

def CNS_STATUS_DUP_STREAM : Fld := ⟨0x800008, 7, 7, .rw1c, 0, 0x0⟩
def CNS_STATUS_ACCESS : Fld := ⟨0x800008, 6, 6, .rw1c, 0, 0x0⟩
def CNS_STATUS_CHAIN_ERR : Fld := ⟨0x800008, 5, 5, .rw1c, 0, 0x0⟩
def CNS_STATUS_TENSOR_DROP : Fld := ⟨0x800008, 4, 4, .rw1c, 0, 0x0⟩
def CNS_STATUS_PROPOSE_FAIL : Fld := ⟨0x800008, 3, 3, .rw1c, 0, 0x0⟩
def CNS_STATUS_EPOCH : Fld := ⟨0x800008, 2, 2, .rw1c, 0, 0x0⟩
def CNS_STATUS_FALLBACK : Fld := ⟨0x800008, 1, 1, .rw1c, 0, 0x0⟩
def CNS_STATUS_MISMATCH : Fld := ⟨0x800008, 0, 0, .rw1c, 0, 0x0⟩
def CNS_STATUS : Reg :=
  { off := 0x800008, width := 32, count := 1, stride := 4, perTile := false, reset := 0,
    fields := [CNS_STATUS_DUP_STREAM, CNS_STATUS_ACCESS, CNS_STATUS_CHAIN_ERR, CNS_STATUS_TENSOR_DROP,
      CNS_STATUS_PROPOSE_FAIL, CNS_STATUS_EPOCH, CNS_STATUS_FALLBACK, CNS_STATUS_MISMATCH] }

def CNS_EVT_EN_EN : Fld := ⟨0x80000C, 7, 0, .rw, 239, 0xEF⟩
def CNS_EVT_EN : Reg :=
  { off := 0x80000C, width := 32, count := 1, stride := 4, perTile := false, reset := 239,
    fields := [CNS_EVT_EN_EN] }

def CNS_STATE_PHASE : Fld := ⟨0x800010, 2, 0, .ro, 0, 0x0⟩
def CNS_STATE : Reg :=
  { off := 0x800010, width := 32, count := 1, stride := 4, perTile := false, reset := 0,
    fields := [CNS_STATE_PHASE] }

def CNS_ETHERTYPE_TYPE : Fld := ⟨0x800014, 15, 0, .rw, 34997, 0x88B5⟩
def CNS_ETHERTYPE : Reg :=
  { off := 0x800014, width := 32, count := 1, stride := 4, perTile := false, reset := 34997,
    fields := [CNS_ETHERTYPE_TYPE] }

def CNS_TOL_HOLD_MS : Fld := ⟨0x800018, 31, 16, .rw, 1000, 0x3E80032⟩
def CNS_TOL_TOL_US : Fld := ⟨0x800018, 15, 0, .rw, 50, 0x3E80032⟩
def CNS_TOL : Reg :=
  { off := 0x800018, width := 32, count := 1, stride := 4, perTile := false, reset := 65536050,
    fields := [CNS_TOL_HOLD_MS, CNS_TOL_TOL_US] }

def CNS_TIMING_REPEAT : Fld := ⟨0x80001C, 31, 28, .rw, 2, 0x20001388⟩
def CNS_TIMING_DEADLINE_US : Fld := ⟨0x80001C, 16, 0, .rw, 5000, 0x20001388⟩
def CNS_TIMING : Reg :=
  { off := 0x80001C, width := 32, count := 1, stride := 4, perTile := false, reset := 536875912,
    fields := [CNS_TIMING_REPEAT, CNS_TIMING_DEADLINE_US] }

def CNS_GROUP_MAC_MAC : Fld := ⟨0x800020, 47, 0, .rw, 3622117048321, 0x34B57000001⟩
def CNS_GROUP_MAC : Reg :=
  { off := 0x800020, width := 64, count := 1, stride := 8, perTile := false, reset := 3622117048321,
    fields := [CNS_GROUP_MAC_MAC] }

def CNS_CONSORT_ID_ID : Fld := ⟨0x800028, 31, 0, .rw, 0, 0x0⟩
def CNS_CONSORT_ID : Reg :=
  { off := 0x800028, width := 32, count := 1, stride := 4, perTile := false, reset := 0,
    fields := [CNS_CONSORT_ID_ID] }

def CNS_EPOCH_CTL_FORM : Fld := ⟨0x80002C, 31, 31, .wo, 0, 0x1⟩
def CNS_EPOCH_CTL_DISSOLVE : Fld := ⟨0x80002C, 30, 30, .wo, 0, 0x1⟩
def CNS_EPOCH_CTL_MASK : Fld := ⟨0x80002C, 15, 0, .rw, 1, 0x1⟩
def CNS_EPOCH_CTL : Reg :=
  { off := 0x80002C, width := 32, count := 1, stride := 4, perTile := false, reset := 1,
    fields := [CNS_EPOCH_CTL_FORM, CNS_EPOCH_CTL_DISSOLVE, CNS_EPOCH_CTL_MASK] }

def CNS_EPOCH_EPOCH : Fld := ⟨0x800030, 31, 0, .ro, 0, 0x0⟩
def CNS_EPOCH : Reg :=
  { off := 0x800030, width := 32, count := 1, stride := 4, perTile := false, reset := 0,
    fields := [CNS_EPOCH_EPOCH] }

def CNS_MASK_KNOWN : Fld := ⟨0x800034, 31, 16, .ro, 0, 0x0⟩
def CNS_MASK_MEMBERS : Fld := ⟨0x800034, 15, 0, .ro, 0, 0x0⟩
def CNS_MASK : Reg :=
  { off := 0x800034, width := 32, count := 1, stride := 4, perTile := false, reset := 0,
    fields := [CNS_MASK_KNOWN, CNS_MASK_MEMBERS] }

def CNS_CTICK_CTICK : Fld := ⟨0x800038, 63, 0, .ro, 0, 0x0⟩
def CNS_CTICK : Reg :=
  { off := 0x800038, width := 64, count := 1, stride := 8, perTile := false, reset := 0,
    fields := [CNS_CTICK_CTICK] }

def CNS_MISMATCH_REC_VALID : Fld := ⟨0x800040, 63, 63, .rw1c, 0, 0x0⟩
def CNS_MISMATCH_REC_KINDS : Fld := ⟨0x800040, 54, 48, .ro, 0, 0x0⟩
def CNS_MISMATCH_REC_MEMBERS : Fld := ⟨0x800040, 47, 32, .ro, 0, 0x0⟩
def CNS_MISMATCH_REC_CTICK : Fld := ⟨0x800040, 31, 0, .ro, 0, 0x0⟩
def CNS_MISMATCH_REC : Reg :=
  { off := 0x800040, width := 64, count := 1, stride := 8, perTile := false, reset := 0,
    fields := [CNS_MISMATCH_REC_VALID, CNS_MISMATCH_REC_KINDS, CNS_MISMATCH_REC_MEMBERS, CNS_MISMATCH_REC_CTICK] }

def CNS_FALLBACK_COUNT_SAT : Fld := ⟨0x800048, 63, 63, .rw1c, 0, 0x0⟩
def CNS_FALLBACK_COUNT_COUNT : Fld := ⟨0x800048, 47, 0, .ro, 0, 0x0⟩
def CNS_FALLBACK_COUNT : Reg :=
  { off := 0x800048, width := 64, count := 1, stride := 8, perTile := false, reset := 0,
    fields := [CNS_FALLBACK_COUNT_SAT, CNS_FALLBACK_COUNT_COUNT] }

def CNS_TOKEN_MISS_COUNT_SAT : Fld := ⟨0x800050, 63, 63, .rw1c, 0, 0x0⟩
def CNS_TOKEN_MISS_COUNT_COUNT : Fld := ⟨0x800050, 47, 0, .ro, 0, 0x0⟩
def CNS_TOKEN_MISS_COUNT : Reg :=
  { off := 0x800050, width := 64, count := 1, stride := 8, perTile := false, reset := 0,
    fields := [CNS_TOKEN_MISS_COUNT_SAT, CNS_TOKEN_MISS_COUNT_COUNT] }

def CNS_RX_DROP_COUNT_SAT : Fld := ⟨0x800058, 63, 63, .rw1c, 0, 0x0⟩
def CNS_RX_DROP_COUNT_COUNT : Fld := ⟨0x800058, 47, 0, .ro, 0, 0x0⟩
def CNS_RX_DROP_COUNT : Reg :=
  { off := 0x800058, width := 64, count := 1, stride := 8, perTile := false, reset := 0,
    fields := [CNS_RX_DROP_COUNT_SAT, CNS_RX_DROP_COUNT_COUNT] }

def CNS_TENSOR_DROP_COUNT_SAT : Fld := ⟨0x800060, 63, 63, .rw1c, 0, 0x0⟩
def CNS_TENSOR_DROP_COUNT_COUNT : Fld := ⟨0x800060, 47, 0, .ro, 0, 0x0⟩
def CNS_TENSOR_DROP_COUNT : Reg :=
  { off := 0x800060, width := 64, count := 1, stride := 8, perTile := false, reset := 0,
    fields := [CNS_TENSOR_DROP_COUNT_SAT, CNS_TENSOR_DROP_COUNT_COUNT] }

def CNS_PLAN_DATA : Fld := ⟨0x800100, 31, 0, .rw, 0, 0x0⟩
def CNS_PLAN : Reg :=
  { off := 0x800100, width := 32, count := 16, stride := 4, perTile := false, reset := 0,
    fields := [CNS_PLAN_DATA] }

def CNS_CONFIG_HASH_DATA : Fld := ⟨0x800200, 31, 0, .ro, 0, 0x0⟩
def CNS_CONFIG_HASH : Reg :=
  { off := 0x800200, width := 32, count := 8, stride := 4, perTile := false, reset := 0,
    fields := [CNS_CONFIG_HASH_DATA] }

def CNS_FW_HASH_DATA : Fld := ⟨0x800220, 31, 0, .ro, 0, 0x0⟩
def CNS_FW_HASH : Reg :=
  { off := 0x800220, width := 32, count := 8, stride := 4, perTile := false, reset := 0,
    fields := [CNS_FW_HASH_DATA] }

def regsCNS0 : List Reg := [CNS_ID, CNS_CTL, CNS_STATUS, CNS_EVT_EN, CNS_STATE, CNS_ETHERTYPE, CNS_TOL, CNS_TIMING,
      CNS_GROUP_MAC, CNS_CONSORT_ID, CNS_EPOCH_CTL, CNS_EPOCH, CNS_MASK, CNS_CTICK, CNS_MISMATCH_REC,
      CNS_FALLBACK_COUNT, CNS_TOKEN_MISS_COUNT, CNS_RX_DROP_COUNT, CNS_TENSOR_DROP_COUNT, CNS_PLAN]
def regsCNS1 : List Reg := [CNS_CONFIG_HASH, CNS_FW_HASH]

/-! ### SEC (R459, R524) -/

def SEC_FW_STATUS_BOOT_FAIL : Fld := ⟨0xA00800, 5, 5, .rw1c, 0, 0x0⟩
def SEC_FW_STATUS_HALT : Fld := ⟨0xA00800, 4, 4, .rw1c, 0, 0x0⟩
def SEC_FW_STATUS_ROLLBACK : Fld := ⟨0xA00800, 3, 3, .rw1c, 0, 0x0⟩
def SEC_FW_STATUS_DEFER : Fld := ⟨0xA00800, 2, 2, .rw1c, 0, 0x0⟩
def SEC_FW_STATUS_ACTIVATED : Fld := ⟨0xA00800, 1, 1, .rw1c, 0, 0x0⟩
def SEC_FW_STATUS_CRASH : Fld := ⟨0xA00800, 0, 0, .rw1c, 0, 0x0⟩
def SEC_FW_STATUS : Reg :=
  { off := 0xA00800, width := 32, count := 1, stride := 4, perTile := false, reset := 0,
    fields := [SEC_FW_STATUS_BOOT_FAIL, SEC_FW_STATUS_HALT, SEC_FW_STATUS_ROLLBACK, SEC_FW_STATUS_DEFER,
      SEC_FW_STATUS_ACTIVATED, SEC_FW_STATUS_CRASH] }

def SEC_FW_EVT_EN_EN : Fld := ⟨0xA00804, 5, 0, .rw, 63, 0x3F⟩
def SEC_FW_EVT_EN : Reg :=
  { off := 0xA00804, width := 32, count := 1, stride := 4, perTile := false, reset := 63,
    fields := [SEC_FW_EVT_EN_EN] }

def SEC_BOOT_CTL_BUSY : Fld := ⟨0xA00808, 31, 31, .ro, 0, 0x0⟩
def SEC_BOOT_CTL_RESULT : Fld := ⟨0xA00808, 7, 4, .ro, 0, 0x0⟩
def SEC_BOOT_CTL_GO : Fld := ⟨0xA00808, 0, 0, .wo, 0, 0x0⟩
def SEC_BOOT_CTL : Reg :=
  { off := 0xA00808, width := 32, count := 1, stride := 4, perTile := false, reset := 0,
    fields := [SEC_BOOT_CTL_BUSY, SEC_BOOT_CTL_RESULT, SEC_BOOT_CTL_GO] }

def SEC_BOOT_LEN_BYTES : Fld := ⟨0xA0080C, 31, 0, .rw, 0, 0x0⟩
def SEC_BOOT_LEN : Reg :=
  { off := 0xA0080C, width := 32, count := 1, stride := 4, perTile := false, reset := 0,
    fields := [SEC_BOOT_LEN_BYTES] }

def SEC_BOOT_ADDR_ADDR : Fld := ⟨0xA00810, 63, 12, .rw, 0, 0x0⟩
def SEC_BOOT_ADDR : Reg :=
  { off := 0xA00810, width := 64, count := 1, stride := 8, perTile := false, reset := 0,
    fields := [SEC_BOOT_ADDR_ADDR] }

def SEC_FW_CRASH_COUNT_SAT : Fld := ⟨0xA00818, 63, 63, .rw1c, 0, 0x0⟩
def SEC_FW_CRASH_COUNT_COUNT : Fld := ⟨0xA00818, 47, 0, .ro, 0, 0x0⟩
def SEC_FW_CRASH_COUNT : Reg :=
  { off := 0xA00818, width := 64, count := 1, stride := 8, perTile := false, reset := 0,
    fields := [SEC_FW_CRASH_COUNT_SAT, SEC_FW_CRASH_COUNT_COUNT] }

def SEC_FW_CRASH_REC_VALID : Fld := ⟨0xA00820, 63, 63, .rw1c, 0, 0x0⟩
def SEC_FW_CRASH_REC_CORE : Fld := ⟨0xA00820, 62, 59, .ro, 0, 0x0⟩
def SEC_FW_CRASH_REC_CAUSE : Fld := ⟨0xA00820, 58, 56, .ro, 0, 0x0⟩
def SEC_FW_CRASH_REC_TICK : Fld := ⟨0xA00820, 55, 32, .ro, 0, 0x0⟩
def SEC_FW_CRASH_REC_BUILD : Fld := ⟨0xA00820, 31, 16, .ro, 0, 0x0⟩
def SEC_FW_CRASH_REC : Reg :=
  { off := 0xA00820, width := 64, count := 1, stride := 8, perTile := false, reset := 0,
    fields := [SEC_FW_CRASH_REC_VALID, SEC_FW_CRASH_REC_CORE, SEC_FW_CRASH_REC_CAUSE, SEC_FW_CRASH_REC_TICK,
      SEC_FW_CRASH_REC_BUILD] }

def SEC_FW_CORE_STATE : Fld := ⟨0xA00840, 31, 29, .ro, 0, 0x0⟩
def SEC_FW_CORE_BANK : Fld := ⟨0xA00840, 28, 28, .ro, 0, 0x0⟩
def SEC_FW_CORE_OTHER : Fld := ⟨0xA00840, 27, 26, .ro, 0, 0x0⟩
def SEC_FW_CORE_PENDING : Fld := ⟨0xA00840, 25, 25, .ro, 0, 0x0⟩
def SEC_FW_CORE_DEFERRED : Fld := ⟨0xA00840, 24, 24, .ro, 0, 0x0⟩
def SEC_FW_CORE_CRASHES : Fld := ⟨0xA00840, 23, 16, .ro, 0, 0x0⟩
def SEC_FW_CORE_BUILD : Fld := ⟨0xA00840, 15, 0, .ro, 0, 0x0⟩
def SEC_FW_CORE : Reg :=
  { off := 0xA00840, width := 32, count := 11, stride := 4, perTile := false, reset := 0,
    fields := [SEC_FW_CORE_STATE, SEC_FW_CORE_BANK, SEC_FW_CORE_OTHER, SEC_FW_CORE_PENDING, SEC_FW_CORE_DEFERRED,
      SEC_FW_CORE_CRASHES, SEC_FW_CORE_BUILD] }

def SEC_STATUS_CERT_BAD : Fld := ⟨0xA00000, 6, 6, .rw1c, 0, 0x0⟩
def SEC_STATUS_SVN_RAISED : Fld := ⟨0xA00000, 5, 5, .rw1c, 0, 0x0⟩
def SEC_STATUS_PROVISIONED : Fld := ⟨0xA00000, 4, 4, .rw1c, 0, 0x0⟩
def SEC_STATUS_CMD_REJ : Fld := ⟨0xA00000, 3, 3, .rw1c, 0, 0x0⟩
def SEC_STATUS_OWNER_MISMATCH : Fld := ⟨0xA00000, 2, 2, .rw1c, 0, 0x0⟩
def SEC_STATUS_KEY_REJ : Fld := ⟨0xA00000, 1, 1, .rw1c, 0, 0x0⟩
def SEC_STATUS_VERIFY_FAIL : Fld := ⟨0xA00000, 0, 0, .rw1c, 0, 0x0⟩
def SEC_STATUS : Reg :=
  { off := 0xA00000, width := 32, count := 1, stride := 4, perTile := false, reset := 0,
    fields := [SEC_STATUS_CERT_BAD, SEC_STATUS_SVN_RAISED, SEC_STATUS_PROVISIONED, SEC_STATUS_CMD_REJ,
      SEC_STATUS_OWNER_MISMATCH, SEC_STATUS_KEY_REJ, SEC_STATUS_VERIFY_FAIL] }

def SEC_EVT_EN_EN : Fld := ⟨0xA00004, 6, 0, .rw, 79, 0x4F⟩
def SEC_EVT_EN : Reg :=
  { off := 0xA00004, width := 32, count := 1, stride := 4, perTile := false, reset := 79,
    fields := [SEC_EVT_EN_EN] }

def SEC_CTL_BUSY : Fld := ⟨0xA00008, 31, 31, .ro, 0, 0x0⟩
def SEC_CTL_RESULT : Fld := ⟨0xA00008, 7, 4, .ro, 0, 0x0⟩
def SEC_CTL_SVN_COMMIT : Fld := ⟨0xA00008, 1, 1, .wo, 0, 0x0⟩
def SEC_CTL_PROVISION : Fld := ⟨0xA00008, 0, 0, .wo, 0, 0x0⟩
def SEC_CTL : Reg :=
  { off := 0xA00008, width := 32, count := 1, stride := 4, perTile := false, reset := 0,
    fields := [SEC_CTL_BUSY, SEC_CTL_RESULT, SEC_CTL_SVN_COMMIT, SEC_CTL_PROVISION] }

def SEC_LIFE_OWNED : Fld := ⟨0xA0000C, 31, 31, .ro, 0, 0x0⟩
def SEC_LIFE_OWNER_KEY : Fld := ⟨0xA0000C, 30, 30, .ro, 0, 0x0⟩
def SEC_LIFE_MIN_SVN : Fld := ⟨0xA0000C, 21, 16, .ro, 0, 0x0⟩
def SEC_LIFE_REJECTED : Fld := ⟨0xA0000C, 15, 8, .ro, 0, 0x0⟩
def SEC_LIFE_KEYS : Fld := ⟨0xA0000C, 4, 0, .ro, 0, 0x0⟩
def SEC_LIFE : Reg :=
  { off := 0xA0000C, width := 32, count := 1, stride := 4, perTile := false, reset := 0,
    fields := [SEC_LIFE_OWNED, SEC_LIFE_OWNER_KEY, SEC_LIFE_MIN_SVN, SEC_LIFE_REJECTED, SEC_LIFE_KEYS] }

def SEC_DEVICE_ID_DEVICE : Fld := ⟨0xA00010, 63, 0, .ro, 0, 0x0⟩
def SEC_DEVICE_ID : Reg :=
  { off := 0xA00010, width := 64, count := 1, stride := 8, perTile := false, reset := 0,
    fields := [SEC_DEVICE_ID_DEVICE] }

def SEC_KEY_SEL_KEY : Fld := ⟨0xA00018, 4, 0, .rw, 0, 0x0⟩
def SEC_KEY_SEL : Reg :=
  { off := 0xA00018, width := 32, count := 1, stride := 4, perTile := false, reset := 0,
    fields := [SEC_KEY_SEL_KEY] }

def SEC_KEY_INFO_VALID : Fld := ⟨0xA00020, 63, 63, .ro, 0, 0x0⟩
def SEC_KEY_INFO_SOURCE : Fld := ⟨0xA00020, 62, 61, .ro, 0, 0x0⟩
def SEC_KEY_INFO_ROLES : Fld := ⟨0xA00020, 51, 48, .ro, 0, 0x0⟩
def SEC_KEY_INFO_SIGNER : Fld := ⟨0xA00020, 47, 0, .ro, 0, 0x0⟩
def SEC_KEY_INFO : Reg :=
  { off := 0xA00020, width := 64, count := 1, stride := 8, perTile := false, reset := 0,
    fields := [SEC_KEY_INFO_VALID, SEC_KEY_INFO_SOURCE, SEC_KEY_INFO_ROLES, SEC_KEY_INFO_SIGNER] }

def SEC_VERIFY_FAIL_COUNT_SAT : Fld := ⟨0xA00028, 63, 63, .rw1c, 0, 0x0⟩
def SEC_VERIFY_FAIL_COUNT_COUNT : Fld := ⟨0xA00028, 47, 0, .ro, 0, 0x0⟩
def SEC_VERIFY_FAIL_COUNT : Reg :=
  { off := 0xA00028, width := 64, count := 1, stride := 8, perTile := false, reset := 0,
    fields := [SEC_VERIFY_FAIL_COUNT_SAT, SEC_VERIFY_FAIL_COUNT_COUNT] }

def SEC_ATTEST_COUNT_SAT : Fld := ⟨0xA00030, 63, 63, .rw1c, 0, 0x0⟩
def SEC_ATTEST_COUNT_COUNT : Fld := ⟨0xA00030, 47, 0, .ro, 0, 0x0⟩
def SEC_ATTEST_COUNT : Reg :=
  { off := 0xA00030, width := 64, count := 1, stride := 8, perTile := false, reset := 0,
    fields := [SEC_ATTEST_COUNT_SAT, SEC_ATTEST_COUNT_COUNT] }

def SEC_KEY_PUB_DATA : Fld := ⟨0xA00040, 31, 0, .ro, 0, 0x0⟩
def SEC_KEY_PUB : Reg :=
  { off := 0xA00040, width := 32, count := 8, stride := 4, perTile := false, reset := 0,
    fields := [SEC_KEY_PUB_DATA] }

def SEC_OWNER_HASH_DATA : Fld := ⟨0xA00060, 31, 0, .ro, 0, 0x0⟩
def SEC_OWNER_HASH : Reg :=
  { off := 0xA00060, width := 32, count := 8, stride := 4, perTile := false, reset := 0,
    fields := [SEC_OWNER_HASH_DATA] }

def SEC_PROV_BUF_DATA : Fld := ⟨0xA00080, 31, 0, .rw, 0, 0x0⟩
def SEC_PROV_BUF : Reg :=
  { off := 0xA00080, width := 32, count := 8, stride := 4, perTile := false, reset := 0,
    fields := [SEC_PROV_BUF_DATA] }

def SEC_DEVCERT_DATA : Fld := ⟨0xA00100, 31, 0, .ro, 0, 0x0⟩
def SEC_DEVCERT : Reg :=
  { off := 0xA00100, width := 32, count := 48, stride := 4, perTile := false, reset := 0,
    fields := [SEC_DEVCERT_DATA] }

def regsSEC0 : List Reg := [SEC_FW_STATUS, SEC_FW_EVT_EN, SEC_BOOT_CTL, SEC_BOOT_LEN, SEC_BOOT_ADDR,
      SEC_FW_CRASH_COUNT, SEC_FW_CRASH_REC, SEC_FW_CORE, SEC_STATUS, SEC_EVT_EN, SEC_CTL, SEC_LIFE, SEC_DEVICE_ID,
      SEC_KEY_SEL, SEC_KEY_INFO, SEC_VERIFY_FAIL_COUNT, SEC_ATTEST_COUNT, SEC_KEY_PUB, SEC_OWNER_HASH, SEC_PROV_BUF]
def regsSEC1 : List Reg := [SEC_DEVCERT]

/-! ### SPP (R478) -/

def SPP_STATE_EN : Fld := ⟨0xB00000, 31, 31, .ro, 0, 0x3⟩
def SPP_STATE_A_RUNNING : Fld := ⟨0xB00000, 11, 8, .ro, 0, 0x3⟩
def SPP_STATE_HELD : Fld := ⟨0xB00000, 7, 7, .ro, 0, 0x3⟩
def SPP_STATE_HB : Fld := ⟨0xB00000, 2, 2, .ro, 0, 0x3⟩
def SPP_STATE_ALERT_B : Fld := ⟨0xB00000, 1, 1, .ro, 1, 0x3⟩
def SPP_STATE_ALERT_A : Fld := ⟨0xB00000, 0, 0, .ro, 1, 0x3⟩
def SPP_STATE : Reg :=
  { off := 0xB00000, width := 32, count := 1, stride := 4, perTile := false, reset := 3,
    fields := [SPP_STATE_EN, SPP_STATE_A_RUNNING, SPP_STATE_HELD, SPP_STATE_HB, SPP_STATE_ALERT_B,
      SPP_STATE_ALERT_A] }

def SPP_CTL_HB_EN : Fld := ⟨0xB00004, 3, 3, .rw, 1, 0xC⟩
def SPP_CTL_LATCH_A : Fld := ⟨0xB00004, 2, 2, .rw, 1, 0xC⟩
def SPP_CTL_AUTO_HOLD : Fld := ⟨0xB00004, 1, 1, .rw, 0, 0xC⟩
def SPP_CTL_HOLD : Fld := ⟨0xB00004, 0, 0, .rw, 0, 0xC⟩
def SPP_CTL : Reg :=
  { off := 0xB00004, width := 32, count := 1, stride := 4, perTile := false, reset := 12,
    fields := [SPP_CTL_HB_EN, SPP_CTL_LATCH_A, SPP_CTL_AUTO_HOLD, SPP_CTL_HOLD] }

def SPP_STATUS_ALERT_B : Fld := ⟨0xB00008, 12, 12, .rw1c, 0, 0x0⟩
def SPP_STATUS_NV_FAULT : Fld := ⟨0xB00008, 11, 11, .rw1c, 0, 0x0⟩
def SPP_STATUS_FW_HALT : Fld := ⟨0xB00008, 10, 10, .rw1c, 0, 0x0⟩
def SPP_STATUS_PWR_FAIL : Fld := ⟨0xB00008, 9, 9, .rw1c, 0, 0x0⟩
def SPP_STATUS_TALERT : Fld := ⟨0xB00008, 8, 8, .rw1c, 0, 0x0⟩
def SPP_STATUS_CLAMP : Fld := ⟨0xB00008, 7, 7, .rw1c, 0, 0x0⟩
def SPP_STATUS_HELD_ENTER : Fld := ⟨0xB00008, 6, 6, .rw1c, 0, 0x0⟩
def SPP_STATUS_SCMD_REJ : Fld := ⟨0xB00008, 5, 5, .rw1c, 0, 0x0⟩
def SPP_STATUS_SPI_ERR : Fld := ⟨0xB00008, 4, 4, .rw1c, 0, 0x0⟩
def SPP_STATUS_SET_REJ : Fld := ⟨0xB00008, 3, 3, .rw1c, 0, 0x0⟩
def SPP_STATUS_GAP : Fld := ⟨0xB00008, 2, 2, .rw1c, 0, 0x0⟩
def SPP_STATUS_MISS : Fld := ⟨0xB00008, 1, 1, .rw1c, 0, 0x0⟩
def SPP_STATUS_ALERT_A : Fld := ⟨0xB00008, 0, 0, .rw1c, 0, 0x0⟩
def SPP_STATUS : Reg :=
  { off := 0xB00008, width := 32, count := 1, stride := 4, perTile := false, reset := 0,
    fields := [SPP_STATUS_ALERT_B, SPP_STATUS_NV_FAULT, SPP_STATUS_FW_HALT, SPP_STATUS_PWR_FAIL, SPP_STATUS_TALERT,
      SPP_STATUS_CLAMP, SPP_STATUS_HELD_ENTER, SPP_STATUS_SCMD_REJ, SPP_STATUS_SPI_ERR, SPP_STATUS_SET_REJ,
      SPP_STATUS_GAP, SPP_STATUS_MISS, SPP_STATUS_ALERT_A] }

def SPP_ALERT_B_EN_EN : Fld := ⟨0xB0000C, 11, 4, .rw, 255, 0xFF0⟩
def SPP_ALERT_B_EN : Reg :=
  { off := 0xB0000C, width := 32, count := 1, stride := 4, perTile := false, reset := 4080,
    fields := [SPP_ALERT_B_EN_EN] }

def SPP_WDOG_GAP_EN : Fld := ⟨0xB00010, 16, 16, .rw, 1, 0x18119⟩
def SPP_WDOG_POISON_MISS : Fld := ⟨0xB00010, 15, 15, .rw, 1, 0x18119⟩
def SPP_WDOG_MISS_LIMIT : Fld := ⟨0xB00010, 11, 8, .rw, 1, 0x18119⟩
def SPP_WDOG_RECOVER : Fld := ⟨0xB00010, 7, 0, .rw, 25, 0x18119⟩
def SPP_WDOG : Reg :=
  { off := 0xB00010, width := 32, count := 1, stride := 4, perTile := false, reset := 98585,
    fields := [SPP_WDOG_GAP_EN, SPP_WDOG_POISON_MISS, SPP_WDOG_MISS_LIMIT, SPP_WDOG_RECOVER] }

def SPP_LIMIT_ENV_MAX : Fld := ⟨0xB00014, 17, 16, .rw, 2, 0x26E64⟩
def SPP_LIMIT_TCLAMP : Fld := ⟨0xB00014, 15, 8, .rw, 110, 0x26E64⟩
def SPP_LIMIT_TALERT : Fld := ⟨0xB00014, 7, 0, .rw, 100, 0x26E64⟩
def SPP_LIMIT : Reg :=
  { off := 0xB00014, width := 32, count := 1, stride := 4, perTile := false, reset := 159332,
    fields := [SPP_LIMIT_ENV_MAX, SPP_LIMIT_TCLAMP, SPP_LIMIT_TALERT] }

def SPP_SEQ_SEQ : Fld := ⟨0xB00018, 31, 0, .ro, 0, 0x0⟩
def SPP_SEQ : Reg :=
  { off := 0xB00018, width := 32, count := 1, stride := 4, perTile := false, reset := 0,
    fields := [SPP_SEQ_SEQ] }

def SPP_COMMIT_PENDING : Fld := ⟨0xB0001C, 31, 31, .ro, 0, 0x0⟩
def SPP_COMMIT_SOURCE : Fld := ⟨0xB0001C, 30, 29, .ro, 0, 0x0⟩
def SPP_COMMIT_LAST_TICK : Fld := ⟨0xB0001C, 23, 0, .ro, 0, 0x0⟩
def SPP_COMMIT : Reg :=
  { off := 0xB0001C, width := 32, count := 1, stride := 4, perTile := false, reset := 0,
    fields := [SPP_COMMIT_PENDING, SPP_COMMIT_SOURCE, SPP_COMMIT_LAST_TICK] }

def SPP_MISS_COUNT_SAT : Fld := ⟨0xB00020, 63, 63, .rw1c, 0, 0x0⟩
def SPP_MISS_COUNT_COUNT : Fld := ⟨0xB00020, 47, 0, .ro, 0, 0x0⟩
def SPP_MISS_COUNT : Reg :=
  { off := 0xB00020, width := 64, count := 1, stride := 8, perTile := false, reset := 0,
    fields := [SPP_MISS_COUNT_SAT, SPP_MISS_COUNT_COUNT] }

def SPP_ALERT_REC_VALID : Fld := ⟨0xB00028, 63, 63, .rw1c, 0, 0x0⟩
def SPP_ALERT_REC_TICK : Fld := ⟨0xB00028, 55, 32, .ro, 0, 0x0⟩
def SPP_ALERT_REC_CAUSE : Fld := ⟨0xB00028, 31, 28, .ro, 0, 0x0⟩
def SPP_ALERT_REC_SERVICE : Fld := ⟨0xB00028, 21, 16, .ro, 0, 0x0⟩
def SPP_ALERT_REC : Reg :=
  { off := 0xB00028, width := 64, count := 1, stride := 8, perTile := false, reset := 0,
    fields := [SPP_ALERT_REC_VALID, SPP_ALERT_REC_TICK, SPP_ALERT_REC_CAUSE, SPP_ALERT_REC_SERVICE] }

def SPP_RES_SEL_RES : Fld := ⟨0xB00040, 2, 0, .rw, 0, 0x0⟩
def SPP_RES_SEL : Reg :=
  { off := 0xB00040, width := 32, count := 1, stride := 4, perTile := false, reset := 0,
    fields := [SPP_RES_SEL_RES] }

def SPP_RES_CTL_VALID : Fld := ⟨0xB00044, 31, 31, .rw, 0, 0x0⟩
def SPP_RES_CTL_ACTIVE : Fld := ⟨0xB00044, 30, 30, .ro, 0, 0x0⟩
def SPP_RES_CTL_SERVICE : Fld := ⟨0xB00044, 21, 16, .rw, 0, 0x0⟩
def SPP_RES_CTL_NETWORKS : Fld := ⟨0xB00044, 3, 0, .rw, 0, 0x0⟩
def SPP_RES_CTL : Reg :=
  { off := 0xB00044, width := 32, count := 1, stride := 4, perTile := false, reset := 0,
    fields := [SPP_RES_CTL_VALID, SPP_RES_CTL_ACTIVE, SPP_RES_CTL_SERVICE, SPP_RES_CTL_NETWORKS] }

def SPP_RES_EGR_EGR : Fld := ⟨0xB00048, 15, 0, .rw, 0, 0x0⟩
def SPP_RES_EGR : Reg :=
  { off := 0xB00048, width := 32, count := 1, stride := 4, perTile := false, reset := 0,
    fields := [SPP_RES_EGR_EGR] }

def SPP_RES_LPDDR_CHANNELS : Fld := ⟨0xB0004C, 23, 16, .rw, 0, 0x0⟩
def SPP_RES_LPDDR_PHASES : Fld := ⟨0xB0004C, 15, 0, .rw, 0, 0x0⟩
def SPP_RES_LPDDR : Reg :=
  { off := 0xB0004C, width := 32, count := 1, stride := 4, perTile := false, reset := 0,
    fields := [SPP_RES_LPDDR_CHANNELS, SPP_RES_LPDDR_PHASES] }

def SPP_RES_TILES_TILES : Fld := ⟨0xB00050, 63, 0, .rw, 0, 0x0⟩
def SPP_RES_TILES : Reg :=
  { off := 0xB00050, width := 64, count := 1, stride := 8, perTile := false, reset := 0,
    fields := [SPP_RES_TILES_TILES] }

def SPP_RES_CS_CS : Fld := ⟨0xB00058, 63, 0, .rw, 0, 0x0⟩
def SPP_RES_CS : Reg :=
  { off := 0xB00058, width := 64, count := 1, stride := 8, perTile := false, reset := 0,
    fields := [SPP_RES_CS_CS] }

def SPP_RES_T3_FRAMES : Fld := ⟨0xB00060, 47, 32, .rw, 0, 0x0⟩
def SPP_RES_T3_BASE : Fld := ⟨0xB00060, 15, 0, .rw, 0, 0x0⟩
def SPP_RES_T3 : Reg :=
  { off := 0xB00060, width := 64, count := 1, stride := 8, perTile := false, reset := 0,
    fields := [SPP_RES_T3_FRAMES, SPP_RES_T3_BASE] }

def SPP_RES_DIGEST_DATA : Fld := ⟨0xB00080, 31, 0, .rw, 0, 0x0⟩
def SPP_RES_DIGEST : Reg :=
  { off := 0xB00080, width := 32, count := 8, stride := 4, perTile := false, reset := 0,
    fields := [SPP_RES_DIGEST_DATA] }

def SPP_SCMD_CTL_BUSY : Fld := ⟨0xB000F0, 31, 31, .ro, 0, 0x0⟩
def SPP_SCMD_CTL_RESULT : Fld := ⟨0xB000F0, 7, 4, .ro, 0, 0x0⟩
def SPP_SCMD_CTL_GO : Fld := ⟨0xB000F0, 0, 0, .wo, 0, 0x0⟩
def SPP_SCMD_CTL : Reg :=
  { off := 0xB000F0, width := 32, count := 1, stride := 4, perTile := false, reset := 0,
    fields := [SPP_SCMD_CTL_BUSY, SPP_SCMD_CTL_RESULT, SPP_SCMD_CTL_GO] }

def SPP_DEC_RES_ODD : Fld := ⟨0xB00100, 31, 16, .rw, 0, 0x0⟩
def SPP_DEC_RES_EVEN : Fld := ⟨0xB00100, 15, 0, .rw, 0, 0x0⟩
def SPP_DEC_RES : Reg :=
  { off := 0xB00100, width := 32, count := 16, stride := 4, perTile := false, reset := 0,
    fields := [SPP_DEC_RES_ODD, SPP_DEC_RES_EVEN] }

def SPP_SCMD_BUF_DATA : Fld := ⟨0xB01000, 31, 0, .rw, 0, 0x0⟩
def SPP_SCMD_BUF : Reg :=
  { off := 0xB01000, width := 32, count := 512, stride := 4, perTile := false, reset := 0,
    fields := [SPP_SCMD_BUF_DATA] }

def regsSPP0 : List Reg := [SPP_STATE, SPP_CTL, SPP_STATUS, SPP_ALERT_B_EN, SPP_WDOG, SPP_LIMIT, SPP_SEQ, SPP_COMMIT,
      SPP_MISS_COUNT, SPP_ALERT_REC, SPP_RES_SEL, SPP_RES_CTL, SPP_RES_EGR, SPP_RES_LPDDR, SPP_RES_TILES, SPP_RES_CS,
      SPP_RES_T3, SPP_RES_DIGEST, SPP_SCMD_CTL, SPP_DEC_RES]
def regsSPP1 : List Reg := [SPP_SCMD_BUF]

/-! ### PWR (R504) -/

def PWR_STATE_STATE : Fld := ⟨0x900000, 26, 24, .ro, 0, 0x0⟩
def PWR_STATE_ENV_ACT : Fld := ⟨0x900000, 17, 16, .ro, 0, 0x0⟩
def PWR_STATE_PMC_UP : Fld := ⟨0x900000, 0, 0, .ro, 0, 0x0⟩
def PWR_STATE : Reg :=
  { off := 0x900000, width := 32, count := 1, stride := 4, perTile := false, reset := 0,
    fields := [PWR_STATE_STATE, PWR_STATE_ENV_ACT, PWR_STATE_PMC_UP] }

def PWR_CTL_PF_CLAMP : Fld := ⟨0x900004, 7, 7, .rw, 1, 0x80⟩
def PWR_CTL_ENV_REQ : Fld := ⟨0x900004, 1, 0, .rw, 0, 0x80⟩
def PWR_CTL : Reg :=
  { off := 0x900004, width := 32, count := 1, stride := 4, perTile := false, reset := 128,
    fields := [PWR_CTL_PF_CLAMP, PWR_CTL_ENV_REQ] }

def PWR_STATUS_ACCESS : Fld := ⟨0x900008, 10, 10, .rw1c, 0, 0x0⟩
def PWR_STATUS_PLL_LOSS : Fld := ⟨0x900008, 9, 9, .rw1c, 0, 0x0⟩
def PWR_STATUS_PZ_MISS : Fld := ⟨0x900008, 8, 8, .rw1c, 0, 0x0⟩
def PWR_STATUS_PZ_WAKE : Fld := ⟨0x900008, 7, 7, .rw1c, 0, 0x0⟩
def PWR_STATUS_WAKE : Fld := ⟨0x900008, 6, 6, .rw1c, 0, 0x0⟩
def PWR_STATUS_SLEEP_REJ : Fld := ⟨0x900008, 5, 5, .rw1c, 0, 0x0⟩
def PWR_STATUS_ENV_WITHDRAWN : Fld := ⟨0x900008, 4, 4, .rw1c, 0, 0x0⟩
def PWR_STATUS_PF : Fld := ⟨0x900008, 3, 3, .rw1c, 0, 0x0⟩
def PWR_STATUS_REG_FAULT : Fld := ⟨0x900008, 2, 2, .rw1c, 0, 0x0⟩
def PWR_STATUS_CLAMP : Fld := ⟨0x900008, 1, 1, .rw1c, 0, 0x0⟩
def PWR_STATUS_ENV_CHANGE : Fld := ⟨0x900008, 0, 0, .rw1c, 0, 0x0⟩
def PWR_STATUS : Reg :=
  { off := 0x900008, width := 32, count := 1, stride := 4, perTile := false, reset := 0,
    fields := [PWR_STATUS_ACCESS, PWR_STATUS_PLL_LOSS, PWR_STATUS_PZ_MISS, PWR_STATUS_PZ_WAKE, PWR_STATUS_WAKE,
      PWR_STATUS_SLEEP_REJ, PWR_STATUS_ENV_WITHDRAWN, PWR_STATUS_PF, PWR_STATUS_REG_FAULT, PWR_STATUS_CLAMP,
      PWR_STATUS_ENV_CHANGE] }

def PWR_EVT_EN_EN : Fld := ⟨0x90000C, 10, 0, .rw, 2046, 0x7FE⟩
def PWR_EVT_EN : Reg :=
  { off := 0x90000C, width := 32, count := 1, stride := 4, perTile := false, reset := 2046,
    fields := [PWR_EVT_EN_EN] }

def PWR_EMERG_CLEAR_MS : Fld := ⟨0x900010, 31, 16, .ro, 0, 0x0⟩
def PWR_EMERG_REG_FAULT : Fld := ⟨0x900010, 2, 2, .ro, 0, 0x0⟩
def PWR_EMERG_PWR_FAIL : Fld := ⟨0x900010, 1, 1, .ro, 0, 0x0⟩
def PWR_EMERG_CLAMP : Fld := ⟨0x900010, 0, 0, .ro, 0, 0x0⟩
def PWR_EMERG : Reg :=
  { off := 0x900010, width := 32, count := 1, stride := 4, perTile := false, reset := 0,
    fields := [PWR_EMERG_CLEAR_MS, PWR_EMERG_REG_FAULT, PWR_EMERG_PWR_FAIL, PWR_EMERG_CLAMP] }

def PWR_VTRIM_V_E75 : Fld := ⟨0x900014, 29, 20, .ro, 0, 0x0⟩
def PWR_VTRIM_V_E50 : Fld := ⟨0x900014, 19, 10, .ro, 0, 0x0⟩
def PWR_VTRIM_V_E30 : Fld := ⟨0x900014, 9, 0, .ro, 0, 0x0⟩
def PWR_VTRIM : Reg :=
  { off := 0x900014, width := 32, count := 1, stride := 4, perTile := false, reset := 0,
    fields := [PWR_VTRIM_V_E75, PWR_VTRIM_V_E50, PWR_VTRIM_V_E30] }

def PWR_AVS_ACK : Fld := ⟨0x900018, 31, 30, .ro, 0, 0x0⟩
def PWR_AVS_VDONE : Fld := ⟨0x900018, 29, 29, .ro, 0, 0x0⟩
def PWR_AVS_BUSY : Fld := ⟨0x900018, 28, 28, .ro, 0, 0x0⟩
def PWR_AVS_VREAD : Fld := ⟨0x900018, 25, 16, .ro, 0, 0x0⟩
def PWR_AVS_VSET : Fld := ⟨0x900018, 9, 0, .ro, 0, 0x0⟩
def PWR_AVS : Reg :=
  { off := 0x900018, width := 32, count := 1, stride := 4, perTile := false, reset := 0,
    fields := [PWR_AVS_ACK, PWR_AVS_VDONE, PWR_AVS_BUSY, PWR_AVS_VREAD, PWR_AVS_VSET] }

def PWR_TEMP_TJ_MAX : Fld := ⟨0x90001C, 31, 24, .ro, 0, 0x0⟩
def PWR_TEMP_TJ_CORE : Fld := ⟨0x90001C, 23, 16, .ro, 0, 0x0⟩
def PWR_TEMP : Reg :=
  { off := 0x90001C, width := 32, count := 1, stride := 4, perTile := false, reset := 0,
    fields := [PWR_TEMP_TJ_MAX, PWR_TEMP_TJ_CORE] }

def PWR_TEMP_NV_TJ_NV : Fld := ⟨0x900020, 31, 0, .ro, 0, 0x0⟩
def PWR_TEMP_NV : Reg :=
  { off := 0x900020, width := 32, count := 1, stride := 4, perTile := false, reset := 0,
    fields := [PWR_TEMP_NV_TJ_NV] }

def PWR_POWER_CORE_A : Fld := ⟨0x900024, 31, 16, .ro, 0, 0x0⟩
def PWR_POWER_PKG_W : Fld := ⟨0x900024, 15, 0, .ro, 0, 0x0⟩
def PWR_POWER : Reg :=
  { off := 0x900024, width := 32, count := 1, stride := 4, perTile := false, reset := 0,
    fields := [PWR_POWER_CORE_A, PWR_POWER_PKG_W] }

def PWR_CLK_OSC : Fld := ⟨0x900028, 2, 2, .ro, 1, 0x4⟩
def PWR_CLK_PLL1_LOCK : Fld := ⟨0x900028, 1, 1, .ro, 0, 0x4⟩
def PWR_CLK_PLL0_LOCK : Fld := ⟨0x900028, 0, 0, .ro, 0, 0x4⟩
def PWR_CLK : Reg :=
  { off := 0x900028, width := 32, count := 1, stride := 4, perTile := false, reset := 4,
    fields := [PWR_CLK_OSC, PWR_CLK_PLL1_LOCK, PWR_CLK_PLL0_LOCK] }

def PWR_SLEEP_CTL_BUSY : Fld := ⟨0x90002C, 31, 31, .ro, 0, 0x0⟩
def PWR_SLEEP_CTL_RESULT : Fld := ⟨0x90002C, 7, 4, .ro, 0, 0x0⟩
def PWR_SLEEP_CTL_REQ : Fld := ⟨0x90002C, 1, 0, .wo, 0, 0x0⟩
def PWR_SLEEP_CTL : Reg :=
  { off := 0x90002C, width := 32, count := 1, stride := 4, perTile := false, reset := 0,
    fields := [PWR_SLEEP_CTL_BUSY, PWR_SLEEP_CTL_RESULT, PWR_SLEEP_CTL_REQ] }

def PWR_WAKE_CTL_CAUSE : Fld := ⟨0x900030, 31, 24, .ro, 0, 0x7A⟩
def PWR_WAKE_CTL_RETAIN_EN : Fld := ⟨0x900030, 6, 6, .rw, 1, 0x7A⟩
def PWR_WAKE_CTL_TICKIN_EN : Fld := ⟨0x900030, 5, 5, .rw, 1, 0x7A⟩
def PWR_WAKE_CTL_PCIE_EN : Fld := ⟨0x900030, 4, 4, .rw, 1, 0x7A⟩
def PWR_WAKE_CTL_ETH1 : Fld := ⟨0x900030, 3, 2, .rw, 2, 0x7A⟩
def PWR_WAKE_CTL_ETH0 : Fld := ⟨0x900030, 1, 0, .rw, 2, 0x7A⟩
def PWR_WAKE_CTL : Reg :=
  { off := 0x900030, width := 32, count := 1, stride := 4, perTile := false, reset := 122,
    fields := [PWR_WAKE_CTL_CAUSE, PWR_WAKE_CTL_RETAIN_EN, PWR_WAKE_CTL_TICKIN_EN, PWR_WAKE_CTL_PCIE_EN,
      PWR_WAKE_CTL_ETH1, PWR_WAKE_CTL_ETH0] }

def PWR_WAKE_GO : Fld := ⟨0x900034, 0, 0, .wo, 0, 0x0⟩
def PWR_WAKE : Reg :=
  { off := 0x900034, width := 32, count := 1, stride := 4, perTile := false, reset := 0,
    fields := [PWR_WAKE_GO] }

def PWR_PAD_CTL_HOLD : Fld := ⟨0x900038, 1, 1, .ro, 0, 0x0⟩
def PWR_PAD_CTL_RELEASE : Fld := ⟨0x900038, 0, 0, .wo, 0, 0x0⟩
def PWR_PAD_CTL : Reg :=
  { off := 0x900038, width := 32, count := 1, stride := 4, perTile := false, reset := 0,
    fields := [PWR_PAD_CTL_HOLD, PWR_PAD_CTL_RELEASE] }

def PWR_PZ_CTL_SERVICE : Fld := ⟨0x90003C, 31, 26, .rw, 0, 0x803E8⟩
def PWR_PZ_CTL_STREAM : Fld := ⟨0x90003C, 25, 21, .rw, 0, 0x803E8⟩
def PWR_PZ_CTL_MISS_LIMIT : Fld := ⟨0x90003C, 20, 17, .rw, 4, 0x803E8⟩
def PWR_PZ_CTL_IDR_WAIT_MS : Fld := ⟨0x90003C, 15, 0, .rw, 1000, 0x803E8⟩
def PWR_PZ_CTL : Reg :=
  { off := 0x90003C, width := 32, count := 1, stride := 4, perTile := false, reset := 525288,
    fields := [PWR_PZ_CTL_SERVICE, PWR_PZ_CTL_STREAM, PWR_PZ_CTL_MISS_LIMIT, PWR_PZ_CTL_IDR_WAIT_MS] }

def PWR_PZ_PERIOD_PERIOD_MS : Fld := ⟨0x900040, 15, 0, .rw, 1000, 0x3E8⟩
def PWR_PZ_PERIOD : Reg :=
  { off := 0x900040, width := 32, count := 1, stride := 4, perTile := false, reset := 1000,
    fields := [PWR_PZ_PERIOD_PERIOD_MS] }

def PWR_PZ_THRESH_THRESH : Fld := ⟨0x900044, 31, 0, .rw, 2147483647, 0x7FFFFFFF⟩
def PWR_PZ_THRESH : Reg :=
  { off := 0x900044, width := 32, count := 1, stride := 4, perTile := false, reset := 2147483647,
    fields := [PWR_PZ_THRESH_THRESH] }

def PWR_PZ_SCORE_SCORE : Fld := ⟨0x900048, 31, 0, .ro, 0, 0x0⟩
def PWR_PZ_SCORE : Reg :=
  { off := 0x900048, width := 32, count := 1, stride := 4, perTile := false, reset := 0,
    fields := [PWR_PZ_SCORE_SCORE] }

def PWR_ENV_COUNT_SAT : Fld := ⟨0x900050, 63, 63, .rw1c, 0, 0x0⟩
def PWR_ENV_COUNT_COUNT : Fld := ⟨0x900050, 47, 0, .ro, 0, 0x0⟩
def PWR_ENV_COUNT : Reg :=
  { off := 0x900050, width := 64, count := 1, stride := 8, perTile := false, reset := 0,
    fields := [PWR_ENV_COUNT_SAT, PWR_ENV_COUNT_COUNT] }

def PWR_CLAMP_COUNT_SAT : Fld := ⟨0x900058, 63, 63, .rw1c, 0, 0x0⟩
def PWR_CLAMP_COUNT_COUNT : Fld := ⟨0x900058, 47, 0, .ro, 0, 0x0⟩
def PWR_CLAMP_COUNT : Reg :=
  { off := 0x900058, width := 64, count := 1, stride := 8, perTile := false, reset := 0,
    fields := [PWR_CLAMP_COUNT_SAT, PWR_CLAMP_COUNT_COUNT] }

def PWR_REG_FAULT_COUNT_SAT : Fld := ⟨0x900060, 63, 63, .rw1c, 0, 0x0⟩
def PWR_REG_FAULT_COUNT_COUNT : Fld := ⟨0x900060, 47, 0, .ro, 0, 0x0⟩
def PWR_REG_FAULT_COUNT : Reg :=
  { off := 0x900060, width := 64, count := 1, stride := 8, perTile := false, reset := 0,
    fields := [PWR_REG_FAULT_COUNT_SAT, PWR_REG_FAULT_COUNT_COUNT] }

def PWR_PZ_CYCLE_COUNT_SAT : Fld := ⟨0x900068, 63, 63, .rw1c, 0, 0x0⟩
def PWR_PZ_CYCLE_COUNT_COUNT : Fld := ⟨0x900068, 47, 0, .ro, 0, 0x0⟩
def PWR_PZ_CYCLE_COUNT : Reg :=
  { off := 0x900068, width := 64, count := 1, stride := 8, perTile := false, reset := 0,
    fields := [PWR_PZ_CYCLE_COUNT_SAT, PWR_PZ_CYCLE_COUNT_COUNT] }

def PWR_PZ_MISS_COUNT_SAT : Fld := ⟨0x900070, 63, 63, .rw1c, 0, 0x0⟩
def PWR_PZ_MISS_COUNT_COUNT : Fld := ⟨0x900070, 47, 0, .ro, 0, 0x0⟩
def PWR_PZ_MISS_COUNT : Reg :=
  { off := 0x900070, width := 64, count := 1, stride := 8, perTile := false, reset := 0,
    fields := [PWR_PZ_MISS_COUNT_SAT, PWR_PZ_MISS_COUNT_COUNT] }

def regsPWR0 : List Reg := [PWR_STATE, PWR_CTL, PWR_STATUS, PWR_EVT_EN, PWR_EMERG, PWR_VTRIM, PWR_AVS, PWR_TEMP,
      PWR_TEMP_NV, PWR_POWER, PWR_CLK, PWR_SLEEP_CTL, PWR_WAKE_CTL, PWR_WAKE, PWR_PAD_CTL, PWR_PZ_CTL, PWR_PZ_PERIOD,
      PWR_PZ_THRESH, PWR_PZ_SCORE, PWR_ENV_COUNT]
def regsPWR1 : List Reg := [PWR_CLAMP_COUNT, PWR_REG_FAULT_COUNT, PWR_PZ_CYCLE_COUNT, PWR_PZ_MISS_COUNT]

/-! ### EVT (R557) -/

def EVT_CTL_RATE : Fld := ⟨0xD00000, 11, 8, .rw, 4, 0x406⟩
def EVT_CTL_SAT_EN : Fld := ⟨0xD00000, 2, 2, .rw, 1, 0x406⟩
def EVT_CTL_ACCESS_EN : Fld := ⟨0xD00000, 1, 1, .rw, 1, 0x406⟩
def EVT_CTL_WRAP : Fld := ⟨0xD00000, 0, 0, .rw, 0, 0x406⟩
def EVT_CTL : Reg :=
  { off := 0xD00000, width := 32, count := 1, stride := 4, perTile := false, reset := 1030,
    fields := [EVT_CTL_RATE, EVT_CTL_SAT_EN, EVT_CTL_ACCESS_EN, EVT_CTL_WRAP] }

def EVT_STATUS_FULL : Fld := ⟨0xD00004, 3, 3, .ro, 0, 0x0⟩
def EVT_STATUS_ACCESS : Fld := ⟨0xD00004, 2, 2, .rw1c, 0, 0x0⟩
def EVT_STATUS_SUPPRESSED : Fld := ⟨0xD00004, 1, 1, .rw1c, 0, 0x0⟩
def EVT_STATUS_LOST : Fld := ⟨0xD00004, 0, 0, .rw1c, 0, 0x0⟩
def EVT_STATUS : Reg :=
  { off := 0xD00004, width := 32, count := 1, stride := 4, perTile := false, reset := 0,
    fields := [EVT_STATUS_FULL, EVT_STATUS_ACCESS, EVT_STATUS_SUPPRESSED, EVT_STATUS_LOST] }

def EVT_LOG_WR_INDEX : Fld := ⟨0xD00008, 15, 0, .ro, 0, 0x0⟩
def EVT_LOG_WR : Reg :=
  { off := 0xD00008, width := 32, count := 1, stride := 4, perTile := false, reset := 0,
    fields := [EVT_LOG_WR_INDEX] }

def EVT_LOG_RD_INDEX : Fld := ⟨0xD0000C, 15, 0, .rw, 0, 0x0⟩
def EVT_LOG_RD : Reg :=
  { off := 0xD0000C, width := 32, count := 1, stride := 4, perTile := false, reset := 0,
    fields := [EVT_LOG_RD_INDEX] }

def EVT_SEQ_NEXT : Fld := ⟨0xD00010, 31, 0, .ro, 0, 0x0⟩
def EVT_SEQ : Reg :=
  { off := 0xD00010, width := 32, count := 1, stride := 4, perTile := false, reset := 0,
    fields := [EVT_SEQ_NEXT] }

def EVT_TOTAL_COUNT_SAT : Fld := ⟨0xD00018, 63, 63, .rw1c, 0, 0x0⟩
def EVT_TOTAL_COUNT_COUNT : Fld := ⟨0xD00018, 47, 0, .ro, 0, 0x0⟩
def EVT_TOTAL_COUNT : Reg :=
  { off := 0xD00018, width := 64, count := 1, stride := 8, perTile := false, reset := 0,
    fields := [EVT_TOTAL_COUNT_SAT, EVT_TOTAL_COUNT_COUNT] }

def EVT_LOST_COUNT_SAT : Fld := ⟨0xD00020, 63, 63, .rw1c, 0, 0x0⟩
def EVT_LOST_COUNT_COUNT : Fld := ⟨0xD00020, 47, 0, .ro, 0, 0x0⟩
def EVT_LOST_COUNT : Reg :=
  { off := 0xD00020, width := 64, count := 1, stride := 8, perTile := false, reset := 0,
    fields := [EVT_LOST_COUNT_SAT, EVT_LOST_COUNT_COUNT] }

def EVT_SUPPRESS_COUNT_SAT : Fld := ⟨0xD00028, 63, 63, .rw1c, 0, 0x0⟩
def EVT_SUPPRESS_COUNT_COUNT : Fld := ⟨0xD00028, 47, 0, .ro, 0, 0x0⟩
def EVT_SUPPRESS_COUNT : Reg :=
  { off := 0xD00028, width := 64, count := 1, stride := 8, perTile := false, reset := 0,
    fields := [EVT_SUPPRESS_COUNT_SAT, EVT_SUPPRESS_COUNT_COUNT] }

def EVT_LOG_DATA : Fld := ⟨0xD10000, 31, 0, .ro, 0, 0x0⟩
def EVT_LOG : Reg :=
  { off := 0xD10000, width := 32, count := 8192, stride := 4, perTile := false, reset := 0,
    fields := [EVT_LOG_DATA] }

def regsEVT0 : List Reg := [EVT_CTL, EVT_STATUS, EVT_LOG_WR, EVT_LOG_RD, EVT_SEQ, EVT_TOTAL_COUNT, EVT_LOST_COUNT,
      EVT_SUPPRESS_COUNT, EVT_LOG]

/-! ### DBG (R558) -/

def DBG_STATUS_SPARED : Fld := ⟨0xE00000, 1, 1, .ro, 0, 0x0⟩
def DBG_STATUS_FACTORY : Fld := ⟨0xE00000, 0, 0, .ro, 0, 0x0⟩
def DBG_STATUS : Reg :=
  { off := 0xE00000, width := 32, count := 1, stride := 4, perTile := false, reset := 0,
    fields := [DBG_STATUS_SPARED, DBG_STATUS_FACTORY] }

def DBG_SPARES_SITE3 : Fld := ⟨0xE00004, 31, 24, .ro, 0, 0x0⟩
def DBG_SPARES_SITE2 : Fld := ⟨0xE00004, 23, 16, .ro, 0, 0x0⟩
def DBG_SPARES_SITE1 : Fld := ⟨0xE00004, 15, 8, .ro, 0, 0x0⟩
def DBG_SPARES_SITE0 : Fld := ⟨0xE00004, 7, 0, .ro, 0, 0x0⟩
def DBG_SPARES : Reg :=
  { off := 0xE00004, width := 32, count := 1, stride := 4, perTile := false, reset := 0,
    fields := [DBG_SPARES_SITE3, DBG_SPARES_SITE2, DBG_SPARES_SITE1, DBG_SPARES_SITE0] }

def DBG_TILE_MAP_SITE_B3 : Fld := ⟨0xE00010, 30, 24, .ro, 0, 0x0⟩
def DBG_TILE_MAP_SITE_B2 : Fld := ⟨0xE00010, 22, 16, .ro, 0, 0x0⟩
def DBG_TILE_MAP_SITE_B1 : Fld := ⟨0xE00010, 14, 8, .ro, 0, 0x0⟩
def DBG_TILE_MAP_SITE_B0 : Fld := ⟨0xE00010, 6, 0, .ro, 0, 0x0⟩
def DBG_TILE_MAP : Reg :=
  { off := 0xE00010, width := 32, count := 16, stride := 4, perTile := false, reset := 0,
    fields := [DBG_TILE_MAP_SITE_B3, DBG_TILE_MAP_SITE_B2, DBG_TILE_MAP_SITE_B1, DBG_TILE_MAP_SITE_B0] }

def regsDBG0 : List Reg := [DBG_STATUS, DBG_SPARES, DBG_TILE_MAP]

/-- TIL_FTAB: the read-only view of the function-table slots in each TIL window (R80, R98). -/
def TIL_FTAB_DATA : Fld := ⟨0x1001000, 31, 0, .ro, 0, 0x0⟩
def tilFtab : List Reg := (List.range 8).map fun n =>
  { off := 0x1001000 + n * 0x800, width := 32, count := 264, stride := 4, perTile := true, reset := 0,
    fields := [{ TIL_FTAB_DATA with off := 0x1001000 + n * 0x800 }] }

/-! ### PCIe configuration space (R381, R382; places and layouts PRESUMED, log 228), by offset from 0x0800_0000 -/

def CFG_ID_DEVICE : Fld := ⟨0x8000000, 31, 16, .ro, 2148, 0x8641D9A⟩
def CFG_ID_VENDOR : Fld := ⟨0x8000000, 15, 0, .ro, 7578, 0x8641D9A⟩
def CFG_ID : Reg :=
  { off := 0x8000000, width := 32, count := 1, stride := 4, perTile := false, reset := 0x8641D9A,
    fields := [CFG_ID_DEVICE, CFG_ID_VENDOR] }

def CFG_COMMAND_STATUS : Fld := ⟨0x8000004, 31, 16, .ro, 16, 0x100006⟩
def CFG_COMMAND_COMMAND : Fld := ⟨0x8000004, 15, 0, .ro, 6, 0x100006⟩
def CFG_COMMAND : Reg :=
  { off := 0x8000004, width := 32, count := 1, stride := 4, perTile := false, reset := 0x100006,
    fields := [CFG_COMMAND_STATUS, CFG_COMMAND_COMMAND] }

def CFG_CLASS_CLASS : Fld := ⟨0x8000008, 31, 8, .ro, 1179648, 0x12000000⟩
def CFG_CLASS_REVISION : Fld := ⟨0x8000008, 7, 0, .ro, 0, 0x12000000⟩
def CFG_CLASS : Reg :=
  { off := 0x8000008, width := 32, count := 1, stride := 4, perTile := false, reset := 0x12000000,
    fields := [CFG_CLASS_CLASS, CFG_CLASS_REVISION] }

def CFG_BAR0_BASE : Fld := ⟨0x8000010, 31, 26, .rw, 0, 0x4⟩
def CFG_BAR0_KIND : Fld := ⟨0x8000010, 3, 0, .ro, 4, 0x4⟩
def CFG_BAR0 : Reg :=
  { off := 0x8000010, width := 32, count := 1, stride := 4, perTile := false, reset := 0x4,
    fields := [CFG_BAR0_BASE, CFG_BAR0_KIND] }

def CFG_BAR0_HIGH_BASE : Fld := ⟨0x8000014, 31, 0, .rw, 0, 0x0⟩
def CFG_BAR0_HIGH : Reg :=
  { off := 0x8000014, width := 32, count := 1, stride := 4, perTile := false, reset := 0x0,
    fields := [CFG_BAR0_HIGH_BASE] }

def CFG_BAR2_BASE : Fld := ⟨0x8000018, 31, 20, .rw, 0, 0x4⟩
def CFG_BAR2_KIND : Fld := ⟨0x8000018, 3, 0, .ro, 4, 0x4⟩
def CFG_BAR2 : Reg :=
  { off := 0x8000018, width := 32, count := 1, stride := 4, perTile := false, reset := 0x4,
    fields := [CFG_BAR2_BASE, CFG_BAR2_KIND] }

def CFG_BAR2_HIGH_BASE : Fld := ⟨0x800001C, 31, 0, .rw, 0, 0x0⟩
def CFG_BAR2_HIGH : Reg :=
  { off := 0x800001C, width := 32, count := 1, stride := 4, perTile := false, reset := 0x0,
    fields := [CFG_BAR2_HIGH_BASE] }

def CFG_BAR4_BASE : Fld := ⟨0x8000020, 31, 28, .rw, 0, 0xC⟩
def CFG_BAR4_KIND : Fld := ⟨0x8000020, 3, 0, .ro, 12, 0xC⟩
def CFG_BAR4 : Reg :=
  { off := 0x8000020, width := 32, count := 1, stride := 4, perTile := false, reset := 0xC,
    fields := [CFG_BAR4_BASE, CFG_BAR4_KIND] }

def CFG_BAR4_HIGH_BASE : Fld := ⟨0x8000024, 31, 0, .rw, 0, 0x0⟩
def CFG_BAR4_HIGH : Reg :=
  { off := 0x8000024, width := 32, count := 1, stride := 4, perTile := false, reset := 0x0,
    fields := [CFG_BAR4_HIGH_BASE] }

def CFG_SUBSYS_ID : Fld := ⟨0x800002C, 31, 16, .ro, 0, 0x0⟩
def CFG_SUBSYS_VENDOR : Fld := ⟨0x800002C, 15, 0, .ro, 0, 0x0⟩
def CFG_SUBSYS : Reg :=
  { off := 0x800002C, width := 32, count := 1, stride := 4, perTile := false, reset := 0x0,
    fields := [CFG_SUBSYS_ID, CFG_SUBSYS_VENDOR] }

def CFG_CAP_PTR_PTR : Fld := ⟨0x8000034, 7, 0, .ro, 64, 0x40⟩
def CFG_CAP_PTR : Reg :=
  { off := 0x8000034, width := 32, count := 1, stride := 4, perTile := false, reset := 0x40,
    fields := [CFG_CAP_PTR_PTR] }

def CFG_PM_CAP_CAP : Fld := ⟨0x8000040, 31, 0, .ro, 217089, 0x35001⟩
def CFG_PM_CAP : Reg :=
  { off := 0x8000040, width := 32, count := 1, stride := 4, perTile := false, reset := 0x35001,
    fields := [CFG_PM_CAP_CAP] }

def CFG_PMCSR_NO_SOFT_RESET : Fld := ⟨0x8000044, 3, 3, .ro, 1, 0x8⟩
def CFG_PMCSR_STATE : Fld := ⟨0x8000044, 1, 0, .ro, 0, 0x8⟩
def CFG_PMCSR : Reg :=
  { off := 0x8000044, width := 32, count := 1, stride := 4, perTile := false, reset := 0x8,
    fields := [CFG_PMCSR_NO_SOFT_RESET, CFG_PMCSR_STATE] }

def CFG_MSIX_ENABLE : Fld := ⟨0x8000050, 31, 31, .rw, 0, 0x3F6011⟩
def CFG_MSIX_MASK : Fld := ⟨0x8000050, 30, 30, .rw, 0, 0x3F6011⟩
def CFG_MSIX_SIZE : Fld := ⟨0x8000050, 26, 16, .ro, 63, 0x3F6011⟩
def CFG_MSIX_CAP : Fld := ⟨0x8000050, 15, 0, .ro, 24593, 0x3F6011⟩
def CFG_MSIX : Reg :=
  { off := 0x8000050, width := 32, count := 1, stride := 4, perTile := false, reset := 0x3F6011,
    fields := [CFG_MSIX_ENABLE, CFG_MSIX_MASK, CFG_MSIX_SIZE, CFG_MSIX_CAP] }

def CFG_MSIX_TABLE_PLACE : Fld := ⟨0x8000054, 31, 0, .ro, 1052672, 0x101000⟩
def CFG_MSIX_TABLE : Reg :=
  { off := 0x8000054, width := 32, count := 1, stride := 4, perTile := false, reset := 0x101000,
    fields := [CFG_MSIX_TABLE_PLACE] }

def CFG_MSIX_PBA_PLACE : Fld := ⟨0x8000058, 31, 0, .ro, 1056768, 0x102000⟩
def CFG_MSIX_PBA : Reg :=
  { off := 0x8000058, width := 32, count := 1, stride := 4, perTile := false, reset := 0x102000,
    fields := [CFG_MSIX_PBA_PLACE] }

def CFG_PCIE_CAP : Fld := ⟨0x8000060, 31, 0, .ro, 131088, 0x20010⟩
def CFG_PCIE : Reg :=
  { off := 0x8000060, width := 32, count := 1, stride := 4, perTile := false, reset := 0x20010,
    fields := [CFG_PCIE_CAP] }

def CFG_DEVCAP_FLR : Fld := ⟨0x8000064, 28, 28, .ro, 1, 0x10008002⟩
def CFG_DEVCAP_ROLE_ERR : Fld := ⟨0x8000064, 15, 15, .ro, 1, 0x10008002⟩
def CFG_DEVCAP_MPS_SUPPORTED : Fld := ⟨0x8000064, 2, 0, .ro, 2, 0x10008002⟩
def CFG_DEVCAP : Reg :=
  { off := 0x8000064, width := 32, count := 1, stride := 4, perTile := false, reset := 0x10008002,
    fields := [CFG_DEVCAP_FLR, CFG_DEVCAP_ROLE_ERR, CFG_DEVCAP_MPS_SUPPORTED] }

def CFG_DEVCTL_FLR : Fld := ⟨0x8000068, 15, 15, .wo, 0, 0x2000⟩
def CFG_DEVCTL_MRRS : Fld := ⟨0x8000068, 14, 12, .rw, 2, 0x2000⟩
def CFG_DEVCTL_MPS : Fld := ⟨0x8000068, 7, 5, .rw, 0, 0x2000⟩
def CFG_DEVCTL : Reg :=
  { off := 0x8000068, width := 32, count := 1, stride := 4, perTile := false, reset := 0x2000,
    fields := [CFG_DEVCTL_FLR, CFG_DEVCTL_MRRS, CFG_DEVCTL_MPS] }

def CFG_LINKCAP_WIDTH : Fld := ⟨0x800006C, 9, 4, .ro, 4, 0x45⟩
def CFG_LINKCAP_SPEED : Fld := ⟨0x800006C, 3, 0, .ro, 5, 0x45⟩
def CFG_LINKCAP : Reg :=
  { off := 0x800006C, width := 32, count := 1, stride := 4, perTile := false, reset := 0x45,
    fields := [CFG_LINKCAP_WIDTH, CFG_LINKCAP_SPEED] }

def CFG_LINKSTAT_WIDTH : Fld := ⟨0x8000070, 25, 20, .ro, 0, 0x0⟩
def CFG_LINKSTAT_SPEED : Fld := ⟨0x8000070, 19, 16, .ro, 0, 0x0⟩
def CFG_LINKSTAT : Reg :=
  { off := 0x8000070, width := 32, count := 1, stride := 4, perTile := false, reset := 0x0,
    fields := [CFG_LINKSTAT_WIDTH, CFG_LINKSTAT_SPEED] }

def CFG_AER_CAP : Fld := ⟨0x8000100, 31, 0, .ro, 335675393, 0x14020001⟩
def CFG_AER : Reg :=
  { off := 0x8000100, width := 32, count := 1, stride := 4, perTile := false, reset := 0x14020001,
    fields := [CFG_AER_CAP] }

def CFG_AER_UE_STATUS_ERR : Fld := ⟨0x8000104, 20, 12, .rw1c, 0, 0x0⟩
def CFG_AER_UE_STATUS_DLP : Fld := ⟨0x8000104, 4, 4, .rw1c, 0, 0x0⟩
def CFG_AER_UE_STATUS : Reg :=
  { off := 0x8000104, width := 32, count := 1, stride := 4, perTile := false, reset := 0x0,
    fields := [CFG_AER_UE_STATUS_ERR, CFG_AER_UE_STATUS_DLP] }

def CFG_AER_UE_MASK_ERR : Fld := ⟨0x8000108, 20, 12, .rw, 0, 0x0⟩
def CFG_AER_UE_MASK_DLP : Fld := ⟨0x8000108, 4, 4, .rw, 0, 0x0⟩
def CFG_AER_UE_MASK : Reg :=
  { off := 0x8000108, width := 32, count := 1, stride := 4, perTile := false, reset := 0x0,
    fields := [CFG_AER_UE_MASK_ERR, CFG_AER_UE_MASK_DLP] }

def CFG_AER_UE_SEV_ERR : Fld := ⟨0x800010C, 20, 12, .rw, 98, 0x62010⟩
def CFG_AER_UE_SEV_DLP : Fld := ⟨0x800010C, 4, 4, .rw, 1, 0x62010⟩
def CFG_AER_UE_SEV : Reg :=
  { off := 0x800010C, width := 32, count := 1, stride := 4, perTile := false, reset := 0x62010,
    fields := [CFG_AER_UE_SEV_ERR, CFG_AER_UE_SEV_DLP] }

def CFG_AER_CE_STATUS_ERR : Fld := ⟨0x8000110, 13, 12, .rw1c, 0, 0x0⟩
def CFG_AER_CE_STATUS_LINK : Fld := ⟨0x8000110, 8, 6, .rw1c, 0, 0x0⟩
def CFG_AER_CE_STATUS_RX : Fld := ⟨0x8000110, 0, 0, .rw1c, 0, 0x0⟩
def CFG_AER_CE_STATUS : Reg :=
  { off := 0x8000110, width := 32, count := 1, stride := 4, perTile := false, reset := 0x0,
    fields := [CFG_AER_CE_STATUS_ERR, CFG_AER_CE_STATUS_LINK, CFG_AER_CE_STATUS_RX] }

def CFG_AER_CE_MASK_ERR : Fld := ⟨0x8000114, 13, 12, .rw, 2, 0x2000⟩
def CFG_AER_CE_MASK_LINK : Fld := ⟨0x8000114, 8, 6, .rw, 0, 0x2000⟩
def CFG_AER_CE_MASK_RX : Fld := ⟨0x8000114, 0, 0, .rw, 0, 0x2000⟩
def CFG_AER_CE_MASK : Reg :=
  { off := 0x8000114, width := 32, count := 1, stride := 4, perTile := false, reset := 0x2000,
    fields := [CFG_AER_CE_MASK_ERR, CFG_AER_CE_MASK_LINK, CFG_AER_CE_MASK_RX] }

def CFG_AER_CTL_FIRST : Fld := ⟨0x8000118, 4, 0, .ro, 0, 0x0⟩
def CFG_AER_CTL : Reg :=
  { off := 0x8000118, width := 32, count := 1, stride := 4, perTile := false, reset := 0x0,
    fields := [CFG_AER_CTL_FIRST] }

def CFG_AER_LOG_HEADER : Fld := ⟨0x800011C, 31, 0, .ro, 0, 0x0⟩
def CFG_AER_LOG : Reg :=
  { off := 0x800011C, width := 32, count := 4, stride := 4, perTile := false, reset := 0x0,
    fields := [CFG_AER_LOG_HEADER] }

def CFG_DSN_CAP : Fld := ⟨0x8000140, 31, 0, .ro, 65539, 0x10003⟩
def CFG_DSN : Reg :=
  { off := 0x8000140, width := 32, count := 1, stride := 4, perTile := false, reset := 0x10003,
    fields := [CFG_DSN_CAP] }

def CFG_DSN_LOW_SERIAL : Fld := ⟨0x8000144, 31, 0, .ro, 0, 0x0⟩
def CFG_DSN_LOW : Reg :=
  { off := 0x8000144, width := 32, count := 1, stride := 4, perTile := false, reset := 0x0,
    fields := [CFG_DSN_LOW_SERIAL] }

def CFG_DSN_HIGH_SERIAL : Fld := ⟨0x8000148, 31, 0, .ro, 0, 0x0⟩
def CFG_DSN_HIGH : Reg :=
  { off := 0x8000148, width := 32, count := 1, stride := 4, perTile := false, reset := 0x0,
    fields := [CFG_DSN_HIGH_SERIAL] }

def regsCFG0 : List Reg := [CFG_ID, CFG_COMMAND, CFG_CLASS, CFG_BAR0, CFG_BAR0_HIGH, CFG_BAR2, CFG_BAR2_HIGH,
      CFG_BAR4, CFG_BAR4_HIGH, CFG_SUBSYS, CFG_CAP_PTR, CFG_PM_CAP, CFG_PMCSR, CFG_MSIX, CFG_MSIX_TABLE,
      CFG_MSIX_PBA, CFG_PCIE, CFG_DEVCAP, CFG_DEVCTL, CFG_LINKCAP, CFG_LINKSTAT, CFG_AER, CFG_AER_UE_STATUS,
      CFG_AER_UE_MASK, CFG_AER_UE_SEV, CFG_AER_CE_STATUS, CFG_AER_CE_MASK, CFG_AER_CTL, CFG_AER_LOG, CFG_DSN, CFG_DSN_LOW,
      CFG_DSN_HIGH]

/-- Every register. -/
def allRegs : List Reg :=
  regsID0 ++
  regsTCK0 ++
  regsTIL0 ++
  regsFAB0 ++
  regsNVS0 ++
  regsNVS1 ++
  regsMEM0 ++
  regsCMP0 ++
  regsINT0 ++
  regsVID0 ++
  regsVID1 ++
  regsDBL0 ++
  regsHIF0 ++
  regsCNS0 ++
  regsCNS1 ++
  regsSEC0 ++
  regsSEC1 ++
  regsSPP0 ++
  regsSPP1 ++
  regsPWR0 ++
  regsPWR1 ++
  regsEVT0 ++
  regsDBG0 ++
  tilFtab ++
  regsCFG0

end Sys2Proof.Machine
end

