-- ==== Sys2Proof/Machine/Ops.lean ====
section
/-! DEFINITION. The operations that every meaning is written over: how a command acts, the register file, time, what
leaves the device, interrupts, counters, first-error records and events. -/

namespace Sys2Proof.Machine

/-! ### The register file -/

/-- The same field in another place of an array, window or bank. -/
def Fld.at (f : Fld) (k : Nat) : Fld := { f with off := f.off + k }
/-- The field in the TIL window of a tile (R17). -/
def Fld.tile (f : Fld) (t : Nat) : Fld := f.at (0x40000 * t)
/-- The field in a bank that a select register shows (R379, R409, R463). -/
def Fld.bank (f : Fld) (b : Nat) : Fld := f.at (0x100000000 * b)

/-- A register's stored value. -/
def State.whole (s : State) (off reset : Nat) : Nat :=
  match Tab.look s.regs off with
  | some v => v.toNat
  | none => reset

/-- Stores a register's value; the reset value is not listed. -/
def State.setWhole (s : State) (off reset v : Nat) : State :=
  { s with regs := Tab.store s.regs off (BitVec.ofNat 64 v) (BitVec.ofNat 64 reset) }

/-- A field's stored value. -/
def State.fld (s : State) (f : Fld) : Nat := bitsOf (s.whole f.off f.whole) f.hi f.lo
/-- A one-bit field is 1. -/
def State.bit (s : State) (f : Fld) : Bool := s.fld f != 0
/-- Stores a field. -/
def State.setFld (s : State) (f : Fld) (v : Nat) : State :=
  s.setWhole f.off f.whole (putBits (s.whole f.off f.whole) f.hi f.lo v)
/-- Stores several fields in order. -/
def State.setFlds (s : State) (l : List (Fld × Nat)) : State := l.foldl (fun s x => s.setFld x.1 x.2) s

/-- The register whose space holds a BAR0 offset, and the offset at which that register or array entry begins. -/
def Reg.holds (r : Reg) (off : Nat) : Option Nat :=
  let base := if r.perTile then (off - 0x1000000) / 0x40000 * 0x40000 else 0
  if r.perTile && (off < 0x1000000 || 0x2000000 ≤ off) then none
  else
    let rel := off - base
    if rel < r.off then none
    else
      let i := (rel - r.off) / r.stride
      let start := r.off + i * r.stride
      if i < r.count && rel < start + r.width / 8 then some (base + start) else none

def findIn : List Reg → Nat → Option (Reg × Nat)
  | [], _ => none
  | r :: l, off =>
    match r.holds off with
    | some start => some (r, start)
    | none => findIn l off

/-- The register at a BAR0 offset; none where the offset is unmapped (R15). -/
def findReg (off : Nat) : Option (Reg × Nat) := findIn allRegs off

/-- The reset value of the register at a key of the register file; the vector-control words of the MSI-X table come up
masked (PRESUMED, PCIe; log 2). -/
def regReset (key : Nat) : Nat :=
  let off := key % 0x100000000
  if 0x101000 ≤ off && off < 0x101400 && off % 16 = 12 then 1
  else
    match findReg off with
    | some (r, _) => r.reset
    | none => 0

/-- The register file is canonical: keys strictly rising, no entry at its reset value. -/
def regsWf (t : Tab DWord) : Bool := t.wf && t.all fun e => e.2 != BitVec.ofNat 64 (regReset e.1)

/-- A register's stored value by key. -/
def State.regAt (s : State) (key : Nat) : Nat := s.whole key (regReset key)
/-- Stores a register's value by key. -/
def State.setRegAt (s : State) (key v : Nat) : State := s.setWhole key (regReset key) v

/-! ### Time -/

/-- Nanoseconds since release (R525). -/
def State.sinceRelease (s : State) : Nat :=
  match s.boot.releasedAt with
  | none => 0
  | some t => s.now - t

/-- The PTP hardware clock in ns (R349). -/
def State.ptpNs (s : State) : Int :=
  (s.sinceRelease : Int) + s.intake.ptp.shift +
    s.intake.ptp.rate * ((s.now - s.intake.ptp.rateFrom : Nat) : Int) / 1000000000

/-- The active tick source is PTP (R56). -/
def State.ptpMode (s : State) : Bool := s.fld TCK_CTL_SRC_ACTIVE == 1

/-- The time base of R352: PTP time in PTP tick mode, otherwise ns since release. -/
def State.stamp (s : State) : Nat := if s.ptpMode then s.ptpNs.toNat else s.sinceRelease

/-- Model time moved on to a due time that has not been reached. -/
def State.upTo (s : State) (t : Nat) : State := { s with now := max s.now t }

/-- The present tick number. -/
def State.tick (s : State) : Nat := s.fld TCK_COUNT_TICK

/-! ### Device states (R535, R539) -/

def stOff : Nat := 0
def stFuseLoad : Nat := 1
def stConfigLoad : Nat := 2
def stReleased : Nat := 3
def stReady : Nat := 4
def stRunning : Nat := 5
def stHeld : Nat := 6
def stRest : Nat := 7
def stPizzicato : Nat := 8

/-- ID_STATE.STATE. -/
def State.dev (s : State) : Nat := s.fld ID_STATE_STATE
def State.setDev (s : State) (v : Nat) : State := s.setFld ID_STATE_STATE v
/-- READY, RUNNING or HELD. -/
def State.up (s : State) : Bool := s.dev == stReady || s.dev == stRunning || s.dev == stHeld
/-- REST or PIZZICATO. -/
def State.asleep (s : State) : Bool := s.dev == stRest || s.dev == stPizzicato

/-! ### What leaves the device -/

def State.emit (s : State) (o : Out) : State := { s with out := s.out ++ [o] }

/-- Posted host-memory write. -/
def State.dma (s : State) (addr : Nat) (data : Bytes) : State := if data.isEmpty then s else s.emit (.dma addr data)

/-- An entry of a completion or result ring, in posted writes: its first 8 bytes follow the others (R393). -/
def State.dmaEntry (s : State) (addr : Nat) (data : Bytes) : State :=
  (s.dma (addr + 8) (data.drop 8)).dma addr (data.take 8)

/-- Host DMA waits: the device is in D3hot (R383), or its link is in recovery (R384). -/
def State.dmaHeld (s : State) : Bool := s.hif.d3hot || s.hif.dmaPaused

/-- The vector-control mask bit of an MSI-X entry. -/
def msixMask (v : Nat) : Fld := ⟨0x10100C + 16 * v, 0, 0, .rw, 1, 1⟩

/-- A message of an MSI-X vector is held pending: its entry or the function is masked, MSI-X is not enabled (PRESUMED, log
228), or the function is in D3hot, where the device issues no request (R383, R387). -/
def State.msixHeld (s : State) (v : Nat) : Bool :=
  s.bit (msixMask v) || s.bit CFG_MSIX_MASK || !s.bit CFG_MSIX_ENABLE || s.hif.d3hot

/-- Signals an MSI-X vector: a masked message is held pending and never lost (R387). -/
def State.signal (s : State) (v : Nat) : State :=
  if s.msixHeld v then { s with hif := { s.hif with msixPending := insertNat v s.hif.msixPending } }
  else s.emit (.msix v)

/-! ### Events -/

/-- The event unit's source code of a BAR0 offset (R548). -/
def sourceOf (off : Nat) : Nat :=
  let o := off % 0x100000000
  if 0xA00800 ≤ o && o < 0xA00900 then 0x0F
  else if 0x1000000 ≤ o && o < 0x2000000 then 0x40 + (o - 0x1000000) / 0x40000
  else if o < 0x1000 then 0
  else if o < 0x100000 then 1
  else if o < 0xF00000 then o / 0x100000
  else 1

/-- Severities by source and status bit (R541); any other status field is a NOTE. A crash is FUNCTION here; that of a
cluster control core is LOST and says so itself. -/
def severityTable : List (Nat × List Nat × Nat) :=
  [(0x40, [3], 1), (0x40, [0, 1, 4, 5], 2), (0x40, [6, 7], 3),
   (0x3, [0, 4], 1), (0x3, [1, 2, 3, 5, 8, 10], 2), (0x3, [7, 9], 4), (0x3, [12], 5),
   (0x4, [0, 1, 5, 6, 7, 8, 11, 12], 1), (0x4, [2, 4], 2), (0x4, [3], 3), (0x4, [9, 10], 5),
   (0xC, [0], 1), (0xC, [1], 2), (0xC, [2, 3, 4, 5], 3),
   (0x5, [0, 1, 2], 2),
   (0x2, [1, 2, 3, 4, 7], 3), (0x2, [0], 4),
   (0x9, [9], 3), (0x9, [1, 2], 5), (0x9, [3], 6),
   (0x7, [0, 1, 2], 3), (0x7, [5, 6, 7, 9], 4),
   (0x1, [2, 3], 4), (0x1, [0], 5),
   (0x6, [3, 4], 4), (0x6, [0, 1, 6], 5),
   (0x8, [0, 1, 3, 4, 5, 7], 4),
   (0xF, [0, 4, 5], 5), (0xA, [6], 5),
   (0xB, [7, 8, 10, 11], 5), (0xB, [0, 1, 2, 9, 12], 6)]

def severityOf (src code : Nat) : Nat :=
  let k := if 0x40 ≤ src then 0x40 else src
  match severityTable.find? fun e => e.1 == k && e.2.1.contains code with
  | some e => e.2.2
  | none => 0

/-- An event record of R548. -/
def eventRecord (src code flags seq tick time : Nat) (detail : Bytes) : Bytes :=
  leBytes 1 src ++ leBytes 1 code ++ leBytes 1 flags ++ [0] ++ leBytes 4 seq ++ leBytes 8 tick ++ leBytes 8 time ++
    padTo 8 (detail.take 8)

/-- Adds to a counter of the common layout (R551): the state, and whether SAT has just been set. -/
def State.bumpRaw (s : State) (f : Fld) (n : Nat) : State × Bool :=
  let v := s.whole f.off f.whole
  if v.testBit 63 || n = 0 then (s, false)
  else
    let c := v % 2 ^ 48 + n
    if c < 2 ^ 48 then (s.setWhole f.off f.whole c, false)
    else (s.setWhole f.off f.whole (2 ^ 63 + (2 ^ 48 - 1)), true)

/-- Index of the log word that a record's first word takes. -/
def logWord (i : Nat) : Nat := i % 1024 * 2

/-- Unread records (R546). -/
def State.unread (s : State) : Nat := (s.fld EVT_LOG_WR_INDEX + 65536 - s.fld EVT_LOG_RD_INDEX) % 65536

/-- Stores a record of 32 bytes in the log's SRAM (R546, R309). -/
def State.putRecord (s : State) (entry : Bytes) : State :=
  let w := logWord (s.fld EVT_LOG_WR_INDEX)
  let ws := words128 (padTo 32 entry)
  let put := fun (t : Tab CWord) (i : Nat) => Tab.put t (w + i) (CWord.enc (w + i) ⟨ws.getD i 0, false⟩)
  { s with log := { s.log with words := put (put s.log.words 0) 1, lostDue := false } }.setFld EVT_LOG_WR_INDEX
    (s.fld EVT_LOG_WR_INDEX + 1)

/-- Writes a record to the log under R546 and R547; counters of the event unit that saturate are answered as a list of
their offsets. -/
def State.logAppend (s : State) (entry : Bytes) : State × List Nat :=
  let lost := fun (s : State) =>
    let r := s.bumpRaw EVT_LOST_COUNT_COUNT 1
    (r.1.setFld EVT_STATUS_LOST 1, if r.2 then [EVT_LOST_COUNT_COUNT.off] else [])
  let withLost := modAt entry 2 (· ||| 8)
  let write := fun (s : State) (entry : Bytes) =>
    let r := (s.putRecord entry).bumpRaw EVT_TOTAL_COUNT_COUNT 1
    (r.1.signal (r.1.fld HIF_VEC_EVT_VEC), if r.2 then [EVT_TOTAL_COUNT_COUNT.off] else [])
  if s.unread < 1024 then write s (if s.log.lostDue then withLost else entry)
  else if s.bit EVT_CTL_WRAP then
    let a := lost (s.setFld EVT_LOG_RD_INDEX (s.fld EVT_LOG_RD_INDEX + 1))
    let b := write a.1 withLost
    (b.1, a.2 ++ b.2)
  else
    let a := lost s
    ({ a.1 with log := { a.1.log with lostDue := true } }, a.2)

/-- A record takes the next SEQ and is written, or is held in the always-on queue in REST and PIZZICATO (R545, R550). -/
def State.record1 (s : State) (src code flags tick time : Nat) (detail : Bytes) : State × List Nat :=
  let seq := s.fld EVT_SEQ_NEXT
  let s := s.setFld EVT_SEQ_NEXT (seq + 1)
  if s.asleep then
    let entry := eventRecord src code (flags ||| 0x20) seq tick time detail
    if s.log.sleepQueue.length < 8 then
      ({ s with log := { s.log with sleepQueue := s.log.sleepQueue ++ [entry] } }, [])
    else
      let r := s.bumpRaw EVT_LOST_COUNT_COUNT 1
      ({ r.1.setFld EVT_STATUS_LOST 1 with log := { r.1.log with lostDue := true } },
        if r.2 then [EVT_LOST_COUNT_COUNT.off] else [])
  else s.logAppend (eventRecord src code flags seq tick time detail)

/-- Saturations of the event unit's own counters, as occurrences of the instant of another. -/
def Occurrence.saturations (o : Occurrence) (s : State) (l : List Nat) : List Occurrence :=
  if s.bit EVT_CTL_SAT_EN then
    l.map fun off => { o with src := 0x0D, code := 0x81, severity := 0, detail := leBytes 4 off }
  else []

/-- An occurrence enters the event unit (R543, R544): the state, and the further occurrences that it makes by saturating counters of
the unit itself. -/
def State.enter (s : State) (o : Occurrence) : State × List Occurrence :=
  let key := 256 * o.src + o.code
  let seen := Tab.lookD s.log.rate key (0, 0, 0)
  if seen.1 < max 1 (s.fld EVT_CTL_RATE) then
    let s := { s with log := { s.log with rate := Tab.put s.log.rate key (seen.1 + 1, seen.2) } }
    let r := s.record1 o.src o.code o.severity o.tick o.time o.detail
    (r.1, o.saturations r.1 r.2)
  else
    let first := if seen.2.1 = 0 then o.time else seen.2.2
    let s := { s with log := { s.log with rate := Tab.put s.log.rate key (seen.1, seen.2.1 + 1, first) } }
    let r := s.bumpRaw EVT_SUPPRESS_COUNT_COUNT 1
    let s := r.1.setFld EVT_STATUS_SUPPRESSED 1
    (s, o.saturations s (if r.2 then [EVT_SUPPRESS_COUNT_COUNT.off] else []))

/-- The occurrences of a list enter in its order, and what they make in turn is listed. -/
def State.enterAll (s : State) (l : List Occurrence) : State × List Occurrence :=
  l.foldl (fun p o => ((p.1.enter o).1, p.2 ++ (p.1.enter o).2)) (s, [])

/-- A group enters whole (R545); what it makes reaches the unit after it, as a group of its own. The fuel bounds that chain: each of
the unit's three counters saturates once. -/
def State.enterGroup : Nat → State → List Occurrence → State
  | 0, s, _ => s
  | n + 1, s, l => if l.isEmpty then s else State.enterGroup n (s.enterAll l).1 (s.enterAll l).2

/-- An event: an occurrence on its way to the event unit. -/
def State.event (s : State) (src code sev : Nat) (detail : Bytes) : State :=
  let o : Occurrence :=
    { instant := s.now, src := src, code := code, severity := sev, tick := s.tick, time := s.stamp, detail := detail }
  { s with log := { s.log with group := s.log.group ++ [o] } }

/-- An occurrence comes no later than another: by its instant, and at one instant by SOURCE, then CODE. -/
def Occurrence.first (a b : Occurrence) : Bool :=
  if a.instant != b.instant then decide (a.instant < b.instant)
  else if a.src != b.src then decide (a.src < b.src)
  else decide (a.code ≤ b.code)

def Occurrence.place (o : Occurrence) : List Occurrence → List Occurrence
  | [] => [o]
  | x :: r => if x.first o then x :: Occurrence.place o r else o :: x :: r

/-- A list of occurrences in the order of their instants as groups, one for each instant. -/
def groupsOf : List Occurrence → List (List Occurrence)
  | [] => []
  | o :: l =>
    match groupsOf l with
    | (x :: g) :: r => if x.instant = o.instant then (o :: x :: g) :: r else [o] :: (x :: g) :: r
    | r => [o] :: r

/-- The occurrences enter the log: those of one instant are a group of R545. -/
def State.settle (s : State) : State :=
  let l := s.log.group.foldl (fun l o => Occurrence.place o l) []
  (groupsOf l).foldl (fun s g => State.enterGroup 5 s g) { s with log := { s.log with group := [] } }

/-- The event of a status field is enabled (R543). -/
def State.eventOn (s : State) (f : Fld) : Bool :=
  let o := f.off % 0x100000000
  if o = TCK_STATUS.off || o = SPP_STATUS.off then true
  else if o = EVT_STATUS.off then false
  else (s.regAt (f.off + 4)).testBit f.lo

/-- Sets a status field and raises its event with a DETAIL of its own (R549). -/
def State.flagWith (s : State) (f : Fld) (detail : Bytes) : State :=
  let s := s.setFld f 1
  if s.eventOn f then s.event (sourceOf f.off) f.lo (severityOf (sourceOf f.off) f.lo) detail else s

/-- Sets a status field and raises its event; DETAIL is the status register after the set (R549). -/
def State.flag (s : State) (f : Fld) : State :=
  let v := (s.setFld f 1).whole f.off f.whole
  s.flagWith f (leBytes 4 v)

/-- Sets a status field without an event, where the event is raised once for several occurrences. -/
def State.quiet (s : State) (f : Fld) : State := s.setFld f 1

/-- Raises one access-error event (R14, R15, R548, R549). -/
def State.accessError (s : State) (src bar off : Nat) (write part : Bool) : State :=
  if s.bit EVT_CTL_ACCESS_EN then
    s.event src 0x80 0 (leBytes 1 bar ++ leBytes 1 (b2n write + 2 * b2n part) ++ [0, 0] ++ leBytes 4 off)
  else s

/-- Adds to a counter; a new saturation raises its event (R551). The EVT unit's own counters are kept by `enter`. -/
def State.count (s : State) (f : Fld) (n : Nat) : State :=
  let r := s.bumpRaw f n
  if r.2 && r.1.bit EVT_CTL_SAT_EN then r.1.event (sourceOf f.off) 0x81 0 (leBytes 4 (f.off % 0x100000000)) else r.1

/-- Adds one to a count field that is not in the common layout and stops at its maximum (R554). -/
def State.countUp (s : State) (f : Fld) : State :=
  if s.fld f + 1 < 2 ^ (f.hi + 1 - f.lo) then s.setFld f (s.fld f + 1) else s

/-- Fills a first-error record whose VALID bit is clear. -/
def State.firstRecord (s : State) (valid : Fld) (l : List (Fld × Nat)) : State :=
  if s.bit valid then s else (s.setFlds l).setFld valid 1

/-- An effect under a test; the state as it is where the test fails. -/
def State.whenB (s : State) (c : Bool) (f : State → State) : State := if c then f s else s

/-- n words that nothing fixes, and the state that has used them up (log 12). -/
def State.freeQs (s : State) (n : Nat) : State × List QWord :=
  ({ s with freeCount := s.freeCount + 4 * n }, (List.range n).map fun i => BitVec.ofNat 128
    ((List.range 4).foldl (fun a j => a * 2 ^ 32 + (Config.freeWord (s.freeCount + 4 * i + j)).toNat) 0))

/-! ### PCIe errors (R382, R383, R404) -/

/-- The PCIe endpoint is out of reset and its link is up (R384, R527, R534). -/
def State.pcieUp (s : State) : Bool := s.bit HIF_LINK_UP && !s.bit ID_STRAPS_PCIE_MODE

/-- Advanced Error Reporting records an uncorrectable error by its bit, 12 to 20: the first one that is not masked gives the First
Error Pointer and, where `header` says so, the header of its request, which nothing here fixes (PRESUMED, PCI Express; log 228). -/
def State.aerError (s : State) (bit : Nat) (header : Bool) : State :=
  let old := s.fld CFG_AER_UE_STATUS_ERR
  let held := (s.whole CFG_AER_UE_STATUS.off 0).testBit (s.fld CFG_AER_CTL_FIRST)
  let masked := (s.fld CFG_AER_UE_MASK_ERR).testBit (bit - 12)
  let s := s.setFld CFG_AER_UE_STATUS_ERR (old ||| 2 ^ (bit - 12))
  if held || masked then s
  else
    let s := s.setFld CFG_AER_CTL_FIRST bit
    s.whenB header fun s =>
      let f := s.freeQs 1
      let w := (f.2.headD 0).toNat
      (List.range 4).foldl (fun (s : State) i => s.setFld (CFG_AER_LOG_HEADER.at (4 * i)) (w / 2 ^ (32 * i))) f.1

/-- A BAR access that the function does not take: an Unsupported Request, which a read has as its completion, and which is an
advisory error there (R383; log 228). -/
def State.unsupported (s : State) (read : Bool) : State :=
  s.whenB s.pcieUp fun s =>
    (s.aerError 20 true).whenB read fun s =>
      (s.setFld CFG_AER_CE_STATUS_ERR (s.fld CFG_AER_CE_STATUS_ERR ||| 2)).emit (.refused 1)

/-! ### How a command acts -/

/-- A command's effect: the queue is not the effect's to change, what has left the device is never taken back, and time
never runs backwards. After a thermal trip every clock is stopped and nothing acts (R488). -/
def act (s : State) (f : State → State) : Host.Outcome State Fault Refusal :=
  if s.power.tripped then .next s
  else
    let t := (f { s with out := [] }).settle
    .next { t with pending := s.pending, out := s.out ++ t.out, now := max s.now t.now }

/-- A command that acts after a thermal trip as well: those of the rails and of the test access port (R488, R536,
R580). -/
def actAlways (s : State) (f : State → State) : Host.Outcome State Fault Refusal :=
  let t := (f { s with out := [] }).settle
  .next { t with pending := s.pending, out := s.out ++ t.out, now := max s.now t.now }

/-! ### Parts of the state by number -/

def State.svc (s : State) (n : Nat) : Service := Tab.lookD s.services n Service.reset
def State.setSvc (s : State) (n : Nat) (v : Service) : State := { s with services := Tab.put s.services n v }
def State.modSvc (s : State) (n : Nat) (f : Service → Service) : State := s.setSvc n (f (s.svc n))
def State.tileOf (s : State) (t : Nat) : Tile := Tab.lookD s.tiles t Tile.reset
def State.setTile (s : State) (t : Nat) (v : Tile) : State := { s with tiles := Tab.put s.tiles t v }
def State.modTile (s : State) (t : Nat) (f : Tile → Tile) : State := s.setTile t (f (s.tileOf t))
def State.clusterOf (s : State) (c : Nat) : Cluster := Tab.lookD s.clusters c { store := [], segs := 0 }
def State.setCluster (s : State) (c : Nat) (v : Cluster) : State := { s with clusters := Tab.put s.clusters c v }
def State.core (s : State) (c : Nat) : Core := Tab.lookD s.cores c Core.reset
def State.modCore (s : State) (c : Nat) (f : Core → Core) : State :=
  { s with cores := Tab.put s.cores c (f (s.core c)) }
def State.setNv (s : State) (v : Nv) : State := { s with nv := v }
def State.setMem (s : State) (v : Mem) : State := { s with mem := v }
def State.setIntake (s : State) (v : Intake) : State := { s with intake := v }
def State.setHif (s : State) (v : Hif) : State := { s with hif := v }
def State.setCns (s : State) (v : Consort) : State := { s with consort := v }
def State.setPower (s : State) (v : Power) : State := { s with power := v }
def State.setBoot (s : State) (v : Boot) : State := { s with boot := v }
def State.setSpp (s : State) (v : Spp) : State := { s with spp := v }

/-! ### The core-rail current (R479, R489) -/

/-- I_tile of an envelope, mA. -/
def iTile (env : Nat) : Nat := 250 * (env + 1)

/-- The current that the tiles are to draw together. -/
def Power.aim (p : Power) : Nat := p.draws.foldl (fun n e => n + e.2) 0

/-- The tiles' part of the core-rail current at a time: it moves by 20 mA in a nanosecond until it is what they are to draw. -/
def Power.rail (p : Power) (t : Nat) : Nat :=
  let d := 20 * (t - p.railAt)
  if p.railFrom ≤ p.aim then min p.aim (p.railFrom + d) else max p.aim (p.railFrom - d)

/-- From a time on the tiles draw as listed: ballast moves at the limiter's rate. -/
def Power.draw (p : Power) (t : Nat) (l : Tab Nat) : Power := { p with draws := l, railFrom := p.rail t, railAt := t }
def State.draw (s : State) (t : Nat) (l : Tab Nat) : State := s.setPower (s.power.draw t l)

/-- The ballast of a boundary at b: from 4 µs it falls for the tiles whose service does not run the tick, or for every tile where the
clock changes, and from 13 µs it rises for the tiles that run (R489). -/
def State.ballast (s : State) (b : Nat) (changed : Bool) (env : Nat) (tiles : List Nat) : State :=
  let kept := if changed then [] else Tab.keep s.power.draws tiles.contains
  (s.draw (b + 4000) kept).draw (b + 13000) (tiles.foldl (fun l t => Tab.put l t (iTile env)) [])

/-- A signature, digest or key block check failed (R524). -/
def State.verifyFail (s : State) : State := (s.count SEC_VERIFY_FAIL_COUNT_COUNT 1).flag SEC_STATUS_VERIFY_FAIL

end Sys2Proof.Machine
end

