-- ==== Sys2Proof/Machine/Guard.lean ====
section
/-! DEFINITION. Output pins and the alerts of the soundpost partition (R472 to R475, R498). -/

namespace Sys2Proof.Machine

/-- Output pads that keep their level while PWR_PAD_CTL.HOLD is 1. The SMBus pads, open drain and released between transfers, are
latched so too, and the target goes on answering, as R579 has it in every state but OFF (DESIGN CHOICE, log 243). -/
def heldPads : List String :=
  ["TICK_OUT", "PPS_OUT", "ALERT_A_N", "ALERT_B_N", "HB_OUT", "XSPI_CS_N", "XSPI_RESET_N"]

/-- A pin changes its level, unless its pad is held. -/
def State.pin (s : State) (name : String) (level : Bool) : State :=
  if s.bit PWR_PAD_CTL_HOLD && heldPads.contains name then s else s.emit (.pin name level)

/-- The partition is enabled (R475). -/
def State.sppOn (s : State) : Bool := s.bit ID_STRAPS_SPP_EN

/-- The alert pins follow their status bits from the first READY on; a device reset, which keeps them, comes after it. -/
def State.alertsLive (s : State) : Bool := s.bit HIF_STATUS_READY || s.fld ID_RESET_KIND != 0

/-- Level of ALERT_A_N and ALERT_B_N: true while not driven low. -/
def State.alertALevel (s : State) : Bool := s.alertsLive && !(s.sppOn && s.bit SPP_STATUS_ALERT_A)
def State.alertBLevel (s : State) : Bool := s.alertsLive && !(s.sppOn && s.bit SPP_STATUS_ALERT_B)

/-- The alert pins take their levels. -/
def State.showAlerts (s : State) : State := (s.pin "ALERT_A_N" s.alertALevel).pin "ALERT_B_N" s.alertBLevel

/-- Sets ALERT_B; each condition that sets it is an occurrence (R543). -/
def State.raiseB (s : State) : State := (s.flag SPP_STATUS_ALERT_B).showAlerts

/-- Sets one of SPP_STATUS bits 4 to 11 (R473). -/
def State.sppNote (s : State) (f : Fld) : State :=
  if s.sppOn then
    let s := s.flag f
    s.whenB ((s.fld SPP_ALERT_B_EN_EN).testBit (f.lo - 4)) State.raiseB
  else s

end Sys2Proof.Machine
end

