-- ==== Sys2Proof/Machine/Lpddr.lean ====
section
/-! DEFINITION. LPDDR: placement of addresses (R289, R290, R313), check records and quads (R291, R310), the line code
(R311), reads and writes of words (R312, R314 to R316, R318) and line repair (R312). The stored bytes are a sorted list
of (key, byte), key channel × 2^34 + channel offset; a byte that nothing has written holds a free value. -/

namespace Sys2Proof.Machine

/-! ### The cells -/

/-- The cells are canonical: keys strictly rising. -/
def Mem.wf (m : Mem) : Bool := Tab.wf m.cells

/-- A stored byte; one that nothing has written is free (R316). -/
def cellByte (c : List Host.Cell) (k : Nat) : Byte := (Tab.look c k).getD (Config.freeByte k)

/-- n stored bytes from a key. -/
def cellBytes (c : List Host.Cell) (k n : Nat) : Bytes := (List.range n).map fun i => cellByte c (k + i)

/-- Bytes with their keys from k. -/
def cellsAt : Nat → Bytes → List Host.Cell
  | _, [] => []
  | k, b :: r => (k, b) :: cellsAt (k + 1) r

/-- Stores bytes from a key. -/
def cellsWrite (c : List Host.Cell) (k : Nat) (b : Bytes) : List Host.Cell :=
  c.filter (fun e => e.1 < k) ++ cellsAt k b ++ c.filter (fun e => k + b.length ≤ e.1)

/-! ### Placement -/

/-- LPDDR bytes per channel (R288). -/
def State.chBytes (s : State) : Nat := s.fld MEM_CFG_DENSITY * 2 ^ 30
/-- The usable size U (R289). -/
def State.usable (s : State) : Nat := s.chBytes * 8 / 16 * 15
/-- The strap selects the compatibility form (R6, R313). -/
def State.compat (s : State) : Bool := s.bit ID_STRAPS_ECC_COMPAT
/-- T3 answers: every channel is trained (R288). -/
def State.memUp (s : State) : Bool := s.bit MEM_CFG_TRAINED
/-- Bytes of usable space that answer: none until every channel is trained (R288, R289). -/
def State.t3Bytes (s : State) : Nat := if s.memUp then s.usable else 0
/-- A range lies in usable space. -/
def State.inUsable (s : State) (a n : Nat) : Bool := s.memUp && decide (a + n ≤ s.usable)

/-- Bytes in a pool frame, the unit of the initialised bits (R298, R316). -/
def frameBytes : Nat := 1966080

/-- Channel of an address (R290, R313). -/
def channelOf (compat : Bool) (a : Nat) : Nat := if compat then a / 2048 % 8 else a / 30720 % 8

/-- Keys of the data line and of the check record of the line that holds an address. -/
def linePlace (compat : Bool) (chBytes a : Nat) : Nat × Nat :=
  if compat then
    let l := a / 2048
    (l % 8 * 2 ^ 34 + l / 8 * 2048, l % 8 * 2 ^ 34 + chBytes / 16 * 15 + 136 * (l / 8))
  else
    let seg := a / 30720
    let base := seg % 8 * 2 ^ 34 + seg / 8 * 32768
    let line := a % 30720 / 2048
    (base + line * 2048, base + 30720 + 136 * line)

/-- Key of the eight bytes that end the check line of an address's segment, which are written zero (R290). -/
def tailPlace (a : Nat) : Nat := let seg := a / 30720; seg % 8 * 2 ^ 34 + seg / 8 * 32768 + 30720 + 2040

/-- h8: the XOR of the four bytes of the word address (R313); zero in native form. -/
def hFold (compat : Bool) (a : Nat) : Nat :=
  if compat then
    let w := a / 16
    bitsOf w 7 0 ^^^ bitsOf w 15 8 ^^^ bitsOf w 23 16 ^^^ bitsOf w 31 24
  else 0

/-! ### Quads (R310) -/

/-- Decodes one word of a quad with its nine-bit syndrome. -/
def quadWord (syn8 syn : Nat) (d : QWord) : KKind × MWord :=
  if syn8 = 0xFF then (.poison, ⟨d, true⟩)
  else
    let r := kDecode (BitVec.ofNat 9 syn) d
    if r.1 = .uncorrectable || r.1 = .poison then (.uncorrectable, ⟨d, true⟩) else (r.1, ⟨r.2, false⟩)

/-- Decodes a quad: words, stored check bits 7:0, stored parity. Answers the words and whether the parity bit itself
was in error (step 3). -/
def decodeQuad (ds : List QWord) (cs : List Nat) (par : Bool) : List (KKind × MWord) × Bool :=
  let s8 := (ds.zip cs).map fun (d, c) => bitsOf (kCheck d).toNat 7 0 ^^^ c
  let s0 := s8.map fun x => if x = 0xFF then 0 else x
  let t := b2n par ^^^ (ds.foldl (fun a d => a ^^^ bitsOf (kCheck d).toNat 8 8) 0)
  let bad := (s0.filter (· != 0)).length
  let word := fun (x : QWord × Nat) =>
    let (d, s) := x
    if s = 0xFF then ((KKind.poison, MWord.mk d true) : KKind × MWord)
    else if s = 0 then (.clean, ⟨d, false⟩)
    else if bad = 1 then quadWord s (t * 256 + s) d
    else (.uncorrectable, ⟨d, true⟩)
  ((ds.zip s8).map word, bad = 0 && t = 1)

/-! ### The line code (R311) -/

/-- Multiplication by α in GF(2^16). -/
def gfDouble (x : Nat) : Nat := let y := 2 * x; if y < 65536 then y else y ^^^ 0x1100B
/-- Product in GF(2^16), over the bits of the second factor. -/
def gfMulGo : Nat → Nat → Nat → Nat → Nat
  | 0, _, _, r => r
  | n + 1, a, b, r => gfMulGo n (gfDouble a) (b / 2) (if b % 2 = 1 then r ^^^ a else r)
def gfMul (a b : Nat) : Nat := gfMulGo 16 a b 0

/-- The inverse of α + 1. -/
def gfInv3 : Nat := 0xF006

/-- The 16-bit little-endian symbols of bytes. -/
def symbols : Bytes → List Nat
  | a :: b :: r => (a.toNat + 256 * b.toNat) :: symbols r
  | [a] => [a.toNat]
  | [] => []

/-- Value of symbols, highest coefficient first, at 1 and at α. -/
def lineSums (l : List Nat) : Nat × Nat := l.foldl (fun (p : Nat × Nat) c => (p.1 ^^^ c, gfDouble p.2 ^^^ c)) (0, 0)

/-- The two line-code symbols over the data and record bytes 0 to 131. -/
def lineCode (l : List Nat) : Nat × Nat :=
  let t := lineSums l
  let s1 := gfDouble (gfDouble t.2)
  let p := gfMul (t.1 ^^^ s1) gfInv3
  (p, t.1 ^^^ p)

/-! ### Lines -/

/-- A line as stored: its words, their check bits 7:0 (without the fold of R313), quad parities and line code. -/
structure LineImg where
  words : List QWord
  chk : List Nat
  par : Nat
  code : Nat × Nat
  deriving DecidableEq, Repr

/-- The address of the line that holds an address. -/
def lineBase (a : Nat) : Nat := a / 2048 * 2048

/-- Reads a line as stored. -/
def readLine (m : Mem) (compat : Bool) (chBytes a : Nat) : LineImg :=
  let p := linePlace compat chBytes a
  let r := cellBytes m.cells p.2 136
  { words := words128 (cellBytes m.cells p.1 2048)
    chk := (List.range 128).map fun i => u8 r i ^^^ hFold compat (lineBase a + 16 * i)
    par := u32 r 128
    code := (u16 r 132, u16 r 134) }

/-- The decoded words of a line, with the parity errors by quad. -/
def decodeLine (l : LineImg) : List (KKind × MWord) × List Bool :=
  let qs := (List.range 32).map fun q => decodeQuad (slice l.words (4 * q) 4) (slice l.chk (4 * q) 4) (l.par.testBit q)
  (qs.flatMap (·.1), qs.map (·.2))

/-- The check bits 7:0 that a word stores (R310). -/
def chkOf (m : MWord) : Nat := bitsOf (kCheck m.data).toNat 7 0 ^^^ (if m.poison then 0xFF else 0)

/-- Quad parities over words as delivered. -/
def parOf (ws : List MWord) : Nat :=
  ofBits ((List.range 32).filter fun q =>
    ((slice ws (4 * q) 4).foldl (fun a w => a ^^^ bitsOf (kCheck w.data).toNat 8 8) 0) = 1)

/-- The symbols of a line of words with the check bits it stores for them. -/
def lineSyms (ws : List QWord) (chk : List Nat) (par : Nat) : List Nat :=
  symbols (ws.flatMap bytes128 ++ chk.map (BitVec.ofNat 8) ++ leBytes 4 par)

/-- The line that results when words are written: (index, word). Words not written keep what is stored; the parities
and the line code follow the words as R310 delivers them (log 13). -/
def LineImg.write (l : LineImg) (compat : Bool) (base : Nat) (new : List (Nat × MWord)) : LineImg :=
  let d := (decodeLine l).1
  let ws := (List.range 128).map fun i =>
    match Tab.look new i with
    | some m => (m, m.data, chkOf m)
    | none =>
      let e : KKind × MWord := d.getD i (.clean, MWord.zero)
      if e.1 = KKind.corrected then (e.2, e.2.data, chkOf e.2) else (e.2, l.words.getD i 0, l.chk.getD i 0)
  let par := parOf (ws.map (·.1))
  let chk := ws.map (·.2.2)
  let fold := (List.range 128).map fun i => chk.getD i 0 ^^^ hFold compat (base + 16 * i)
  { words := (List.range 128).map fun i => ((Tab.look new i).map (·.data)).getD (l.words.getD i 0)
    chk := (List.range 128).map fun i => ((Tab.look new i).map chkOf).getD (l.chk.getD i 0)
    par := par
    code := if compat then (0, 0) else lineCode (lineSyms (ws.map (·.2.1)) fold par) }

/-- Stores a line: its data, its check record, and the zero bytes that end a native check line (R290). -/
def storeLine (m : Mem) (compat : Bool) (chBytes a : Nat) (l : LineImg) : Mem :=
  let p := linePlace compat chBytes a
  let chk := (List.range 128).map fun i => BitVec.ofNat 8 (l.chk.getD i 0 ^^^ hFold compat (lineBase a + 16 * i))
  let r := chk ++ leBytes 4 l.par ++ leBytes 2 l.code.1 ++ leBytes 2 l.code.2
  let c := if compat then m.cells else cellsWrite m.cells (tailPlace a) (List.replicate 8 0)
  { m with cells := cellsWrite (cellsWrite c p.1 (l.words.flatMap bytes128)) p.2 r }

/-! ### Reads and writes by the device -/

/-- A byte of usable memory as its line stores it, before any correction that a read makes (R290, R313). -/
def State.dataByte (s : State) (a : Nat) : Byte := cellByte s.mem.cells ((linePlace s.compat s.chBytes a).1 + a % 2048)

/-- Queues a line for repair while repair is enabled (R312). -/
def State.queueRepair (s : State) (a : Nat) : State :=
  if s.bit MEM_CTL_REPAIR_EN && !s.mem.repairQueue.contains (lineBase a) then
    s.setMem { s.mem with repairQueue := s.mem.repairQueue ++ [lineBase a] }
  else s

/-- MEM_ERR_REC (R322). -/
def State.memErr (s : State) (kind addr : Nat) : State :=
  s.firstRecord MEM_ERR_REC_VALID
    [(MEM_ERR_REC_KIND, kind), (MEM_ERR_REC_TICK, s.tick), (MEM_ERR_REC_WORD, addr / 16)]

/-- The warning threshold (R322: 0 acts as 1). -/
def State.memWarn (s : State) : Nat := max 1 (s.fld MEM_CTL_WARN)

/-- The initialised bit of the frame of an address. -/
def State.inited (s : State) (a : Nat) : Bool := s.mem.init.contains (a / frameBytes)

/-- The effects of a decoded word at an address (R312, R314, R315). -/
def State.noteLpddr (s : State) (a : Nat) (k : KKind) : State :=
  match k with
  | .clean | .poison => s
  | .corrected => (s.count MEM_CE_COUNT_COUNT 1).flag MEM_STATUS_CE
  | .uncorrectable => (((s.count MEM_UE_COUNT_COUNT 1).flag MEM_STATUS_UE).memErr 0 a).queueRepair a

/-- A word as a read of its quad finds it: an uncorrectable one counts when it is found first (R315, R542; log 248). -/
def State.noteWord (s : State) (a : Nat) (k : KKind) : State :=
  if k = .uncorrectable then
    if s.mem.found.contains (a / 16) then ((s.flag MEM_STATUS_UE).memErr 0 a).queueRepair a
    else (s.noteLpddr a k).setMem { (s.noteLpddr a k).mem with found := insertNat (a / 16) (s.noteLpddr a k).mem.found }
  else s.noteLpddr a k

/-- Words [a / 16, a / 16 + n) are written: none of them has been found uncorrectable. -/
def Mem.forget (m : Mem) (a n : Nat) : Mem := { m with found := m.found.filter fun w => w < a / 16 || a / 16 + n ≤ w }

/-- Reads the words [i, i + n) of the block at a block address. -/
def State.readBlock (s : State) (blk i n : Nat) : State × List MWord :=
  if s.inited blk then
    let p := linePlace s.compat s.chBytes blk
    let off := blk % 2048
    let qs := (List.range 4).filter fun q => 4 * q < i + n && i < 4 * q + 4
    let dec := qs.map fun q =>
      let w := off / 16 + 4 * q
      let ds := words128 (cellBytes s.mem.cells (p.1 + 16 * w) 64)
      let cs := (List.range 4).map fun j =>
        (cellByte s.mem.cells (p.2 + w + j)).toNat ^^^ hFold s.compat (lineBase blk + 16 * (w + j))
      let par := (cellByte s.mem.cells (p.2 + 128 + w / 32)).toNat.testBit (w / 4 % 8)
      (q, decodeQuad ds cs par)
    let step := fun (s : State) (x : Nat × List (KKind × MWord) × Bool) =>
      let s := if x.2.2 then s.noteLpddr (blk + 64 * x.1) .corrected else s
      ((List.range 4).zip x.2.1).foldl (fun s e => s.noteWord (blk + 64 * x.1 + 16 * e.1) e.2.1) s
    let s' := dec.foldl step s
    let fixed := dec.foldl (fun n x => n + (x.2.1.filter fun e => e.1 = .corrected).length + b2n x.2.2) 0
    let s' := if s.memWarn ≤ fixed then s'.queueRepair blk else s'
    let first := (qs.headD 0) * 4
    (s', slice (dec.flatMap fun x => x.2.1.map (·.2)) (i - first) n)
  else ((s.flag MEM_STATUS_UNINIT_READ).memErr 3 (blk + 16 * i), List.replicate n ⟨0, true⟩)

/-- Reads n words from a word address in usable space. -/
def State.memReadGo : Nat → State → Nat → Nat → State × List MWord
  | 0, s, _, _ => (s, [])
  | k + 1, s, a, n =>
    if n = 0 then (s, [])
    else
      let i := a % 256 / 16
      let m := min n (16 - i)
      let r := s.readBlock (a / 256 * 256) i m
      let q := State.memReadGo k r.1 (a + 16 * m) (n - m)
      (q.1, r.2 ++ q.2)

def State.memRead (s : State) (a n : Nat) : State × List MWord := State.memReadGo (n + 1) s (a / 16 * 16) n

/-- Sets the initialised bit of a frame (R316). -/
def Mem.setInit (m : Mem) (a : Nat) : Mem := { m with init := insertNat (a / frameBytes) m.init }

/-- Writes words from a word address in usable space. -/
def State.memWriteGo : Nat → State → Nat → List MWord → State
  | 0, s, _, _ => s
  | k + 1, s, a, ws =>
    if ws.isEmpty then s
    else
      let i := a % 2048 / 16
      let n := min ws.length (128 - i)
      let l := readLine s.mem s.compat s.chBytes a
      let new := ((List.range n).zip ws).map fun e => (i + e.1, e.2)
      let m := storeLine s.mem s.compat s.chBytes a (l.write s.compat (lineBase a) new)
      State.memWriteGo k (s.setMem ((m.setInit a).forget a n)) (a + 16 * n) (ws.drop n)

def State.memWrite (s : State) (a : Nat) (ws : List MWord) : State := State.memWriteGo (ws.length + 1) s (a / 16 * 16) ws

/-- Unmarked words of bytes. -/
def cleanWords (b : Bytes) : List MWord := (words128 b).map fun d => ⟨d, false⟩

/-- The bytes of words. -/
def wordBytes (ws : List MWord) : Bytes := ws.flatMap fun w => bytes128 w.data

/-- Reads bytes [a, a + n), and whether a word of them is marked. -/
def State.memBytes (s : State) (a n : Nat) : State × Bytes × Bool :=
  let first := a / 16 * 16
  let r := s.memRead first ((a + n + 15) / 16 - a / 16)
  (r.1, slice (wordBytes r.2) (a - first) n, r.2.any (·.poison))

/-- Writes bytes at [a, a + n): whole words are stored, a narrow end is a read-modify-write (R318). The data are stored
unmarked (R315). -/
def State.memPut (s : State) (a : Nat) (b : Bytes) : State :=
  if b.isEmpty then s
  else
    let first := a / 16 * 16
    let n := (a + b.length + 15) / 16 - a / 16
    if a % 16 = 0 && b.length % 16 = 0 then s.memWrite first (cleanWords b)
    else
      let r := s.memRead first n
      r.1.memWrite first (cleanWords (patch (wordBytes r.2) (a - first) b))

/-! ### Line repair (R312) and the decoding that scrub shares (R320) -/

/-- The bit position that an s8 names: a data column's or a check bit's (R311). -/
def s8Flip (s8 : Nat) (d : QWord) : Option QWord :=
  if popCount 8 s8 = 1 then some d
  else (colIndex (kCols.map fun c => bitsOf c 7 0) s8 0).map fun i => d ^^^ BitVec.ofNat 128 (1 <<< i)

/-- A line with symbol k changed by the bits x (R311). -/
def LineImg.flipSymbol (l : LineImg) (k x : Nat) : LineImg :=
  if k < 1024 then { l with words := l.words.modify (k / 8) (· ^^^ BitVec.ofNat 128 (x <<< (16 * (k % 8)))) }
  else if k < 1088 then
    let j := 2 * (k - 1024)
    { l with chk := (l.chk.modify j (· ^^^ bitsOf x 7 0)).modify (j + 1) (· ^^^ bitsOf x 15 8) }
  else if k < 1090 then { l with par := l.par ^^^ (x <<< (16 * (k - 1088))) }
  else { l with code := if k = 1090 then (l.code.1 ^^^ x, l.code.2) else (l.code.1, l.code.2 ^^^ x) }

/-- The exponent of a symbol error: α^e = T1 / T0 for e below 1,092. -/
def gfLog : Nat → Nat → Nat → Nat → Option Nat
  | 0, _, _, _ => none
  | n + 1, x, t1, e => if x = t1 then some e else gfLog n (gfDouble x) t1 (e + 1)

/-- No word is uncorrectable. -/
def allDecoded (ws : List (KKind × MWord)) : Bool := ws.all fun e => e.1 != .uncorrectable

/-- A line with its words, check bits and parities as decoded; the quads of a list, and those in which a word is uncorrectable, stay
as stored. -/
def LineImg.decodedBut (l : LineImg) (ws : List (KKind × MWord)) (raw : List Nat) : LineImg :=
  let keep := fun q => raw.contains q || !allDecoded (slice ws (4 * q) 4)
  let words := ws.map (·.2)
  { l with
    words := (List.range 128).map fun i => if keep (i / 4) then l.words.getD i 0 else (words.getD i MWord.zero).data
    chk := (List.range 128).map fun i => if keep (i / 4) then l.chk.getD i 0 else chkOf (words.getD i MWord.zero)
    par := ofBits ((List.range 32).filter fun q => if keep q then l.par.testBit q else (parOf words).testBit q) }

/-- The line code over a native line: the values at its roots. -/
def LineImg.sums (l : LineImg) : Nat × Nat := lineSums (lineSyms l.words l.chk l.par ++ [l.code.1, l.code.2])

/-- The line code over the words as decoded. -/
def decodedSums (l : LineImg) (ws : List (KKind × MWord)) : Nat × Nat := (l.decodedBut ws []).sums

/-- The decode of a line once the one symbol in which the line code's values place an error is changed; none where they place
none, or where a word stays uncorrectable. A word that only the change made good counts as corrected. -/
def symbolFix (l : LineImg) (t : Nat × Nat) : Option (List (KKind × MWord)) :=
  match (if t.1 = 0 then none else gfLog 1092 t.1 t.2 0) with
  | none => none
  | some e =>
    let y := l.flipSymbol (1091 - e) t.1
    let d := (decodeLine y).1
    if allDecoded d && decodedSums y d = (0, 0) then
      some (((decodeLine l).1.zip (d.zip l.words)).map fun (old, new, w) =>
        if new.1 = .clean && (old.1 = .uncorrectable || new.2.data != w) then (.corrected, new.2) else new)
    else none

/-- Two words that R310 left uncorrectable, each one bit away from a code word (R311). -/
def twoFix (l : LineImg) (dec : List (KKind × MWord)) : List (KKind × MWord) :=
  (dec.zip (List.range 128)).map fun (e, i) =>
    if e.1 = .uncorrectable then
      match s8Flip (bitsOf (kCheck (l.words.getD i 0)).toNat 7 0 ^^^ l.chk.getD i 0) (l.words.getD i 0) with
      | some d => (.corrected, ⟨d, false⟩)
      | none => e
    else e

/-- Decodes a line with R310 and R311: the words, those left uncorrectable marked, and whether the line decodes. The symbol in
error is looked for beside the words and parities that R310 corrected; then in each quad that R310 took for good; then in the
line as stored. -/
def repairLine (l : LineImg) (compat : Bool) : List (KKind × MWord) × Bool :=
  let dec := (decodeLine l).1
  if compat then (dec, allDecoded dec)
  else
    let t := decodedSums l dec
    if allDecoded dec && t = (0, 0) then (dec, true)
    else
      let two := twoFix l dec
      if (dec.filter fun e => e.1 = .uncorrectable).length = 2 && allDecoded two && decodedSums l two = (0, 0) then
        (two, true)
      else
        match symbolFix l t <|> (List.range 32).findSome? (fun q => symbolFix l (l.decodedBut dec [q]).sums) <|> symbolFix l l.sums with
        | some d => (d, true)
        | none => (dec, false)

/-- Line repair of the line at a line address (R312). In the compatibility form it rewrites only uncorrectable words, as stored
poison, and leaves a line that decodes alone (R313). -/
def State.repairAt (s : State) (a : Nat) : State :=
  let l := readLine s.mem s.compat s.chBytes a
  let r := repairLine l s.compat
  if s.compat && r.2 then s
  else
    let new := (((List.range 128).zip r.1).filter fun e => !s.compat || e.2.1 == .uncorrectable).map fun e => (e.1, e.2.2)
    let m := (storeLine s.mem s.compat s.chBytes a (l.write s.compat (lineBase a) new)).setInit a
    let s' := s.setMem (m.forget (lineBase a) 128)
    if r.2 then (s'.count MEM_REPAIR_COUNT_COUNT 1).flag MEM_STATUS_REPAIRED
    else (s'.flag MEM_STATUS_REPAIR_FAIL).memErr 1 (lineBase a)

/-- A line with everything that its decode corrected, its line code too where the whole line decodes (R310, R311). -/
def LineImg.corrected (l : LineImg) (compat : Bool) (r : List (KKind × MWord) × Bool) : LineImg :=
  let y := l.decodedBut r.1 []
  if r.2 && !compat then { y with code := lineCode (lineSyms y.words y.chk y.par) } else y

/-- Bits in which two lines differ in word i. -/
def LineImg.wordBits (x y : LineImg) (i : Nat) : Nat :=
  popCount 128 (x.words.getD i 0 ^^^ y.words.getD i 0).toNat + popCount 8 (x.chk.getD i 0 ^^^ y.chk.getD i 0)

/-- Bits in which the line codes of two lines differ. -/
def LineImg.codeBits (x y : LineImg) : Nat := popCount 16 (x.code.1 ^^^ y.code.1) + popCount 16 (x.code.2 ^^^ y.code.2)

end Sys2Proof.Machine
end

