-- ==== Sys2Proof/Machine/BootImage.lean ====
section
/-! DEFINITION. Reading the configuration image (R529 to R531). -/

namespace Sys2Proof.Machine

def cfgDevice : Nat := 1
def cfgKeyCerts : Nat := 2
def cfgRegisters : Nat := 3
def cfgSoundpost : Nat := 4
def cfgCommands : Nat := 5

/-- A section-table entry: type, offset, length. -/
structure CfgSec where
  type : Nat
  off : Nat
  len : Nat
  deriving DecidableEq, Repr

def cfgSecs (b : Bytes) : List CfgSec :=
  (List.range (u32 b 56)).map fun i =>
    { type := u16 b (128 + 16 * i), off := u32 b (132 + 16 * i), len := u32 b (136 + 16 * i) }

/-- The body of a section; empty when the section is absent. -/
def cfgBody (b : Bytes) (type : Nat) : Bytes :=
  match (cfgSecs b).find? fun x => x.type = type with
  | some x => slice b x.off x.len
  | none => []

/-- The DEVICE section of the image in use (R531); empty in the bare configuration. -/
def State.cfgDev (s : State) : Bytes := cfgBody s.boot.config cfgDevice

/-- Usable addresses of the program area. -/
def State.progLo (s : State) : Nat := u32 s.cfgDev 24 * frameBytes
def State.progHi (s : State) : Nat := (u32 s.cfgDev 24 + u32 s.cfgDev 28) * frameBytes

/-- LOAD_PROGRAM can be performed: there is a program area and it lies in usable space. -/
def State.progArea (s : State) : Bool := decide (s.progLo < s.progHi) && decide (s.progHi ≤ s.t3Bytes)

end Sys2Proof.Machine
end

