-- ==== Sys2Proof/Machine/Crypto.lean ====
section
/-! DEFINITION. The cryptography that the spec names by its standard: SHA-512 and SHA-512/256 (FIPS 180-4),
HKDF-SHA-512 (RFC 5869), Ed25519 (RFC 8032), X25519 (RFC 7748), AES-256 with XTS (IEEE 1619) and key wrap (RFC 3394),
CRC-16 and CRC-32 (R213, R229, R506, R509, R515). -/

namespace Sys2Proof.Machine

/-! ### SHA-512 -/

/-- Round constants 0 to 19 of SHA-512 (FIPS 180-4). -/
def shaK0 : List Nat :=
  [0x428A2F98D728AE22, 0x7137449123EF65CD, 0xB5C0FBCFEC4D3B2F, 0xE9B5DBA58189DBBC, 0x3956C25BF348B538,
   0x59F111F1B605D019, 0x923F82A4AF194F9B, 0xAB1C5ED5DA6D8118, 0xD807AA98A3030242, 0x12835B0145706FBE,
   0x243185BE4EE4B28C, 0x550C7DC3D5FFB4E2, 0x72BE5D74F27B896F, 0x80DEB1FE3B1696B1, 0x9BDC06A725C71235,
   0xC19BF174CF692694, 0xE49B69C19EF14AD2, 0xEFBE4786384F25E3, 0x0FC19DC68B8CD5B5, 0x240CA1CC77AC9C65]

/-- Round constants 20 to 39 of SHA-512 (FIPS 180-4). -/
def shaK1 : List Nat :=
  [0x2DE92C6F592B0275, 0x4A7484AA6EA6E483, 0x5CB0A9DCBD41FBD4, 0x76F988DA831153B5, 0x983E5152EE66DFAB,
   0xA831C66D2DB43210, 0xB00327C898FB213F, 0xBF597FC7BEEF0EE4, 0xC6E00BF33DA88FC2, 0xD5A79147930AA725,
   0x06CA6351E003826F, 0x142929670A0E6E70, 0x27B70A8546D22FFC, 0x2E1B21385C26C926, 0x4D2C6DFC5AC42AED,
   0x53380D139D95B3DF, 0x650A73548BAF63DE, 0x766A0ABB3C77B2A8, 0x81C2C92E47EDAEE6, 0x92722C851482353B]

/-- Round constants 40 to 59 of SHA-512 (FIPS 180-4). -/
def shaK2 : List Nat :=
  [0xA2BFE8A14CF10364, 0xA81A664BBC423001, 0xC24B8B70D0F89791, 0xC76C51A30654BE30, 0xD192E819D6EF5218,
   0xD69906245565A910, 0xF40E35855771202A, 0x106AA07032BBD1B8, 0x19A4C116B8D2D0C8, 0x1E376C085141AB53,
   0x2748774CDF8EEB99, 0x34B0BCB5E19B48A8, 0x391C0CB3C5C95A63, 0x4ED8AA4AE3418ACB, 0x5B9CCA4F7763E373,
   0x682E6FF3D6B2B8A3, 0x748F82EE5DEFB2FC, 0x78A5636F43172F60, 0x84C87814A1F0AB72, 0x8CC702081A6439EC]

/-- Round constants 60 to 79 of SHA-512 (FIPS 180-4). -/
def shaK3 : List Nat :=
  [0x90BEFFFA23631E28, 0xA4506CEBDE82BDE9, 0xBEF9A3F7B2C67915, 0xC67178F2E372532B, 0xCA273ECEEA26619C,
   0xD186B8C721C0C207, 0xEADA7DD6CDE0EB1E, 0xF57D4F7FEE6ED178, 0x06F067AA72176FBA, 0x0A637DC5A2C898A6,
   0x113F9804BEF90DAE, 0x1B710B35131C471B, 0x28DB77F523047D84, 0x32CAAB7B40C72493, 0x3C9EBE0A15C9BEBC,
   0x431D67C49C100D4C, 0x4CC5D4BECB3E42B6, 0x597F299CFC657E2A, 0x5FCB6FAB3AD6FAEC, 0x6C44198C4A475817]

/-- Initial hash value of SHA-512. -/
def shaH512 : List Nat :=
  [0x6A09E667F3BCC908, 0xBB67AE8584CAA73B, 0x3C6EF372FE94F82B, 0xA54FF53A5F1D36F1, 0x510E527FADE682D1,
   0x9B05688C2B3E6C1F, 0x1F83D9ABFB41BD6B, 0x5BE0CD19137E2179]

/-- Initial hash value of SHA-512/256. -/
def shaH256 : List Nat :=
  [0x22312194FC2BF72C, 0x9F555FA3C84C64C2, 0x2393B86B6F53B151, 0x963877195940EABD, 0x96283EE2A88EFFE3,
   0xBE5E1E2553863992, 0x2B0199FC2C85B8AA, 0x0EB72DDC81C52CA2]

def shaK : List Nat := shaK0 ++ shaK1 ++ shaK2 ++ shaK3

def m64 (x : Nat) : Nat := x % 2 ^ 64
def rotr64 (x n : Nat) : Nat := (x >>> n ||| x <<< (64 - n)) % 2 ^ 64

/-- The message schedule: the last 16 words, latest first, extended by n words. -/
def shaExpand : Nat → List Nat → List Nat
  | 0, w => w
  | n + 1, w =>
    let a := w.getD 14 0
    let b := w.getD 1 0
    let s0 := rotr64 a 1 ^^^ rotr64 a 8 ^^^ a >>> 7
    let s1 := rotr64 b 19 ^^^ rotr64 b 61 ^^^ b >>> 6
    shaExpand n (m64 (w.getD 15 0 + s0 + w.getD 6 0 + s1) :: w)

/-- One round over the working variables a to h. -/
def shaRound (v : List Nat) (kw : Nat) : List Nat :=
  match v with
  | [a, b, c, d, e, f, g, h] =>
    let s1 := rotr64 e 14 ^^^ rotr64 e 18 ^^^ rotr64 e 41
    let ch := (e &&& f) ^^^ ((2 ^ 64 - 1 - e) &&& g)
    let t1 := h + s1 + ch + kw
    let s0 := rotr64 a 28 ^^^ rotr64 a 34 ^^^ rotr64 a 39
    let mj := (a &&& b) ^^^ (a &&& c) ^^^ (b &&& c)
    [m64 (t1 + s0 + mj), a, b, c, m64 (d + t1), e, f, g]
  | l => l

/-- One block of 128 bytes. -/
def shaBlock (h : List Nat) (b : Bytes) : List Nat :=
  let w := (shaExpand 64 ((List.range 16).map fun i => n64 b (8 * i)).reverse).reverse
  let v := (List.zipWith (· + ·) shaK w).foldl shaRound h
  List.zipWith (fun x y => m64 (x + y)) h v

/-- The padded message. -/
def shaPad (b : Bytes) : Bytes :=
  let n := b.length + 1
  b ++ [0x80] ++ List.replicate ((240 - n % 128) % 128) 0 ++ beBytes 16 (8 * b.length)

def shaWith (iv : List Nat) (b : Bytes) : Bytes :=
  ((chunks 128 (shaPad b)).foldl shaBlock iv).flatMap (beBytes 8)

def sha512 (b : Bytes) : Bytes := shaWith shaH512 b
def sha512_256 (b : Bytes) : Bytes := (shaWith shaH256 b).take 32

def xorBytes (a b : Bytes) : Bytes := List.zipWith (· ^^^ ·) a b

def hmacSha512 (key msg : Bytes) : Bytes :=
  let k := padTo 128 (if 128 < key.length then sha512 key else key)
  sha512 (k.map (· ^^^ 0x5C) ++ sha512 (k.map (· ^^^ 0x36) ++ msg))

def hkdfExtract (salt ikm : Bytes) : Bytes := hmacSha512 salt ikm
/-- HKDF-Expand of at most 64 bytes. -/
def hkdfExpand (prk info : Bytes) (n : Nat) : Bytes := (hmacSha512 prk (info ++ [1])).take n

/-! ### Curve25519 -/

def p25519 : Nat := 2 ^ 255 - 19
/-- Order of the base point. -/
def l25519 : Nat := 2 ^ 252 + 27742317777372353535851937790883648493

/-- a^e modulo p, over the low n bits of e. -/
def powModGo : Nat → Nat → Nat → Nat → Nat → Nat
  | 0, _, _, _, acc => acc
  | n + 1, p, a, e, acc => powModGo n p (a * a % p) (e / 2) (if e % 2 = 1 then acc * a % p else acc)

def powMod (p a e : Nat) : Nat := powModGo 256 p (a % p) e 1
def invP (a : Nat) : Nat := powMod p25519 a (p25519 - 2)
def subP (a b : Nat) : Nat := (a + p25519 - b % p25519) % p25519

/-- d of the twisted Edwards curve. -/
def edD : Nat := (p25519 - 121665) * invP 121666 % p25519
/-- A square root of −1. -/
def sqrtM1 : Nat := powMod p25519 2 ((p25519 - 1) / 4)

/-- A point in extended coordinates X, Y, Z, T. -/
structure EdPoint where
  x : Nat
  y : Nat
  z : Nat
  t : Nat
  deriving DecidableEq, Repr

def edZero : EdPoint := { x := 0, y := 1, z := 1, t := 0 }

def edAdd (p q : EdPoint) : EdPoint :=
  let m := p25519
  let a := subP p.y p.x * subP q.y q.x % m
  let b := (p.y + p.x) * (q.y + q.x) % m
  let c := p.t * 2 * edD % m * q.t % m
  let d := p.z * 2 * q.z % m
  let e := subP b a
  let f := subP d c
  let g := (d + c) % m
  let h := (b + a) % m
  { x := e * f % m, y := g * h % m, z := f * g % m, t := e * h % m }

def edMulGo : Nat → Nat → EdPoint → EdPoint → EdPoint
  | 0, _, _, acc => acc
  | n + 1, k, p, acc => edMulGo n (k / 2) (edAdd p p) (if k % 2 = 1 then edAdd acc p else acc)

def edMul (k : Nat) (p : EdPoint) : EdPoint := edMulGo 260 k p edZero

/-- Decodes a point of 32 bytes (RFC 8032, 5.1.3). -/
def edDecode (b : Bytes) : Option EdPoint :=
  let n := leNat b
  let y := n % 2 ^ 255
  let sign := n / 2 ^ 255 % 2
  if p25519 ≤ y then none
  else
    let m := p25519
    let u := subP (y * y % m) 1
    let v := (edD * (y * y % m) + 1) % m
    let v3 := v * v % m * v % m
    let x := u * v3 % m * powMod m (u * v3 % m * v3 % m * v % m) ((m - 5) / 8) % m
    let vxx := v * x % m * x % m
    let root := if vxx = u then some x else if vxx = subP 0 u then some (x * sqrtM1 % m) else none
    match root with
    | none => none
    | some x =>
      if x = 0 && sign = 1 then none
      else
        let x := if x % 2 = sign then x else subP 0 x
        some { x := x, y := y, z := 1, t := x * y % m }

def edEncode (p : EdPoint) : Bytes :=
  let z := invP p.z
  let x := p.x * z % p25519
  let y := p.y * z % p25519
  leBytes 32 (y + (x % 2) * 2 ^ 255)

/-- The base point. -/
def edBase : EdPoint := (edDecode (leBytes 32 (4 * invP 5 % p25519))).getD edZero

def edSame (p q : EdPoint) : Bool :=
  p.x * q.z % p25519 = q.x * p.z % p25519 && p.y * q.z % p25519 = q.y * p.z % p25519

/-- Verifies a pure Ed25519 signature (R509): the group equation of RFC 8032, multiplied by 8. -/
def edVerify (pub msg sig : Bytes) : Bool :=
  let s := leNat (slice sig 32 32)
  if sig.length != 64 || pub.length != 32 || l25519 ≤ s then false
  else
    match edDecode pub, edDecode (sig.take 32) with
    | some a, some r =>
      let k := leNat (sha512 (sig.take 32 ++ pub ++ msg)) % l25519
      edSame (edMul 8 (edMul s edBase)) (edMul 8 (edAdd r (edMul k a)))
    | some _, none => false
    | none, _ => false

/-- A scalar clamped under RFC 7748 and RFC 8032. -/
def clampScalar (n : Nat) : Nat := n % 2 ^ 254 / 8 * 8 + 2 ^ 254

def edPublic (seed : Bytes) : Bytes := edEncode (edMul (clampScalar (leNat ((sha512 seed).take 32))) edBase)

def edSign (seed msg : Bytes) : Bytes :=
  let h := sha512 seed
  let a := clampScalar (leNat (h.take 32))
  let r := leNat (sha512 (h.drop 32 ++ msg)) % l25519
  let rb := edEncode (edMul r edBase)
  let k := leNat (sha512 (rb ++ edPublic seed ++ msg)) % l25519
  rb ++ leBytes 32 ((r + k * a) % l25519)

/-- The X25519 ladder over bits n − 1 to 0 of the scalar (RFC 7748, 5). -/
def x25519Go : Nat → Nat → Nat → (Nat × Nat) → (Nat × Nat) → Nat
  | 0, _, _, (x2, z2), _ => x2 * invP z2 % p25519
  | n + 1, k, u, p2, p3 =>
    let bit := k.testBit n
    let q := if bit then (p3, p2) else (p2, p3)
    let m := p25519
    let a := (q.1.1 + q.1.2) % m
    let aa := a * a % m
    let b := subP q.1.1 q.1.2
    let bb := b * b % m
    let e := subP aa bb
    let da := subP q.2.1 q.2.2 * a % m
    let cb := (q.2.1 + q.2.2) * b % m
    let x3 := (da + cb) * (da + cb) % m
    let z3 := u * (subP da cb * subP da cb % m) % m
    let n2 := (aa * bb % m, e * (aa + 121665 * e) % m)
    if bit then x25519Go n k u (x3, z3) n2 else x25519Go n k u n2 (x3, z3)

def x25519 (scalar u : Bytes) : Bytes :=
  leBytes 32 (x25519Go 255 (clampScalar (leNat scalar)) (leNat u % 2 ^ 255 % p25519) (1, 0)
    (leNat u % 2 ^ 255 % p25519, 1))

def x25519Base (scalar : Bytes) : Bytes := x25519 scalar (leBytes 32 9)

/-! ### AES-256 -/

def gf8Double (x : Nat) : Nat := if x < 128 then 2 * x else (2 * x) ^^^ 0x11B

def gf8MulGo : Nat → Nat → Nat → Nat → Nat
  | 0, _, _, acc => acc
  | n + 1, a, b, acc => gf8MulGo n (gf8Double a) (b / 2) (if b % 2 = 1 then acc ^^^ a else acc)

def gf8Mul (a b : Nat) : Nat := gf8MulGo 8 a b 0

/-- x^254, the inverse of x. -/
def gf8Inv (x : Nat) : Nat :=
  let x2 := gf8Mul x x
  let x4 := gf8Mul x2 x2
  let x8 := gf8Mul x4 x4
  let x16 := gf8Mul x8 x8
  let x32 := gf8Mul x16 x16
  let x64 := gf8Mul x32 x32
  let x128 := gf8Mul x64 x64
  gf8Mul x128 (gf8Mul x64 (gf8Mul x32 (gf8Mul x16 (gf8Mul x8 (gf8Mul x4 x2)))))

def rotl8 (x n : Nat) : Nat := (x <<< n ||| x >>> (8 - n)) % 256

def aesSbox : List Nat :=
  (List.range 256).map fun x =>
    let b := gf8Inv x
    b ^^^ rotl8 b 1 ^^^ rotl8 b 2 ^^^ rotl8 b 3 ^^^ rotl8 b 4 ^^^ 0x63

def aesInvSbox : List Nat := (List.range 256).map fun x => aesSbox.idxOf x

def subB (b : Byte) : Byte := BitVec.ofNat 8 (aesSbox.getD b.toNat 0)
def invSubB (b : Byte) : Byte := BitVec.ofNat 8 (aesInvSbox.getD b.toNat 0)

/-- The key schedule: words of 4 bytes, latest first, extended by n words from word i. -/
def aesExpand : Nat → Nat → Nat → List Bytes → List Bytes
  | 0, _, _, w => w
  | n + 1, i, rcon, w =>
    let t := w.headD []
    let t' := if i % 8 = 0 then xorBytes ((t.drop 1 ++ t.take 1).map subB) [BitVec.ofNat 8 rcon, 0, 0, 0]
      else if i % 8 = 4 then t.map subB else t
    aesExpand n (i + 1) (if i % 8 = 0 then gf8Double rcon else rcon) (xorBytes (w.getD 7 []) t' :: w)

/-- The 15 round keys of 16 bytes. -/
def aesKeys (key : Bytes) : List Bytes := chunks 16 (aesExpand 52 8 1 (chunks 4 key).reverse).reverse.flatten

/-- Shifts the rows of a state held column by column. -/
def shiftRows (s : Bytes) : Bytes := (List.range 16).map fun i => s.getD ((i + 4 * (i % 4)) % 16) 0
def invShiftRows (s : Bytes) : Bytes := (List.range 16).map fun i => s.getD ((i + 16 - 4 * (i % 4)) % 16) 0

def mixWith (c : List Nat) (s : Bytes) : Bytes :=
  (List.range 16).map fun i =>
    BitVec.ofNat 8 ((List.range 4).foldl (fun a k =>
      a ^^^ gf8Mul (s.getD (i / 4 * 4 + k) 0).toNat (c.getD ((k + 4 - i % 4) % 4) 0)) 0)

def mixColumns (s : Bytes) : Bytes := mixWith [2, 3, 1, 1] s
def invMixColumns (s : Bytes) : Bytes := mixWith [14, 11, 13, 9] s

def aesEncrypt (key blk : Bytes) : Bytes :=
  let ks := aesKeys key
  let s := (List.range 13).foldl (fun s i =>
    xorBytes (mixColumns (shiftRows (s.map subB))) (ks.getD (i + 1) [])) (xorBytes blk (ks.getD 0 []))
  xorBytes (shiftRows (s.map subB)) (ks.getD 14 [])

def aesDecrypt (key blk : Bytes) : Bytes :=
  let ks := aesKeys key
  let s := (List.range 13).foldl (fun s i =>
    invMixColumns (xorBytes ((invShiftRows s).map invSubB) (ks.getD (13 - i) []))) (xorBytes blk (ks.getD 14 []))
  xorBytes ((invShiftRows s).map invSubB) (ks.getD 0 [])

/-- The next tweak of XTS. -/
def xtsNext (t : Nat) : Nat := let d := 2 * t; if d < 2 ^ 128 then d else (d - 2 ^ 128) ^^^ 0x87

/-- Decrypts a data unit of whole blocks under XTS-AES-256 (R258). -/
def xtsDecrypt (key : Bytes) (unit : Nat) (data : Bytes) : Bytes :=
  let t0 := leNat (aesEncrypt (slice key 32 32) (leBytes 16 unit))
  ((chunks 16 data).foldl (fun (p : Bytes × Nat) c =>
    let t := leBytes 16 p.2
    (p.1 ++ xorBytes (aesDecrypt (key.take 32) (xorBytes c t)) t, xtsNext p.2)) ([], t0)).1

/-- One step of the key unwrap: A, the registers, and the step counter t. -/
def kwStep (kek : Bytes) (a : Bytes) (r : List Bytes) (i t : Nat) : Bytes × List Bytes :=
  let b := aesDecrypt kek (xorBytes a (beBytes 8 t) ++ r.getD i [])
  (b.take 8, r.set i (b.drop 8))

/-- AES key unwrap of RFC 3394; none where the check fails. -/
def kwUnwrap (kek wrapped : Bytes) : Option Bytes :=
  let r := chunks 8 (wrapped.drop 8)
  let n := r.length
  let steps := (List.range 6).reverse.flatMap fun j => (List.range n).reverse.map fun i => (i, n * j + i + 1)
  let x := steps.foldl (fun (p : Bytes × List Bytes) st => kwStep kek p.1 p.2 st.1 st.2) (wrapped.take 8, r)
  if x.1 = List.replicate 8 0xA6 then some x.2.flatten else none

/-! ### CRCs -/

/-- CRC-16: polynomial 0x1021, initial value 0xFFFF, no reflection, no final XOR. -/
def crc16Bit : Nat → Nat → Nat
  | 0, c => c
  | n + 1, c => crc16Bit n (if c < 0x8000 then 2 * c else (2 * c - 0x10000) ^^^ 0x1021)

def crc16 (b : Bytes) : Nat := b.foldl (fun c x => crc16Bit 8 (c ^^^ x.toNat <<< 8)) 0xFFFF

def crc32Bit : Nat → Nat → Nat
  | 0, c => c
  | n + 1, c => crc32Bit n (if c % 2 = 0 then c / 2 else (c / 2) ^^^ 0xEDB88320)

/-- CRC-32 of IEEE 802.3. -/
def crc32 (b : Bytes) : Nat := (b.foldl (fun c x => crc32Bit 8 (c ^^^ x.toNat)) 0xFFFFFFFF) ^^^ 0xFFFFFFFF

/-- CRC-8 of SMBus: polynomial x^8 + x^2 + x + 1. -/
def crc8Bit : Nat → Nat → Nat
  | 0, c => c
  | n + 1, c => crc8Bit n (if c < 0x80 then 2 * c else (2 * c - 0x100) ^^^ 0x07)

def crc8 (b : Bytes) : Nat := b.foldl (fun c x => crc8Bit 8 (c ^^^ x.toNat)) 0

end Sys2Proof.Machine
end

