-- ==== Sys2Proof/Machine/Access.lean ====
section
/-! DEFINITION. What a host write does to a register under the access codes (R10 to R12, R551), and when a host write
reaches its register at all (R383, R495, R534, R537). -/

namespace Sys2Proof.Machine

/-- The bits of a field in its register. -/
def Fld.mask (f : Fld) : Nat := (2 ^ (f.hi + 1 - f.lo) - 1) <<< f.lo

/-- The bits of a register whose fields have an access code that meets a test. -/
def Reg.maskOf (r : Reg) (p : Acc → Bool) : Nat := r.fields.foldl (fun m f => if p f.acc then m ||| f.mask else m) 0

/-- A register of the common counter layout: SAT in bit 63, COUNT in bits 47:0. -/
def Reg.isCounter (r : Reg) : Bool :=
  r.width == 64 && r.fields.any (fun f => f.hi == 63 && f.lo == 63 && f.acc == .rw1c) &&
    r.fields.any fun f => f.hi == 47 && f.lo == 0

/-- The bits of x outside a mask. -/
def without (x mask : Nat) : Nat := x ^^^ (x &&& mask)

/-- The value after a host write of the bits of `mask`: RW fields take the value, RW1C bits clear where 1 is written, and
1 in a counter's SAT zeroes the counter. -/
def Reg.written (r : Reg) (old v mask : Nat) : Nat :=
  let rw := r.maskOf (· == .rw) &&& mask
  let c := r.maskOf (· == .rw1c) &&& mask
  if r.isCounter && (v &&& mask).testBit 63 then 0
  else without (without old rw ||| (v &&& rw)) (v &&& c)

/-! ### Which accesses are answered -/

/-- The BAR0 block of an offset: the ID block is 0, the doorbell pages are of block 1. -/
def blockOf (off : Nat) : Nat := if off < 0x1000 then 0 else if off < 0x100000 then 1 else off / 0x100000

/-- A BAR access is taken: the link is up (R534), the function is not in D3hot (R383), and a power-on start has released
(R534). -/
def State.delivered (s : State) : Bool :=
  s.pcieUp && !s.hif.d3hot && s.dev != stOff && s.dev != stFuseLoad && !(s.dev == stConfigLoad && s.fld ID_RESET_KIND == 0)

/-- An offset of configuration space (R381; its place beside BAR0 is log 228). -/
def cfgSpace (off : Nat) : Bool := decide (0x8000000 ≤ off)

/-- Configuration space is answered: from 1 ms after release on, also in D3hot and in sleep (R495, R534); a device reset keeps
it (R537). -/
def State.cfgShows (s : State) : Bool :=
  s.pcieUp && s.dev != stOff && s.dev != stFuseLoad &&
    (s.fld ID_RESET_KIND != 0 || s.boot.releasedAt.any fun t => decide (t + 1000000 ≤ s.now))

/-- The offset's block is not hidden by sleep (R495) or by a device reset (R537). -/
def State.shows (s : State) (off : Nat) : Bool :=
  if s.asleep then blockOf off == 9
  else if s.dev == stConfigLoad then blockOf off == 0 || blockOf off == 9 || blockOf off == 11
  else true

/-- The offset's block takes writes: before READY only ID, PWR, SPP and SEC do (R534; DEDUCED, log 26), and DBG, where every
write is an access error (R558). -/
def State.takes (s : State) (off : Nat) : Bool :=
  s.dev != stReleased || blockOf off == 0 || blockOf off == 9 || blockOf off == 10 || blockOf off == 11 || blockOf off == 14

/-- A configuration request before configuration space is answered completes with retry status (R534). -/
def State.cfgRetry (s : State) : State := s.whenB s.pcieUp fun s => s.emit (.refused 2)

/-- A host write to a BAR0 offset, with its effect where the block takes it; a write of HIF_RING_CFG or a page read of the
weight store before READY is refused by the ring logic or the NVS controller itself (R389, R250). -/
def State.hostWrite (s : State) (off : Nat) (f : State → State) : State :=
  if !s.delivered then s.unsupported false
  else if !s.shows off then s.accessError (sourceOf off) 0 off true false
  else if s.takes off || off == HIF_RING_CFG.off || off == NVS_PAGE_CTL.off then f s
  else s

/-- A command that is a host write to a BAR0 offset. -/
def hostAct (off : Nat) (s : State) (f : State → State) : Host.Outcome State Fault Refusal :=
  act s fun s => s.hostWrite off f

end Sys2Proof.Machine
end

