-- ==== Sys2Proof/Machine/Image.lean ====
section
/-! DEFINITION. Reading a tick-program image (R131 to R136, R153, R154, R156, R157, R164, R167, R172, R177, R200, R293,
R363): sections, commands and descriptors as the bytes give them, and where the cluster stores hold the copies that the
tile sequencers fetch (R133, R135). -/

namespace Sys2Proof.Machine

/-! ### Header and sections (R131, R132) -/

def imgClass (b : Bytes) : Nat := u8 b 6
def imgCode (b : Bytes) : Nat := u8 b 7
def imgEnvs (b : Bytes) : Nat := u8 b 8
def imgBarriers (b : Bytes) : Nat := u8 b 10
def imgPmin (b : Bytes) : Nat := u32 b 12
/-- W of an envelope: 0 E30, 1 E50, 2 E75. -/
def imgW (b : Bytes) (env : Nat) : Nat := u32 b (16 + 4 * env)
def imgHistBytes (b : Bytes) : Nat := u32 b 28
def imgSections (b : Bytes) : Nat := u32 b 32
def imgBytes (b : Bytes) : Nat := u32 b 36
/-- A schedule for the envelope is present. -/
def imgHasEnv (b : Bytes) (env : Nat) : Bool := (imgEnvs b).testBit env
/-- The envelopes that the image schedules. -/
def imgEnvList (b : Bytes) : List Nat := (List.range 3).filter (imgHasEnv b)

/-- A section-table entry. -/
structure Sec where
  type : Nat
  env : Nat
  tile : Nat
  off : Nat
  len : Nat
  count : Nat
  deriving DecidableEq, Repr

def secAll : Nat := 0xFF

def imgSecs (b : Bytes) : List Sec :=
  (List.range (imgSections b)).map fun i =>
    let o := 128 + 16 * i
    { type := u16 b o, env := u8 b (o + 2), tile := u8 b (o + 3), off := u32 b (o + 4), len := u32 b (o + 8),
      count := u32 b (o + 12) }

/-- A section's body; empty when the section is absent. -/
def imgBody (b : Bytes) (type env tile : Nat) : Bytes :=
  match (imgSecs b).find? fun s => s.type = type && s.env = env && s.tile = tile with
  | some s => slice b s.off s.len
  | none => []

def tyTileMap : Nat := 1
def tyCommands : Nat := 2
def tyDescriptors : Nat := 3
def tySlotTable : Nat := 4
def tyBarrierPlan : Nat := 5
def tyLpddrSlots : Nat := 6
def tySlabReads : Nat := 7
def tyRangeTable : Nat := 8
def tyTrees : Nat := 9
def tyInitData : Nat := 10
def tySnapshotMap : Nat := 11
def tyCfg : Nat := 12
def tyCsReserve : Nat := 13

/-- The logical tiles used, as a mask and in ascending order. -/
def imgTileMask (b : Bytes) : Nat := u64 (imgBody b tyTileMap secAll secAll) 0
def imgTiles (b : Bytes) : List Nat := bitList 64 (imgTileMask b)

/-- Staging size code and first word of INIT_DATA of a tile. -/
def imgStage (b : Bytes) (t : Nat) : Nat := u16 (imgBody b tyCfg secAll t) 0
def imgInitWord (b : Bytes) (t : Nat) : Nat := u16 (imgBody b tyCfg secAll t) 2
def imgInit (b : Bytes) (t : Nat) : Bytes := imgBody b tyInitData secAll t

/-- A tile's stream in a schedule: commands of 32 bytes. -/
def imgCmds (b : Bytes) (env t : Nat) : List Bytes := chunks 32 (imgBody b tyCommands env t)
def imgDescs (b : Bytes) (env t : Nat) : List Bytes := chunks 32 (imgBody b tyDescriptors env t)

/-- Entries of 16 bytes of a section. -/
def imgEntries (b : Bytes) (type env tile : Nat) : List Bytes := chunks 16 (imgBody b type env tile)

/-! ### Staging buffer (R86) -/

def halfWords (stage : Nat) : Nat := if stage = 1 then 4096 else if stage = 2 then 8192 else if stage = 3 then 16384 else 0
/-- First word of H0; 65,536 when there is no buffer. -/
def stageBase (stage : Nat) : Nat := 65536 - 2 * halfWords stage
def halfBase (stage half : Nat) : Nat := stageBase stage + half * halfWords stage

/-! ### Range table (R118, R154) -/

/-- A range-table entry. -/
structure RangeDecl where
  channel : Bool
  float : Bool
  int16 : Bool
  n : Nat
  t : Nat
  window : Nat
  tiles : Nat
  network : Nat
  channels : Nat
  deriving DecidableEq, Repr

def rangeDecl (e : Bytes) : RangeDecl :=
  { channel := u8 e 0 = 1, float := u8 e 1 = 1, int16 := u8 e 2 = 1, n := if u8 e 3 = 0 then 4 else u8 e 3,
    t := u32 e 4, window := u32 e 8, tiles := u8 e 12, network := u8 e 13, channels := u16 e 14 }

def imgRanges (b : Bytes) : List RangeDecl := (imgEntries b tyRangeTable secAll secAll).map rangeDecl

/-- Range units of a declaration. -/
def RangeDecl.units (r : RangeDecl) : Nat := if r.channel then r.channels else 1

/-- Index in the history record of the first unit of range-table entry i (R120). -/
def rangeFirst (l : List RangeDecl) (i : Nat) : Nat := (l.take i).foldl (fun a r => a + r.units) 0

/-! ### Snapshot map (R363) -/

def snapSnap (e : Bytes) : Nat := u8 e 0
def snapKind (e : Bytes) : Nat := u8 e 1
def snapSource (e : Bytes) : Nat := u8 e 2
def snapFlags (e : Bytes) : Nat := u8 e 3
def kindCamera : Nat := 0x01
def kindSubmit : Nat := 0x02
def kindTensorIn : Nat := 0x03
def kindEvents : Nat := 0x11
def kindOverlay : Nat := 0x12
def kindTensorOut : Nat := 0x13
def kindPayload : Nat := 0x14
def kindIsInput (k : Nat) : Bool := k = 1 || k = 2 || k = 3
def kindIsOutput (k : Nat) : Bool := k = 0x11 || k = 0x12 || k = 0x13 || k = 0x14

/-- Channels of a camera entry. -/
def camChannels (e : Bytes) : Nat := if snapFlags e % 4 = 1 then 1 else 3
/-- Size of a buffer: BYTES, or that of the camera layout (R364). -/
def snapBytes (e : Bytes) : Nat :=
  if snapKind e = kindCamera then 64 + 16 * camChannels e * ((u16 e 4 * u16 e 6 + 15) / 16) else u32 e 4

def imgSnaps (b : Bytes) : List Bytes := imgEntries b tySnapshotMap secAll secAll
def imgSnap (b : Bytes) (snap : Nat) : Option Bytes := (imgSnaps b).find? fun e => snapSnap e = snap

/-! ### Cluster-store places (R135) -/

/-- The declared segments of a cluster. -/
def imgSegments (b : Bytes) (cluster : Nat) : Nat :=
  match (imgEntries b tyCsReserve secAll secAll).find? fun e => u8 e 0 = cluster with
  | some e => u64 e 8
  | none => 0

/-- The byte of a cluster store at an offset of the packing space of the declared segments. -/
def packByte (segments off : Nat) : Nat := (bitList 64 segments).getD (off / 65536) 64 * 65536 + off % 65536

/-- The copies of a cluster in packing order: tile, envelope, section type, length. -/
def packList (b : Bytes) (cluster : Nat) : List (Nat × Nat × Nat × Nat) :=
  ((imgTiles b).filter fun t => t / 8 = cluster).flatMap fun t =>
    (imgEnvList b).flatMap fun e =>
      [tyCommands, tyDescriptors].map fun ty => (t, e, ty, (imgBody b ty e t).length)

/-- Offset of a copy in the packing space, each copy on a 16-byte boundary. -/
def packFind : List (Nat × Nat × Nat × Nat) → Nat → Nat → Nat → Nat → Nat
  | [], _, _, _, a => a
  | (t', e', ty', n) :: r, t, e, ty, a =>
    if t = t' && e = e' && ty = ty' then a else packFind r t e ty ((a + n + 15) / 16 * 16)

def packOffset (b : Bytes) (t e ty : Nat) : Nat := packFind (packList b (t / 8)) t e ty 0

/-- Size of the packed copies of a cluster. -/
def packSize (b : Bytes) (cluster : Nat) : Nat :=
  (packList b cluster).foldl (fun a x => (a + 15) / 16 * 16 + x.2.2.2) 0

/-- Words that the packed copies of a cluster take, as (cluster-store word, data). -/
def packWords (b : Bytes) (cluster : Nat) : List (Nat × QWord) :=
  (packList b cluster).flatMap fun (t, e, ty, _) =>
    let off := packOffset b t e ty
    let ws := words128 (imgBody b ty e t)
    ((List.range ws.length).zip ws).map fun (i, w) => (packByte (imgSegments b cluster) (off + 16 * i) / 16, w)

/-! ### Commands -/

def cmdOp (c : Bytes) : Nat := u8 c 0
def cmdIssue (c : Bytes) : Nat := u32 c 4
def cmdDesc (c : Bytes) : Nat := u16 c 2 % 4096
def cmdDone (c : Bytes) : Nat := u32 c 8

def opNop : Nat := 0x00
def opLka : Nat := 0x01
def opVec : Nat := 0x03
def opFtab : Nat := 0x04
def opXfer : Nat := 0x05
def opGather : Nat := 0x06
def opSlabFill : Nat := 0x07
def opHand : Nat := 0x08
def opStage : Nat := 0x09
def opBar : Nat := 0x0A
def opSem : Nat := 0x0B
def opEvt : Nat := 0x0C
def opRange : Nat := 0x0D
def opEnd : Nat := 0x0E

/-- Fields of a transfer descriptor (R157). -/
def xfOut (d : Bytes) : Bool := (u8 d 1).testBit 0
def xfCode (d : Bytes) : Bool := (u8 d 1).testBit 1
def xfSlot (d : Bytes) : Nat := bitsOf (u8 d 1) 5 2
def xfLocal (d : Bytes) : Nat := u16 d 2
def xfRemote (d : Bytes) : Nat := leNat (slice d 4 5)
def xfRow (d : Bytes) : Nat := u32 d 12
/-- Remote addresses of the rows, dimension 2 outer. -/
def xfRows (d : Bytes) : List Nat :=
  (List.range (u16 d 18)).flatMap fun r2 => (List.range (u16 d 16)).map fun r1 =>
    xfRemote d + r1 * u32 d 20 + r2 * u32 d 24
def xfBytes (d : Bytes) : Nat := u16 d 16 * u16 d 18 * xfRow d

/-- Addresses of LPDDR and of the pool window (R158, R285). -/
def isLpddr (a : Nat) : Bool := decide (a < 0x1000000000)
def poolWindow : Nat := 0xF00000000

/-- XFER descriptors of every schedule that set CODE. -/
def imgCoded (b : Bytes) : List Bytes :=
  (imgEnvList b).flatMap fun e => (imgTiles b).flatMap fun t =>
    let ds := imgDescs b e t
    (imgCmds b e t).filterMap fun c =>
      let d := ds.getD (cmdDesc c) []
      if cmdOp c = opXfer && xfCode d then some d else none

/-- B_slab of a code and envelope (R87). -/
def bSlab (code env : Nat) : Nat := if code = 1 then (if env = 0 then 32 else if env = 1 then 20 else 16) else 32
/-- L_fill of an envelope (R168). -/
def lFill (env : Nat) : Nat := if env = 0 then 240 else if env = 1 then 384 else 480
/-- Cycles of an LPDDR slot (R292). -/
def slotCycles (env : Nat) : Nat := if env = 0 then 10 else if env = 1 then 16 else 20
/-- Arithmetic clock in MHz of an envelope (R8). -/
def envMHz (env : Nat) : Nat := if env = 0 then 1000 else if env = 1 then 1600 else 2000

/-- Issue span of an LKA command (R138, R142): to the cycle at which its last bank is free. -/
def lkaSpan (c : Bytes) (bslab : Nat) : Nat :=
  let steps := u16 c 8 * u16 c 12 * (u16 c 10 % 4096 * 64)
  if (u8 c 1).testBit 1 then 16 + 64 * (steps - 1) / bslab + 56 else 16 + (steps - 1) + 56

/-- Issue span of a VEC command (R150). -/
def vecSpan (c : Bytes) : Nat :=
  let sub := u8 c 1
  let count := u32 c 16
  if sub = 8 || sub = 9 then count / u32 c 20 * (ceilDiv (u32 c 20) 64 + 12)
  else if sub = 7 then ceilDiv count 64 + 12
  else ceilDiv count 64 + 8

end Sys2Proof.Machine
end

