-- ==== Sys2Proof/Machine/NvPage.lean ====
section
/-! DEFINITION. The weight store page by page: geometry, block table, the raw page with its codes and tag, the fast path,
repair rounds and what every page read counts and reports (R208 to R221, R233 to R242, R244 to R247). -/

namespace Sys2Proof.Machine

/-! ### Geometry (R208 to R210) -/

/-- Planes per slab. -/
def State.np (s : State) : Nat := s.boot.fuses.dies

/-- Pages and bytes of a slab. -/
def State.slabPages (s : State) : Nat := s.np * 256 * 128
def State.stripeBytes (s : State) : Nat := s.np * 128 * 4096

/-- Block key of a physical block: (slab × 4 + plane) × 512 + block. -/
def blockKey (slab plane phys : Nat) : Nat := (slab * 4 + plane) * 512 + phys
def keySlab (k : Nat) : Nat := k / 2048
def keyPlane (k : Nat) : Nat := k / 512 % 4
def keyPhys (k : Nat) : Nat := k % 512
/-- Bank of the plane, 0 to 3, that holds a physical block. -/
def keyBank (k : Nat) : Nat := keyPhys k / 66
/-- Plane key: slab × 4 + plane. -/
def keySp (k : Nat) : Nat := k / 512

/-- Page key of a page of a physical block; the first part of an entry of Senses. -/
def pageKey (bk pg : Nat) : Nat := bk * 128 + pg

/-- Place of a slab page: slab, plane, logical block, page within the block (R209). -/
structure PagePlace where
  slab : Nat
  plane : Nat
  lblock : Nat
  pg : Nat
  deriving DecidableEq, Repr

def State.place (s : State) (slab page : Nat) : PagePlace :=
  { slab := slab, plane := page % s.np, lblock := page / s.np / 128, pg := page / s.np % 128 }

/-- Bank of a slab that holds a place (R209). -/
def State.bankOf (s : State) (p : PagePlace) : Nat := s.np * (p.lblock / 64) + p.plane

/-! ### Block table (R233, R236, R237) -/

/-- The block of a bank, of those that ship mapped, that is factory bad. -/
def badOfBank (bad : List Nat) (k : Nat) : Option Nat :=
  bad.find? fun b => keySp b = keySp k && keyBank b = keyBank k && keyPhys b % 66 < 64

/-- A block as it ships: the logical block of a factory-bad one is mapped to block 64 of its bank (R237). -/
def shippedBlock (bad : List Nat) (k : Nat) : Block :=
  let i := keyPhys k % 66
  let good : Block := { state := 0, xo := false, erased := true, logical := 0, erases := 0, born := none, senses := 0 }
  if bad.contains k then { good with state := 2, erased := false }
  else if i < 64 then { good with state := 1, logical := 64 * keyBank k + i }
  else if i = 64 then (badOfBank bad k).elim good fun b => { good with state := 1, logical := 64 * keyBank k + keyPhys b % 66 }
  else good

def State.block (s : State) (k : Nat) : Block := Tab.lookD s.nv.blocks k (shippedBlock s.nv.factoryBad k)
def State.setBlock (s : State) (k : Nat) (b : Block) : State := s.setNv { s.nv with blocks := Tab.put s.nv.blocks k b }
def State.modBlock (s : State) (k : Nat) (f : Block → Block) : State := s.setBlock k (f (s.block k))

/-- Block keys of a bank of a plane. -/
def bankKeys (slab plane bank : Nat) : List Nat := (List.range 66).map fun i => blockKey slab plane (66 * bank + i)

/-- The good physical block to which a logical block is mapped. -/
def State.mapped (s : State) (slab plane lblock : Nat) : Option Nat :=
  (bankKeys slab plane (lblock / 64)).find? fun k => (s.block k).state = 1 && (s.block k).logical = lblock

/-- Free good blocks of a bank. -/
def State.freeBlocks (s : State) (slab plane bank : Nat) : List Nat :=
  (bankKeys slab plane bank).filter fun k => (s.block k).state = 0

/-- Free good blocks of a bank but the one that a refresh holds. -/
def State.spares (s : State) (slab plane bank : Nat) : List Nat :=
  (s.freeBlocks slab plane bank).filter fun k => s.nv.refresh.all fun r => r.spare != k

/-- The spare that R238 takes: fewest erases, then the lower number. -/
def State.spare (s : State) (slab plane bank : Nat) : Option Nat :=
  (s.spares slab plane bank).foldl
    (fun (o : Option Nat) k =>
      match o with
      | none => some k
      | some b => if (s.block k).erases < (s.block b).erases then some k else some b) none

/-- Age of a block in millionths of a weighted second (R240). -/
def State.blockAge (s : State) (k : Nat) : Nat :=
  match (s.block k).born with
  | none => 0
  | some b => Tab.lookD s.nv.clocks (keySp k) 0 - b

/-- A weighted day in millionths of a weighted second. -/
def dayUnits : Nat := 86400 * 1000000
def State.ageDays (s : State) (k : Nat) : Nat := s.blockAge k / dayUnits

/-- Sets SPARE_LOW when a bank's free good blocks have reached zero (R238). -/
def State.noteSpare (s : State) (k : Nat) : State :=
  if (s.freeBlocks (keySlab k) (keyPlane k) (keyBank k)).isEmpty then s.flag NVS_STATUS_SPARE_LOW else s

/-- Block entries as a table version saves them: from step 4 of R243 on, with the logical block of a refresh on its spare. -/
def State.savedBlocks (s : State) : Tab Block :=
  match s.nv.refresh with
  | none => s.nv.blocks
  | some r =>
    if r.mapped then
      let old := s.block r.block
      Tab.put (Tab.put s.nv.blocks r.block { old with state := 0, erased := false, logical := 0 }) r.spare
        { s.block r.spare with state := 1, logical := r.logical, xo := old.xo }
    else s.nv.blocks

/-- Writes a version of a slab's table to both copies (R233). -/
def State.tableWrite (s : State) (slab : Nat) : State :=
  let v : TableVersion :=
    { seq := s.nv.tableSeq + 1, journal := s.nv.journalSeq, valid := true,
      blocks := Tab.keep s.savedBlocks fun k => keySlab k = slab,
      clocks := (List.range 4).map fun p => Tab.lookD s.nv.clocks (slab * 4 + p) 0 }
  s.setNv { s.nv with tableSeq := s.nv.tableSeq + 1, tablesA := Tab.put s.nv.tablesA slab v,
                      tablesB := Tab.put s.nv.tablesB slab v }

/-- NVS_ERR_REC (R249). -/
def State.nvsErr (s : State) (kind bk pg : Nat) : State :=
  s.firstRecord NVS_ERR_REC_VALID
    [(NVS_ERR_REC_KIND, kind), (NVS_ERR_REC_SLAB, keySlab bk), (NVS_ERR_REC_PLANE, keyPlane bk),
      (NVS_ERR_REC_BLOCK, keyPhys bk), (NVS_ERR_REC_PAGE, pg), (NVS_ERR_REC_TICK, s.tick)]

/-! ### Refresh queue (R242) -/

/-- Queues a block for refresh; a block whose refresh is in progress is not queued again (log 115). -/
def State.queueRefresh (s : State) (bk cause : Nat) : State :=
  s.whenB (!s.nv.refresh.any fun r => r.block = bk) fun s =>
    match s.nv.refreshQueue.find? fun r => r.block = bk with
    | some r =>
      if r.cause ≤ cause then s
      else s.setNv { s.nv with refreshQueue := s.nv.refreshQueue.map fun r =>
                                 if r.block = bk then { r with cause := cause } else r }
    | none => s.setNv { s.nv with refreshQueue := s.nv.refreshQueue ++ [{ block := bk, cause := cause }] }

/-- Age and sense limits (R242). -/
def State.ageLimit (s : State) : Nat := max 1 (s.fld NVS_REFRESH_CFG_AGE_DAYS)
def State.senseLimit (s : State) : Nat := max 1 (s.fld NVS_REFRESH_CFG_READ_LIMIT) * 2 ^ 17

/-- Queues a block whose age or senses exceed their limit. -/
def State.queueLimits (s : State) (bk : Nat) : State :=
  let b := s.block bk
  let s := s.whenB (b.born.isSome && s.bit NVS_CTL_AGE_REFRESH_EN && decide (s.ageLimit * dayUnits < s.blockAge bk))
    fun s => s.queueRefresh bk 3
  s.whenB (s.bit NVS_CTL_READ_REFRESH_EN && decide (s.senseLimit < b.senses)) fun s => s.queueRefresh bk 4

/-- Counts n senses of a block (R240, R242). -/
def State.sense (s : State) (bk n : Nat) : State :=
  (s.modBlock bk fun b => { b with senses := b.senses + n }).queueLimits bk

def State.nvsWarn (s : State) : Nat := max 1 (s.fld NVS_CTL_WARN)

/-! ### The raw page (R212 to R214) -/

/-- A page as sensed: words with check bits, the tag, and how many bits were read wrongly. -/
structure RawPage where
  words : List QWord
  chks : List (BitVec 9)
  tag : Bytes
  deriving DecidableEq, Repr

def allOnes : QWord := BitVec.allOnes 128

/-- What is stored in a page; a page that is not listed is blank. -/
def rawOf (p : Option Page) : RawPage :=
  match p with
  | none => { words := List.replicate 256 allOnes, chks := List.replicate 256 0x1FF, tag := List.replicate 32 0xFF }
  | some p => { words := p.words, chks := p.words.map kCheck, tag := p.tag }

/-- One bit read wrongly: data, check bits, tag; the outer code's own bits change nothing else. -/
def RawPage.flip (r : RawPage) (b : Nat) : RawPage :=
  if b < 32768 then { r with words := modAt r.words (b / 128) fun w => w ^^^ BitVec.ofNat 128 (2 ^ (b % 128)) }
  else if b < 35072 then
    { r with chks := modAt r.chks ((b - 32768) / 9) fun c => c ^^^ BitVec.ofNat 9 (2 ^ ((b - 32768) % 9)) }
  else if b < 35328 then
    { r with tag := modAt r.tag ((b - 35072) / 8) fun x => x ^^^ BitVec.ofNat 8 (2 ^ ((b - 35072) % 8)) }
  else r

def tagKind (t : Bytes) : Nat := u8 t 0

/-- A page tag (R213). -/
def makeTag (kind : Nat) (p : PagePlace) (writeSeq image : Nat) : Bytes :=
  let b := leBytes 1 kind ++ leBytes 1 p.pg ++ leBytes 2 p.lblock ++ leBytes 1 p.plane ++ leBytes 1 p.slab ++ [0, 0] ++
    leBytes 8 writeSeq ++ leBytes 8 image ++ leBytes 6 0
  b ++ leBytes 2 (crc16 b)

/-- A tag passes at a place (R214). -/
def tagPasses (t : Bytes) (p : PagePlace) : Bool :=
  u16 t 30 = crc16 (t.take 30) && u8 t 1 = p.pg && u16 t 2 = p.lblock && u8 t 4 = p.plane && u8 t 5 = p.slab

def tagBlank (t : Bytes) : Bool := t.all (· == 0xFF)

/-- What a sense delivers. -/
structure PageSense where
  /-- Words after their word codes. -/
  words : List QWord
  tag : Bytes
  bits : Nat
  /-- The words that stay uncorrectable. -/
  ues : List Nat
  bad : Bool
  tagOk : Bool
  blank : Bool
  deriving DecidableEq, Repr

/-- A bit read wrongly lies in word i or its check bits. -/
def touchesWord (i b : Nat) : Bool := (b < 32768 && b / 128 = i) || (32768 ≤ b && b < 35072 && (b - 32768) / 9 = i)

/-- Decodes the word codes and checks the tag (R214, R216); a word whose bits were all read rightly is clean. A page with a
blank tag holds no code words, and its codes correct nothing (DEDUCED; log 27). -/
def decodePage (p : Option Page) (place : PagePlace) (flips : List Nat) : PageSense :=
  let r := flips.foldl RawPage.flip (rawOf p)
  let touched := fun (i : Nat) => p.isNone || flips.any (touchesWord i)
  let ds := ((List.range 256).zip (r.words.zip r.chks)).map fun (i, w, c) =>
    if touched i then kDecode (c ^^^ kCheck w) w else (KKind.clean, w)
  { words := ds.map (·.2), tag := r.tag,
    bits := if tagBlank r.tag then 0 else (ds.filter fun d => d.1 = KKind.corrected).length,
    ues := if p.elim false (·.partly) then List.range 256
      else ((List.range 256).zip ds).filterMap fun (i, d) =>
        if d.1 = KKind.uncorrectable || d.1 = KKind.poison then some i else none
    bad := p.elim false (·.partly) || ds.any fun d => d.1 = KKind.uncorrectable || d.1 = KKind.poison,
    tagOk := tagPasses r.tag place, blank := tagBlank r.tag }

/-- A sense that the fast path delivers as it is: no uncorrectable word and a tag that passes. -/
def PageSense.fine (x : PageSense) : Bool := !x.bad && x.tagOk

/-- Bits in which a word and its check bits differ from a stored word and its own, after the word code where it found a word to
correct. -/
def wordWrong (stored w : QWord) (c : BitVec 9) : Nat :=
  let d := kDecode (c ^^^ kCheck w) w
  let x := if d.1 = KKind.corrected then (d.2, kCheck d.2) else (w, c)
  popCount 128 (x.1 ^^^ stored).toNat + popCount 9 (x.2 ^^^ kCheck stored).toNat

/-- Bits that are wrong once the word codes have been decoded: of the words, restored or miscorrected, and outside them. -/
def residual (p : Page) (flips : List Nat) : Nat :=
  let r := flips.foldl RawPage.flip (rawOf (some p))
  ((List.range 256).foldl (fun n i =>
    if flips.any (touchesWord i) then n + wordWrong (p.words.getD i 0) (r.words.getD i 0) (r.chks.getD i 0) else n) 0) +
    (flips.filter fun b => 35072 ≤ b).length

/-- Bits that the outer code corrects (R212). -/
def bchMax : Nat := 96

/-- A repair round: the bits that the outer decode corrects when it succeeds (R217). Round 0 decodes the page as sensed
for delivery; a later one decodes the word codes of its own sense first. A round succeeds only where the restored tag passes at
the place read. A page whose program was interrupted never succeeds (R232). -/
def repairRoundBits (p : Option Page) (place : PagePlace) (round : Nat) (flips : List Nat) : Option Nat :=
  match p with
  | none => none
  | some p =>
    let n := if round = 0 then flips.length else residual p flips
    if p.partly || bchMax < n || !tagPasses p.tag place then none else some n

/-- The outcome of a read with every round: level of the round that succeeded and its outer-code bits; none when every
round failed. -/
def allRounds (p : Option Page) (place : PagePlace) (rounds : List (List Nat)) : Option (Nat × Nat) :=
  let sensed := fun (l : Nat) => rounds.getD l (rounds.getLast?.getD [])
  (List.range 8).findSome? fun l => (repairRoundBits p place l (sensed l)).map fun n => (l, n)

/-- The senses of a page key that an operand lists, the nominal one first. -/
def sensesOf (l : Senses) (key : Nat) : List (List Nat) := (l.filter fun e => e.1 = key).map (·.2)

/-! ### Page reads (R221) -/

/-- The controller's phases (R249). -/
def nvScanning : Nat := 0
def nvReady : Nat := 1
def nvQuiesced : Nat := 3
def nvFault : Nat := 4

def State.nvPhase (s : State) : Nat := s.fld NVS_STATE_PHASE

/-- T_max of a page program and of a block erase, in ns (R222). -/
def programSpan : Nat := 130000
def eraseSpan : Nat := 2500000

/-- The open batch while its erases are at work: a power failure stops them (R231). -/
def State.liveBatch (s : State) : Option Batch := if s.nvPhase = nvReady then s.nv.batch else none

/-- A program or an erase pulse is in progress on the bank of a block: a batch's pulses follow its INTENT, which takes T_max (R222,
R230; DESIGN CHOICE, log 240). -/
def State.bankAtWork (s : State) (bk : Nat) : Bool :=
  let same := fun (k : Nat) => keySp k = keySp bk && keyBank k = keyBank bk
  s.nv.ops.any (fun o => same o.block) ||
    s.liveBatch.any fun b => decide (b.start + programSpan ≤ s.now) && b.entries.any fun e => same e.1

/-- The stored page at a page key. -/
def State.pageAt (s : State) (bk pg : Nat) : Option Page := Tab.look s.nv.pages (pageKey bk pg)

/-- Counts and reports of one page read: `bits` is the corrected-bit count of its nominal sense, `warn` and `refresh` are WARN
and WARN_REFRESH_EN as they were when the page began (R249). -/
def State.notePageAt (s : State) (warn : Nat) (refresh : Bool) (bk pg bits : Nat) : State :=
  let s := (s.sense bk 1).count NVS_CE_BITS_COUNT_COUNT bits
  if bits < warn then s
  else
    let s := (s.count NVS_WARN_COUNT_COUNT 1).flagWith NVS_STATUS_WARN
      (leBytes 1 (keySlab bk) ++ leBytes 1 (keyPlane bk) ++ leBytes 2 (keyPhys bk) ++ leBytes 1 pg ++ leBytes 2 bits)
    s.whenB refresh fun s => s.queueRefresh bk 0

/-- A page read that begins now. -/
def State.notePage (s : State) (bk pg bits : Nat) : State :=
  s.notePageAt s.nvsWarn (s.bit NVS_CTL_WARN_REFRESH_EN) bk pg bits

/-- A round at a level of 1 or more succeeded. -/
def State.noteRetry (s : State) (bk level : Nat) : State :=
  s.whenB (decide (1 ≤ level)) fun s =>
    ((s.count NVS_RETRY_COUNT_COUNT 1).flag NVS_STATUS_RETRY).queueRefresh bk 1

/-- A page still carries marks when its repair ends. -/
def State.noteUe (s : State) (bk pg : Nat) : State :=
  (((s.count NVS_UE_PAGE_COUNT_COUNT 1).flag NVS_STATUS_UE).nvsErr 0 bk pg).queueRefresh bk 2

/-- A lost or blank page was read (R250, kind 0b101). -/
def State.noteLost (s : State) (bk pg : Nat) : State := (s.flag NVS_STATUS_UE).nvsErr 5 bk pg

/-- An execute-only page was read as data (R247). -/
def State.noteXo (s : State) (bk pg : Nat) : State := (s.flag NVS_STATUS_XO_READ).nvsErr 4 bk pg

/-- A sensed page is execute-only (R246). -/
def State.isXo (s : State) (bk : Nat) (x : PageSense) : Bool := (s.block bk).xo || (x.tagOk && tagKind x.tag = 2)

/-- A page read with every round to be copied by a relocation, which counts its senses only (R221, R227). -/
def State.readQuiet (s : State) (bk pg : Nat) (place : PagePlace) (rounds : List (List Nat)) :
    State × Option (List QWord × Bytes) :=
  let p := s.pageAt bk pg
  let x := decodePage p place (rounds.headD [])
  if x.blank || (x.tagOk && tagKind x.tag = 3) then (s.sense bk 1, none)
  else if x.fine && decide (x.bits < s.nvsWarn) then (s.sense bk 1, some (x.words, x.tag))
  else
    match allRounds p place rounds, p with
    | some (l, _), some q => (s.sense bk (1 + l), some (q.words, q.tag))
    | _, _ => (s.sense bk 8, if x.fine then some (x.words, x.tag) else none)

/-- A page read with every round, of a refresh or a scrub: the page's words when it could be read. -/
def State.readFull (s : State) (bk pg : Nat) (place : PagePlace) (rounds : List (List Nat)) :
    State × Option (List QWord × Bytes) :=
  let p := s.pageAt bk pg
  let x := decodePage p place (rounds.headD [])
  let s := s.notePage bk pg x.bits
  if x.blank then (s, none)
  else if x.tagOk && tagKind x.tag = 3 then (s.noteLost bk pg, none)
  else if x.fine && decide (x.bits < s.nvsWarn) then (s, some (x.words, x.tag))
  else
    match allRounds p place rounds, p with
    | some (l, _), some q => ((s.sense bk l).noteRetry bk l, some (q.words, q.tag))
    | _, _ => if x.fine then (s.sense bk 7, some (x.words, x.tag)) else ((s.sense bk 7).noteUe bk pg, none)

end Sys2Proof.Machine
end

