-- ==== Sys2Proof/Machine/Slab.lean ====
section
/-! DEFINITION. What a program reads of its slabs: fills, their repair deadlines and slab-read windows, carry sets, and
the free windows in which a bank may program or erase (R167 to R170, R218 to R223, R254, R276, R278). -/

namespace Sys2Proof.Machine

/-! ### Fills of an image -/

/-- A FILL with its place in the stream. -/
structure Fill where
  index : Nat
  issue : Nat
  done : Nat
  ring : Bool
  half1 : Bool
  dst : Nat
  offset : Nat
  length : Nat
  ringWords : Nat
  deriving DecidableEq, Repr

def fillOf (i : Nat) (c d : Bytes) : Fill :=
  { index := i, issue := cmdIssue c, done := cmdDone c, ring := (u8 d 1).testBit 0, half1 := (u8 d 1).testBit 1,
    dst := u16 d 2, offset := u32 d 4, length := u32 d 8, ringWords := u16 d 12 }

/-- The FILL commands of a tile's stream, in order. -/
def imgFills (b : Bytes) (e t : Nat) : List Fill :=
  let cs := imgCmds b e t
  let ds := imgDescs b e t
  ((List.range cs.length).zip cs).filterMap fun (i, c) =>
    if cmdOp c = opSlabFill then some (fillOf i c (ds.getD (cmdDesc c) [])) else none

/-- The LKA commands with SWAP, by ISSUE, each with the half that it makes feeding (R88). -/
def swapsGo : Bool → List Bytes → List (Nat × Bool)
  | _, [] => []
  | h, c :: r => if cmdOp c = opLka && (u8 c 1).testBit 0 then (cmdIssue c, !h) :: swapsGo (!h) r else swapsGo h r

def imgSwaps (b : Bytes) (e t : Nat) : List (Nat × Bool) := swapsGo false (imgCmds b e t)

/-- The repair deadline of a fill (R218); the DONE of a RING fill ends its window (R220). -/
def fillDeadline (b : Bytes) (e t : Nat) (f : Fill) : Nat :=
  if f.ring then f.done
  else
    let swap := ((imgSwaps b e t).find? fun x => f.done ≤ x.1 && x.2 == f.half1).elim (imgW b e) (·.1)
    let next := ((imgFills b e t).find? fun x => f.index < x.index).elim (imgW b e) (·.issue)
    min (min swap next) (imgW b e)

/-- Slab pages of [offset, offset + length). -/
def pagesOf (offset length : Nat) : List Nat :=
  if length = 0 then [] else (List.range ((offset + length - 1) / 4096 - offset / 4096 + 1)).map (offset / 4096 + ·)

/-- Bank of a slab that holds a slab page (R209). -/
def bankOfPage (np page : Nat) : Nat := np * (page / np / 128 / 64) + page % np

/-- Bank mask of a byte range (R220). -/
def bankMask (np offset length : Nat) : Nat := (pagesOf offset length).foldl (fun m p => m ||| 2 ^ bankOfPage np p) 0

/-! ### Carry sets (R276) -/

/-- Half of the staging buffer, as words [lo, hi) of the half, that a fill writes; of a RING fill, what it writes of its
ring. -/
def Fill.words (f : Fill) : Nat × Nat :=
  if f.ring then (f.dst, f.dst + min f.ringWords (f.length / 16)) else (f.dst, f.dst + f.length / 16)

/-- Steps of a position block of an LKA, and whether it is streamed (R140). -/
def lkaSteps (c : Bytes) : Nat := u16 c 12 * (u16 c 10 % 4096 * 64)
def lkaStreams (c : Bytes) : Bool := (u8 c 1).testBit 1

/-- Half-relative words [lo, hi) that an LKA reads on ports C and W; the code rows of a streamed one go round the half
(R141). -/
def lkaStaged (c d : Bytes) (half : Nat) : List (Nat × Nat) :=
  let n := 4 * lkaSteps c
  let lo := if lkaStreams c then u16 c 18 % max 1 half else u16 c 18
  let codes := if !lkaStreams c || lo + n ≤ half then [(lo, lo + n)]
    else if half ≤ n then [(0, half)]
    else [(lo, half), (0, lo + n - half)]
  codes ++ if bitsOf (u8 c 1) 3 2 = 0 then [(u16 d 2, u16 d 2 + ceilDiv (lkaSteps c) 64)] else []

/-- First and last cycle at which an LKA on a tile that is on time reads a word of the half as a code row (R142). -/
def rowReads (b : Bytes) (e half : Nat) (c : Bytes) (w : Nat) : List (Nat × Nat) :=
  let n := lkaSteps c
  let lo := u16 c 18
  if lkaStreams c then
    let k := (w + half - lo % max 1 half) % max 1 half
    let at_ := cmdIssue c + 16 + 64 * (k / 4) / bSlab (imgCode b) e
    if k < 4 * n && w < half then [(at_, at_)] else []
  else if lo ≤ w && w < lo + 4 * n then
    let first := cmdIssue c + 16 + (w - lo) / 4
    [(first, first + (u16 c 8 - 1) * n)]
  else []

/-- The same for a word read as a codebook: 16 cycles before the first step of its group (R142). -/
def bookReads (b : Bytes) (e : Nat) (c d : Bytes) (w : Nat) : List (Nat × Nat) :=
  let n := lkaSteps c
  let g := w - u16 d 2
  if bitsOf (u8 c 1) 3 2 = 0 && u16 d 2 ≤ w && g < ceilDiv n 64 then
    let first := cmdIssue c + (if lkaStreams c then 64 * (64 * g) / bSlab (imgCode b) e else 64 * g)
    [(first, first + (u16 c 8 - 1) * n)]
  else []

/-- The cycles at which a fill writes a word of its half, in order (R168). -/
def Fill.writesAt (f : Fill) (b : Bytes) (e w : Nat) : List Nat :=
  let n := f.length / 16
  let ring := if f.ring then max 1 f.ringWords else n
  let k := w - f.dst
  if w < f.dst || ring ≤ k || n ≤ k then []
  else (List.range ((n - k - 1) / ring + 1)).map fun i =>
    f.issue + lFill e + ceilDiv (16 * (k + i * ring + 1)) (bSlab (imgCode b) e)

/-- Word ranges with [lo, hi) taken out. -/
def cutRange (l : List (Nat × Nat)) (lo hi : Nat) : List (Nat × Nat) :=
  l.flatMap fun x => [(x.1, min x.2 lo), (max x.1 hi, x.2)].filter fun y => decide (y.1 < y.2)

/-- An LKA reads some of its half's words `ws` before a fill of the half, of those before it in the tick, has written it. -/
def lkaCarries (b : Bytes) (e half : Nat) (before : List Fill) (c d : Bytes) (ws : List (Nat × Nat)) : Bool :=
  let reads := (lkaStaged c d half).flatMap fun r => ws.filterMap fun w =>
    if max r.1 w.1 < min r.2 w.2 then some (max r.1 w.1, min r.2 w.2) else none
  let flying := before.filter fun f => cmdIssue c < f.done
  let early := fun (w : Nat) => (rowReads b e half c w ++ bookReads b e c d w).any fun r =>
    !flying.any fun f => (f.writesAt b e w).any (· ≤ r.1)
  ((before.filter fun f => f.done ≤ cmdIssue c).foldl (fun l f => cutRange l f.words.1 f.words.2) reads).any fun r =>
    flying.isEmpty || (List.range (r.2 - r.1)).any fun k => early (r.1 + k)

/-- Some command of a stream, from its i-th on, reads some of a half's words before a fill of the tick writes it. -/
def carriesGo (b : Bytes) (e half : Nat) (fs : List Fill) (ds : List Bytes) (half1 : Bool) (ws : List (Nat × Nat)) :
    Nat → Bool → List Bytes → Bool
  | _, _, [] => false
  | i, h, c :: r =>
    let h' := if cmdOp c = opLka && (u8 c 1).testBit 0 then !h else h
    (cmdOp c = opLka && h' == half1 &&
        lkaCarries b e half (fs.filter fun f => f.half1 == half1 && f.index < i) c (ds.getD (u16 c 30 % 4096) []) ws) ||
      carriesGo b e half fs ds half1 ws (i + 1) h' r

/-- The words of a fill that no later fill of its tick writes over. -/
def lasting (l : List Fill) (f : Fill) : List (Nat × Nat) :=
  l.foldl (fun ws g => if f.index < g.index && g.half1 == f.half1 then cutRange ws g.words.1 g.words.2 else ws) [f.words]

/-- The carry set of a tile in a schedule, in command order (R276). -/
def carrySet (b : Bytes) (e t : Nat) : List Fill :=
  let fs := imgFills b e t
  let cs := imgCmds b e t
  let ds := imgDescs b e t
  fs.filter fun f => carriesGo b e (halfWords (imgStage b t)) fs ds f.half1 (lasting fs f) 0 false cs

/-- Bytes that a carry set holds: a RING FILL holds no more than its ring. -/
def carryBytes (l : List Fill) : Nat := l.foldl (fun n f => n + 16 * (f.words.2 - f.words.1)) 0

/-! ### Free windows (R222, R223, R278) -/

/-- A service holds or is to hold its tiles. -/
def SvcPhase.holds (p : SvcPhase) : Bool :=
  match p with
  | .none => false
  | .loaded => false
  | .staged => true
  | .running => true
  | .suspended => true
  | .waiting => true
  | .standby => true

/-- Base of a model slot in bytes (R251). -/
def State.slotOf (s : State) (n : Nat) : Slot := Tab.lookD s.nv.slots n Slot.undefined
def State.slotBase (s : State) (n : Nat) : Nat := (s.slotOf n).firstStripe * s.stripeBytes

/-- Slots that a service reads: the one bound, and those of staged changes (R274, R277). -/
def State.slotsRead (s : State) (n : Nat) : List Nat :=
  (s.svc n).slot.toList ++ s.staged.filterMap fun c =>
    match c.kind with
    | .bind svc slot => if svc = n then slot else none
    | .swap svc slot => if svc = n then some slot else none
    | _ => none

/-- Two intervals of time meet. -/
def meets (a b c d : Nat) : Bool := decide (a < d) && decide (c < b)

/-- The tolerance in µs: a setting above PERIOD_US / 50 acts as that (R57, R62). -/
def State.tolUs (s : State) : Nat := min (s.fld TCK_TICKIN_TOL_US) (s.fld TCK_PERIOD_ACT_PERIOD_US / 50)

/-- PHASE_US in force: a value of the period or more is taken modulo the period (R62). -/
def State.phaseUs (s : State) : Nat := s.phaseAct % max 1 (s.fld TCK_PERIOD_ACT_PERIOD_US)

/-- The earliest instant at which R57 lets the next boundary fall. -/
def State.nextEarliest (s : State) : Nat := s.boundaryAt + 1000 * (s.fld TCK_PERIOD_ACT_PERIOD_US - s.tolUs)

/-- Slab-read and carry windows of a program that reads a slot, on bank b of a slab, meet [t0, t1), for a boundary at
`base`. -/
def State.slotMeets (s : State) (img : Bytes) (sl slab bank t0 t1 base : Nat) : Bool :=
  (imgTiles img).contains slab && (imgEnvList img).any fun e =>
    let mask := fun (f : Fill) => (bankMask s.np (f.offset + s.slotBase sl) f.length).testBit bank
    let at_ := fun (c : Nat) => base + 20000 + c * 1000 / envMHz e
    (imgFills img e slab).any (fun f =>
      mask f && meets t0 t1 (at_ f.issue) (at_ (fillDeadline img e slab f) + 1)) ||
    ((carrySet img e slab).any mask && meets t0 t1 (base + 5000) (base + 12000))

/-- Windows of a service on bank b of a slab meet [t0, t1), for a boundary at `base`. -/
def State.svcMeets (s : State) (n slab bank t0 t1 base : Nat) : Bool :=
  (s.slotsRead n).any fun sl => s.slotMeets (s.svc n).image sl slab bank t0 t1 base

/-- No window of a bank meets the span that begins at t0, which is now or later (R222). -/
def State.windowFree (s : State) (slab bank t0 span : Nat) : Bool :=
  let t1 := t0 + span
  let next := max s.nextEarliest (s.now + 1)
  !s.ticking || s.services.all fun (n, v) => !v.phase.holds ||
    (!s.svcMeets n slab bank t0 (min t1 next) s.boundaryAt && !(next < t1 && s.svcMeets n slab bank (max t0 next) t1 next))

end Sys2Proof.Machine
end

