-- ==== Sys2Proof/Machine/Sram.lean ====
section
/-! DEFINITION. Tile stores, cluster stores and snapshot buffers: reads that decode K137 and report what they find, and
writes (R83, R287, R309, R314, R315), and the host's indirect access to a tile store (R85, R97, R98). -/

namespace Sys2Proof.Machine

/-! ### Tile stores -/

/-- Reads a tile-store word (R83, R95); an uncorrectable one counts when it is found first (R315, R542; log 248). -/
def State.tileRead (s : State) (t w : Nat) : State × MWord :=
  match Tab.look (s.tileOf t).store w with
  | none => (s, MWord.zero)
  | some c =>
    let r := c.dec w
    match r.1 with
    | .clean => (s, r.2)
    | .poison => (s, r.2)
    | .corrected => ((s.count (TIL_CE_COUNT_COUNT.tile t) 1).flag (TIL_STATUS_MEM_CE.tile t), r.2)
    | .uncorrectable =>
      let s := s.modTile t fun x => { x with store := Tab.put x.store w (c.read w) }
      ((s.whenB (!c.found) fun s => s.count (TIL_UE_COUNT_COUNT.tile t) 1).flag (TIL_STATUS_MEM_UE.tile t), r.2)

/-- Writes a tile-store word: its valid bit is set, and its check bits are fresh (R83, R309). -/
def State.tileWrite (s : State) (t w : Nat) (m : MWord) : State :=
  let x := s.tileOf t
  s.setTile t { x with store := Tab.put x.store w (CWord.enc w m), dirty := true }

/-- Threads a state through a list of word reads. -/
def State.reads {α : Type} (s : State) (f : State → Nat → State × α) (l : List Nat) : State × List α :=
  l.foldl (fun (p : State × List α) a =>
    let r := f p.1 a
    (r.1, p.2 ++ [r.2])) (s, [])

/-- Reads n tile-store words from w. -/
def State.tileReads (s : State) (t w n : Nat) : State × List MWord :=
  s.reads (fun s a => s.tileRead t a) ((List.range n).map (w + ·))

/-- Writes tile-store words from w. -/
def State.tileWrites (s : State) (t w : Nat) (ms : List MWord) : State :=
  ((List.range ms.length).zip ms).foldl (fun s e => s.tileWrite t (w + e.1) e.2) s

/-! ### Cluster stores (R287) -/

/-- Reports a corrected or uncorrectable word of a cluster store or of intake SRAM (R314, R315, R322); `found`: a read has found
the uncorrectable word before, so that it is counted no more (R542; log 248). -/
def State.noteSram (s : State) (k : KKind) (found : Bool) (addr : Nat) : State :=
  match k with
  | .clean => s
  | .poison => s
  | .corrected => s.count MEM_SRAM_CE_COUNT_COUNT 1
  | .uncorrectable =>
    ((s.whenB (!found) fun s => s.count MEM_SRAM_UE_COUNT_COUNT 1).flag MEM_STATUS_SRAM_UE).firstRecord MEM_ERR_REC_VALID
      [(MEM_ERR_REC_KIND, 2), (MEM_ERR_REC_TICK, s.tick), (MEM_ERR_REC_WORD, addr / 16)]

/-- Internal address of a cluster-store word (R285). -/
def csAddr (c w : Nat) : Nat := 0x1040000000 + c * 0x400000 + 16 * w

/-- Reads a cluster-store word; one whose valid bit or segment flag is clear reads zero, unchecked. -/
def State.csRead (s : State) (c w : Nat) : State × MWord :=
  let x := s.clusterOf c
  if x.segs.getLsbD (w / 4096) then
    match Tab.look x.store w with
    | none => (s, MWord.zero)
    | some v =>
      let r := v.dec w
      let s := s.noteSram r.1 v.found (csAddr c w)
      (s.whenB (r.1 = .uncorrectable) fun s => s.setCluster c { x with store := Tab.put x.store w (v.read w) }, r.2)
  else (s, MWord.zero)

/-- Writes a cluster-store word: sets its valid bit and its segment's flag; the first write to a segment whose flag is
clear clears the valid bits of its other words. -/
def State.csWrite (s : State) (c w : Nat) (m : MWord) : State :=
  let x := s.clusterOf c
  let g := w / 4096
  let store := if x.segs.getLsbD g then x.store else Tab.keep x.store fun k => k / 4096 != g
  s.setCluster c { store := Tab.put store w (CWord.enc w m), segs := x.segs ||| (1 <<< g) }

/-! ### Snapshot buffers (R27, R33, R158) -/

/-- Internal address under which a snapshot word is recorded: that of a snapshot remote (R158). -/
def snapAddr (snap w : Nat) : Nat := 0xF000000000 + snap * 0x10000000 + 16 * w

/-- Reads word w of a buffer: words that nothing has written read zero (R32). The fold index is the word's index in its
buffer (log 15). -/
def Buf.read (b : Buf) (w : Nat) : KKind × MWord :=
  match Tab.look b.words w with
  | none => (.clean, MWord.zero)
  | some v => v.dec w

/-- The buffer after word w has been read. -/
def Buf.afterRead (b : Buf) (w : Nat) : Buf :=
  match Tab.look b.words w with
  | none => b
  | some c => { b with words := Tab.put b.words w (c.read w) }

/-- A read has found word w uncorrectable before. -/
def Buf.found (b : Buf) (w : Nat) : Bool := (Tab.look b.words w).any (·.found)

def Buf.write (b : Buf) (w : Nat) (m : MWord) : Buf := { b with words := Tab.put b.words w (CWord.enc w m) }

/-- Writes words from w. -/
def Buf.writes (b : Buf) (w : Nat) (ms : List MWord) : Buf :=
  ((List.range ms.length).zip ms).foldl (fun b e => b.write (w + e.1) e.2) b

/-- A buffer's words [w, w + n) as read, without reports. -/
def Buf.slice (b : Buf) (w n : Nat) : List MWord := (List.range n).map fun i => (b.read (w + i)).2

/-- The first n bytes of a buffer. -/
def Buf.bytes (b : Buf) (n : Nat) : Bytes := ((b.slice 0 ((n + 15) / 16)).flatMap fun m => bytes128 m.data).take n

/-- A buffer that holds bytes, unmarked. -/
def Buf.ofBytes (b : Buf) (d : Bytes) : Buf :=
  { b with words := [] }.writes 0 ((words128 d).map fun w => ⟨w, false⟩)

/-- The HELD buffer of an input. -/
def Input.held (i : Input) : Buf := (i.bufs.find? fun b => b.state = .held).getD Buf.empty

/-- Changes the buffers of an input in a state. -/
def Input.modBuf (i : Input) (st : BufState) (f : Buf → Buf) : Input :=
  { i with bufs := i.bufs.map fun b => if b.state = st then f b else b }

/-- Reads a word of a service's snapshot: the HELD buffer of an input or the writable buffer of an output. -/
def State.snapRead (s : State) (svc snap w : Nat) : State × MWord :=
  let v := s.svc svc
  let b := match v.inputs.find? fun (i : Input) => i.snap = snap with
    | some i => i.held
    | none => (v.outputs.find? fun (o : Output) => o.snap = snap).elim Buf.empty (·.writable)
  let r := b.read w
  let s := s.noteSram r.1 (b.found w) (snapAddr snap w)
  (s.whenB (r.1 = .uncorrectable) fun s => s.modSvc svc fun v => { v with
      inputs := v.inputs.map fun (i : Input) => if i.snap = snap then i.modBuf .held fun b => b.afterRead w else i,
      outputs := v.outputs.map fun (o : Output) => if o.snap = snap then { o with writable := o.writable.afterRead w } else o },
    r.2)

/-- Words of the flipped buffer of an output are read for egress: what their code finds is reported (R314, R315, R542). -/
def State.noteEgress (s : State) (svc : Nat) (o : Output) (ws : List Nat) : State :=
  ws.foldl (fun s w =>
    let b := ((s.svc svc).outputs.find? fun (x : Output) => x.snap = o.snap).elim Buf.empty (·.egress)
    let k := (b.read w).1
    (s.noteSram k (b.found w) (snapAddr o.snap w)).whenB (k = .uncorrectable) fun s => s.modSvc svc fun v => { v with
      outputs := v.outputs.map fun (x : Output) => if x.snap = o.snap then { x with egress := x.egress.afterRead w } else x }) s

/-- Writes a word of a service's output snapshot; a marked word is a marked element group of the tick (R405). -/
def State.snapWrite (s : State) (svc snap w : Nat) (m : MWord) : State :=
  s.modSvc svc fun v =>
    { v with
      outputs := v.outputs.map fun (o : Output) =>
        if o.snap = snap then
          { o with writable := { o.writable.write w m with coded := o.writable.coded.filter fun k => k != w / 32 } }
        else o
      log := { v.log with poisonGroups := min (v.log.poisonGroups + b2n m.poison) 0xFFFFFFFF } }

/-! ### The host's access to a tile store (R85, R97, R98) -/

/-- TIL_STATE.STATE values (R96). -/
def tsFree : Nat := 0
def tsStaged : Nat := 1
def tsRunning : Nat := 2
def tsDone : Nat := 3
def tsSuspended : Nat := 4
def tsAborted : Nat := 5

def State.tileState (s : State) (t : Nat) : Nat := s.fld (TIL_STATE_STATE.tile t)
def State.setTileState (s : State) (t v : Nat) : State := s.setFld (TIL_STATE_STATE.tile t) v

/-- A tile returns to FREE: no service holds it. -/
def State.freeTile (s : State) (t : Nat) : State :=
  s.setFlds [(TIL_STATE_STATE.tile t, tsFree), (TIL_STATE_SERVICE.tile t, 0), (TIL_STATE_CLASS.tile t, 0),
    (TIL_STATE_PHASE.tile t, 0)]

/-- A bulk invalidate: every valid bit, the function-table slots and the staging-buffer setting (R85). -/
def State.invalidate (s : State) (t : Nat) : State :=
  let x := s.tileOf t
  ((s.setTile t { x with store := [], ftab := [], dirty := false }).setFld (TIL_CFG_FTAB_LOADED.tile t) 0).setFld
    (TIL_CFG_STAGE.tile t) 0

/-- A refused indirect access or invalidate: HOST_REJ, whose event is the access error (R98). -/
def State.hostRej (s : State) (t off : Nat) : State :=
  (s.flag (TIL_STATUS_HOST_REJ.tile t)).accessError (0x40 + t) 0 (0x1000000 + t * 0x40000 + off) true false

def State.tilBusy (s : State) (t : Nat) : Bool := s.fld (TIL_MEM_CTL_BUSY.tile t) != 0

/-- A bulk invalidate begins (R85, R98). -/
def State.beginInvalidate (s : State) (t : Nat) : State :=
  (s.modTile t fun x => { x with invalidating := true }).setFld (TIL_MEM_CTL_BUSY.tile t) 1

/-- A write of TIL_MEM_CTL with READ and WRITE as given. -/
def State.tilMemCtl (s : State) (t : Nat) (read write : Bool) : State :=
  if !read && !write then s
  else if s.tilBusy t || s.tileState t != tsFree || (read && write) then
    (s.setFld (TIL_MEM_CTL_RESULT.tile t) 3).hostRej t 0x54
  else
    let w := s.fld (TIL_MEM_ADDR_WORD.tile t)
    let d := (List.range 4).foldl (fun a i => a + s.fld ((TIL_MEM_DATA_DATA.tile t).at (4 * i)) <<< (32 * i)) 0
    (s.modTile t fun x => { x with access := some (w, if write then some (BitVec.ofNat 128 d) else none) }).setFld
      (TIL_MEM_CTL_BUSY.tile t) 1

/-- A write of TIL_INVAL.GO. -/
def State.tilInval (s : State) (t : Nat) : State :=
  if s.tilBusy t || s.tileState t != tsFree then s.hostRej t 0x1C
  else s.beginInvalidate t

def execTilMemRead (tile : Nat) (s : State) : Host.Outcome State Fault Refusal :=
  hostAct (TIL_MEM_CTL.off + tile * 0x40000) s fun s => s.tilMemCtl tile true false

def execTilMemWrite (tile : Nat) (s : State) : Host.Outcome State Fault Refusal :=
  hostAct (TIL_MEM_CTL.off + tile * 0x40000) s fun s => s.tilMemCtl tile false true

def execTilInval (tile : Nat) (s : State) : Host.Outcome State Fault Refusal :=
  hostAct (TIL_INVAL.off + tile * 0x40000) s fun s => s.tilInval tile

/-- The indirect access in progress completes. -/
def State.accessDone (s : State) (t : Nat) : State :=
  match (s.tileOf t).access with
  | none => s
  | some (w, some d) =>
    let s := (s.tileWrite t w ⟨d, false⟩).modTile t fun x => { x with access := none, dirty := x.dirty }
    (s.setFld (TIL_MEM_CTL_RESULT.tile t) 0).setFld (TIL_MEM_CTL_BUSY.tile t) 0
  | some (w, none) =>
    let listed := (Tab.look (s.tileOf t).store w).isSome
    let kind := match Tab.look (s.tileOf t).store w with
      | none => KKind.clean
      | some c => (c.dec w).1
    let r := s.tileRead t w
    let s := r.1.modTile t fun x => { x with access := none }
    let res := match kind with
      | .clean => 0
      | .corrected => 1
      | .poison => 2
      | .uncorrectable => 2
    let s := (List.range 4).foldl (fun s i =>
      s.setFld ((TIL_MEM_DATA_DATA.tile t).at (4 * i)) (bitsOf r.2.data.toNat (32 * i + 31) (32 * i))) s
    ((s.setFld (TIL_MEM_CTL_RESULT.tile t) res).setFld (TIL_MEM_CTL_VALID.tile t) (b2n listed)).setFld
      (TIL_MEM_CTL_BUSY.tile t) 0

def execTilMemAccessDone (tile : Nat) (s : State) : Host.Outcome State Fault Refusal :=
  act s fun s => s.accessDone tile

end Sys2Proof.Machine
end

