-- ==== Sys2Proof/Machine/Cmp.lean ====
section
/-! DEFINITION. Exponent coding of 16-bit tensors: coding tables, coder and expander, table slots and coded regions
(R161, R323 to R341). -/

namespace Sys2Proof.Machine

/-! ### Tables (R329, R330) -/

/-- Symbols of a format, and bytes of its table. -/
def cmpSyms (format : Nat) : Nat := if format = 0 then 256 else 32
def cmpTabBytes (format : Nat) : Nat := if format = 0 then 144 else 32

/-- The table that bytes hold, when it is valid. -/
def tableOf (b : Bytes) : Option CodeTable :=
  let format := u8 b 0
  let lens := (List.range (cmpSyms format)).map fun i => let x := u8 b (16 + i / 2); if i % 2 = 0 then x % 16 else x / 16
  let used := lens.filter (0 < ·)
  if format ≤ 1 && allZero (slice b 1 15) && lens.all (· ≤ 12) && !used.isEmpty &&
      decide (used.foldl (fun (a : Nat) l => a + 2 ^ (12 - l)) 0 ≤ 4096) then
    some { format := format, tchk := crc16 (b.take (cmpTabBytes format)), lens := lens }
  else none

/-- Codes of one length, from the next free code: (symbol, length, code). -/
def codesOfLen (lens : List Nat) (len code : Nat) : Nat × List (Nat × Nat × Nat) :=
  ((List.range lens.length).zip lens).foldl (fun (p : Nat × List (Nat × Nat × Nat)) x =>
    if x.2 = len then (p.1 + 1, p.2 ++ [(x.1, len, p.1)]) else p) (code, [])

/-- The canonical codes of a table. -/
def CodeTable.codes (t : CodeTable) : List (Nat × Nat × Nat) :=
  ((List.range 12).foldl (fun (p : Nat × List (Nat × Nat × Nat)) i =>
    let r := codesOfLen t.lens (i + 1) p.1
    (2 * r.1, p.2 ++ r.2)) (0, [])).2

/-! ### Blocks (R325 to R328) -/

/-- The 256 values of a block. -/
def blockValues (b : Bytes) : List Nat := (List.range 256).map fun i => u16 b (2 * i)

/-- Exponent symbol, and sign and mantissa, of a value. -/
def expOf (format v : Nat) : Nat := if format = 0 then bitsOf v 14 7 else bitsOf v 14 10
def smOf (format v : Nat) : Nat := if format = 0 then v / 32768 * 128 + v % 128 else v / 32768 * 1024 + v % 1024
def joinSm (format e sm : Nat) : Nat :=
  if format = 0 then sm / 128 * 32768 + e * 128 + sm % 128 else sm / 1024 * 32768 + e * 1024 + sm % 1024
/-- Bits of a value's sign and mantissa, and bytes of the section. -/
def smBits (format : Nat) : Nat := if format = 0 then 8 else 11
def smBytes (format : Nat) : Nat := 32 * smBits format

/-- Words of a coded block. -/
def codedWords (format ebits : Nat) : Nat := ceilDiv (4 + smBytes format + ceilDiv ebits 8) 16

/-- Code bits of the exponents, most significant bit of each code first; none when a symbol has no code. -/
def expBits (codes : List (Nat × Nat × Nat)) : List Nat → Option (List Bool)
  | [] => some []
  | e :: r =>
    match codes.find? fun c => c.1 = e, expBits codes r with
    | some c, some l => some ((List.range c.2.1).map (fun i => c.2.2.testBit (c.2.1 - 1 - i)) ++ l)
    | _, _ => none

/-- Bytes of bits, the first in bit 0. -/
def packBits (l : List Bool) : Bytes :=
  (chunks 8 l).map fun c => BitVec.ofNat 8 (ofBits ((List.range c.length).filter fun i => c.getD i false))

/-- The words of a block coded under a table in a slot; none when it is emitted open (R331). -/
def codeBlock (slot : Nat) (t : CodeTable) (b : Bytes) : Option (List QWord) :=
  let vs := blockValues b
  match expBits t.codes (vs.map (expOf t.format)) with
  | none => none
  | some bits =>
    let sm := vs.reverse.foldl (fun a v => a * 2 ^ smBits t.format + smOf t.format v) 0
    let w := codedWords t.format bits.length
    if 31 < w then none
    else
      let head := leBytes 4 (t.tchk * 65536 + bits.length * 16 + slot)
      some (words128 (padTo (16 * w) (head ++ leBytes (smBytes t.format) sm ++ packBits bits)))

/-- Symbols that n codes spell in bits from the front, and the bits left. -/
def readCodes (codes : List (Nat × Nat × Nat)) : Nat → List Bool → Option (List Nat × List Bool)
  | 0, l => some ([], l)
  | n + 1, l =>
    match codes.find? fun c => c.2.1 ≤ l.length && ((List.range c.2.1).all fun i =>
        l.getD i false == c.2.2.testBit (c.2.1 - 1 - i)) with
    | none => none
    | some c => (readCodes codes n (l.drop c.2.1)).map fun r => (c.1 :: r.1, r.2)

/-- The bytes of a coded block's values (R332); none where it fails to decode. -/
def expandBytes (t : CodeTable) (ebits : Nat) (b : Bytes) : Option Bytes :=
  let s := smBytes t.format
  let bits := (List.range ebits).map fun i => (u8 b (4 + s + i / 8)).testBit (i % 8)
  match readCodes t.codes 256 bits with
  | some (es, []) =>
    let sm := leNat (slice b 4 s)
    some (((List.range 256).zip es).flatMap fun x =>
      leBytes 2 (joinSm t.format x.2 (bitsOf sm (smBits t.format * (x.1 + 1) - 1) (smBits t.format * x.1))))
  | _ => none

/-! ### Table slots (R335 to R337) -/

/-- Slots that a program's CODE descriptors name. -/
def imgSlots (b : Bytes) : List Nat := (imgCoded b).foldl (fun l d => insertNat (xfSlot d) l) []

/-- Services that pin a slot. -/
def State.pins (s : State) (slot : Nat) : Nat :=
  (s.services.filter fun e => e.2.phase.holds && (imgSlots e.2.image).contains slot).length

/-- Coded blocks of a buffer that name a slot and are not stale. -/
def Buf.naming (b : Buf) (slot : Nat) : Nat :=
  (b.coded.filter fun k => !b.stale.contains k && (b.read (32 * k)).2.data.toNat % 16 = slot).length

/-- TYPE of a TENSOR frame (R424). -/
def tyTensor : Nat := 0x10

/-- A block of a TENSOR frame: its number, its open flag and the words carried. -/
def tensorBlocksGo (b : Bytes) (first : Nat) : Nat → Nat → Nat → List (Nat × Bool × List MWord)
  | 0, _, _ => []
  | k + 1, j, pos =>
    let e := 40 + 8 * j
    let w := u8 b (e + 1)
    let ws := (List.range w).map fun i =>
      (⟨BitVec.ofNat 128 (leNat (sliceZ b (pos + 16 * i) 16)), (u32 b (e + 4)).testBit i⟩ : MWord)
    (first + j, (u8 b e).testBit 0, ws) :: tensorBlocksGo b first k (j + 1) (pos + 16 * w)

def tensorBlocks (b : Bytes) : List (Nat × Bool × List MWord) :=
  tensorBlocksGo b (u32 b 20 / 32) (u16 b 18) 0 (40 + 8 * u16 b 18)

/-- Coded blocks of a TENSOR frame of FORM 1 that name a slot (R335). -/
def State.tensorNaming (s : State) (slot etherType : Nat) (body : Bytes) : Nat :=
  if etherType = s.fld CNS_ETHERTYPE_TYPE && u8 body 1 = tyTensor && u8 body 17 = 1 then
    ((tensorBlocks body).filter fun e => !e.2.1 && (e.2.2.headD MWord.zero).data.toNat % 16 = slot).length
  else 0

/-- Those of a received frame that are not stale (R336). -/
def State.rxNaming (s : State) (slot : Nat) (f : RxFrame) : Nat :=
  if f.waited = some slot then 0 else s.tensorNaming slot f.etherType f.body

/-- Those of a frame in a transmit queue. -/
def State.txNaming (s : State) (slot : Nat) (d : Datagram) : Nat :=
  d.raw.elim 0 fun b =>
    let at_ := if beNat (slice b 12 2) = 0x8100 then 16 else 12
    s.tensorNaming slot (beNat (slice b at_ 2)) (b.drop (at_ + 2))

/-- In-flight blocks of a slot: those of frames that wait in the receive and transmit queues, of READY and HELD input buffers, and of
output buffers not yet sent. -/
def State.inFlight (s : State) (slot : Nat) : Nat :=
  s.intake.egress.foldl (fun n d => n + s.txNaming slot d) <| s.intake.rx.foldl (fun n f => n + s.rxNaming slot f) <| s.services.foldl (fun n e =>
    e.2.outputs.foldl (fun n (o : Output) => n + o.writable.naming slot + (if o.busy then o.egress.naming slot else 0))
      (e.2.inputs.foldl (fun n (i : Input) => i.bufs.foldl (fun n b => n + if b.state = .fill then 0 else b.naming slot) n) n)) 0

/-- The table of a slot. -/
def State.codeTable (s : State) (slot : Nat) : Option CodeTable := Tab.look s.mem.tables slot

def State.tabRefuse (s : State) (result : Nat) : State :=
  (s.setFld CMP_TAB_CTL_RESULT result).flag CMP_STATUS_TAB_REJ

/-- The table in CMP_TAB_BUF. -/
def State.tabBuf (s : State) : Bytes := (List.range 36).flatMap fun i => leBytes 4 (s.fld (CMP_TAB_BUF_DATA.at (4 * i)))

/-- A write of CMP_TAB_CTL (R336). -/
def State.tabCtl (s : State) (slot : Nat) (load clear : Bool) : State :=
  let s := s.setFld CMP_TAB_CTL_SLOT slot
  if !load && !clear then s
  else if load && (clear || (tableOf s.tabBuf).isNone) then s.tabRefuse 2
  else if 0 < s.pins slot then s.tabRefuse 1
  else if s.mem.tableOp.isSome then s.tabRefuse 3
  else
    (s.setMem { s.mem with tableOp := some (slot, if load then tableOf s.tabBuf else none) }).setFld
      CMP_TAB_CTL_WAITING 1

def execCmpTabLoad (slot : Nat) (s : State) : Host.Outcome State Fault Refusal :=
  hostAct CMP_TAB_CTL.off s fun s => s.tabCtl slot true false

def execCmpTabClear (slot : Nat) (s : State) : Host.Outcome State Fault Refusal :=
  hostAct CMP_TAB_CTL.off s fun s => s.tabCtl slot false true

/-- The waiting operation is applied once no block is in flight. Its event has a code that the spec does not give, so
the code is free (log 17). -/
def State.tabApply (s : State) : State :=
  match s.mem.tableOp with
  | none => s
  | some (slot, t) =>
    if 0 < s.inFlight slot then s
    else
      let tables := match t with
        | some v => Tab.put s.mem.tables slot v
        | none => Tab.del s.mem.tables slot
      let s := (s.setMem { s.mem with tables := tables, tableOp := none }).setFlds
        [(CMP_TAB_CTL_RESULT, 0), (CMP_TAB_CTL_WAITING, 0)]
      let code := (Config.freeWord s.freeCount).toNat % 256
      { s with freeCount := s.freeCount + 1 }.event 5 code (severityOf 5 code) (leBytes 4 (s.regAt CMP_STATUS.off))

def execCmpTabApply (s : State) : Host.Outcome State Fault Refusal := act s State.tabApply

/-! ### Coder and expander (R331, R332) -/

/-- Codes 32 words with the table of a slot, and counts the block. -/
def State.coder (s : State) (slot : Nat) (ws : List MWord) : State × Option (List QWord) :=
  let r := if ws.any (·.poison) then none
    else (s.codeTable slot).bind fun t => codeBlock slot t (wordBytes ws)
  match r with
  | none => (s.count CMP_OPEN_COUNT_COUNT 1, none)
  | some l => ((s.count CMP_CODED_COUNT_COUNT 1).count CMP_SAVED_COUNT_COUNT (32 - l.length), some l)

/-- A rejected block is 32 zero words, marked. -/
def rejected : List MWord := List.replicate 32 ⟨0, true⟩

/-- A block whose coded words carry a mark: 32 marked words whose data the spec does not give (log 12). -/
def State.markedBlock (s : State) : State × List MWord :=
  let f := s.freeQs 32
  (f.1, f.2.map fun d => ⟨d, true⟩)

/-- Expands a block that `read` delivers word by word; its first 16 words are read in any form. -/
def State.expander (s : State) (read : State → Nat → Nat → State × List MWord) (isOpen stale : Bool) :
    State × List MWord :=
  if isOpen then read s 0 32
  else
    let r := read s 0 16
    let h := (r.2.headD MWord.zero).data.toNat
    let tab := (r.1.codeTable (h % 16)).filter fun t => t.tchk = bitsOf h 31 16 && !stale
    if (r.2.headD MWord.zero).poison then r.1.markedBlock
    else
      match tab with
      | none => ((r.1.count CMP_STALE_COUNT_COUNT 1).flag CMP_STATUS_STALE, rejected)
      | some t =>
        let bad := fun (s : State) => ((s.count CMP_DECODE_ERR_COUNT_COUNT 1).flag CMP_STATUS_DECODE_ERR, rejected)
        let w := codedWords t.format (bitsOf h 15 4)
        if 31 < w then bad r.1
        else
          let q := read r.1 16 (w - 16)
          let ws := r.2 ++ q.2
          if ws.any (·.poison) then q.1.markedBlock
          else
            match expandBytes t (bitsOf h 15 4) (wordBytes ws) with
            | none => bad q.1
            | some b => (q.1, cleanWords b)

/-! ### Coded regions (R339 to R341) -/

def State.regionOn (s : State) (k : Nat) : Bool := s.bit (CMP_REGION_SIZE_EN.bank k)
/-- First byte, and size in blocks. -/
def State.regionBase (s : State) (k : Nat) : Nat := s.fld (CMP_REGION_BASE_BASE.bank k) * 512
def State.regionBlocks (s : State) (k : Nat) : Nat := s.fld (CMP_REGION_SIZE_BLOCKS.bank k)
def State.inRegion (s : State) (k lo hi : Nat) : Bool :=
  s.regionOn k && s.regionBase k ≤ lo && hi ≤ s.regionBase k + 512 * s.regionBlocks k

/-- The enabled region that holds an address. -/
def State.regionOf (s : State) (a : Nat) : Option Nat := (List.range 8).find? fun k => s.inRegion k a (a + 1)

/-- Key of the map word that holds a block's flag, and its bit. The fold index is the key (log 18). -/
def State.mapPlace (s : State) (k a : Nat) : Nat × Nat :=
  let n := (a - s.regionBase k) / 512
  (k * 32768 + n / 128, n % 128)

/-- The flags of a map word: what the code finds, and the word. -/
def State.mapWord (s : State) (key : Nat) : KKind × MWord :=
  match Tab.look s.mem.map key with
  | none => (.clean, ⟨BitVec.allOnes 128, false⟩)
  | some c => c.dec key

/-- A map word is read: what its code finds is reported, as for every word of the intake and codec SRAM (R314, R315, R339); the
map has no internal address, so the record's WORD is free (log 12). -/
def State.noteMap (s : State) (key : Nat) : State :=
  match Tab.look s.mem.map key with
  | none => s
  | some c =>
    let k := (c.dec key).1
    (s.noteSram k c.found (16 * (Config.freeWord s.freeCount).toNat)).whenB (k = .uncorrectable) fun s =>
      { s with mem := { s.mem with map := Tab.put s.mem.map key (c.read key) }, freeCount := s.freeCount + 1 }

/-- A map word has lost its flags. -/
def mapLost (w : KKind × MWord) : Bool := w.1 = .uncorrectable || w.1 = .poison

/-- Sets the open flag of the block at an address; outside every region there is none, and a map word that is uncorrectable stays
so until its region is enabled again. -/
def State.setOpen (s : State) (a : Nat) (v : Bool) : State :=
  match s.regionOf a with
  | none => s
  | some k =>
    let p := s.mapPlace k a
    if mapLost (s.mapWord p.1) then s.noteMap p.1
    else
      let w := (s.mapWord p.1).2.data.toNat
      let s := s.noteMap p.1
      let w := if v then w ||| 2 ^ p.2 else putBits w p.2 p.2 0
      s.setMem { s.mem with
        map := Tab.store s.mem.map p.1 (CWord.enc p.1 ⟨BitVec.ofNat 128 w, false⟩)
          (CWord.enc p.1 ⟨BitVec.allOnes 128, false⟩) }

/-- Reads the block of a coded transfer at an address in a region. -/
def State.codedRead (s : State) (a : Nat) : State × List MWord :=
  match s.regionOf a with
  | none => s.memRead a 32
  | some k =>
    let p := s.mapPlace k a
    let w := s.mapWord p.1
    let s := s.noteMap p.1
    if mapLost w then (s.flag CMP_STATUS_MAP_UE, rejected)
    else s.expander (fun s i n => s.memRead (a + 16 * i) n) (w.2.data.toNat.testBit p.2) false

/-- Writes a block of a coded transfer in the form that the coder gives it. -/
def State.codedWrite (s : State) (slot a : Nat) (ws : List MWord) : State :=
  let r := s.coder slot ws
  match r.2 with
  | none => (r.1.memWrite a ws).setOpen a true
  | some l => (r.1.memWrite a (l.map fun d => ⟨d, false⟩)).setOpen a false

/-- The pool's first and last byte. -/
def State.poolLo (s : State) : Nat := s.fld MEM_POOL_BASE_FRAME * frameBytes
def State.poolHi (s : State) : Nat := (s.fld MEM_POOL_BASE_FRAME + s.fld MEM_POOL_SIZE_FRAMES) * frameBytes

/-- Two byte ranges have a byte in common. -/
def overlap (a b c d : Nat) : Bool := decide (a < b) && decide (c < d) && decide (a < d) && decide (c < b)

/-- A holding service reaches the region by coded transfers (R340). -/
def State.regionUsed (s : State) (k : Nat) : Bool :=
  s.services.any fun e => e.2.phase.holds && (imgCoded e.2.image).any fun d =>
    (xfRows d).any fun a => isLpddr a && s.inRegion k a (a + xfRow d)

/-- Every enabled region keeps R339. -/
def State.regionsOk (s : State) : Bool :=
  let on := (List.range 8).filter s.regionOn
  let lo := s.regionBase
  let hi := fun k => s.regionBase k + 512 * s.regionBlocks k
  on.all (fun k => decide (hi k ≤ s.usable) && !overlap (lo k) (hi k) s.poolLo s.poolHi &&
    on.all fun j => j = k || !overlap (lo k) (hi k) (lo j) (hi j)) &&
    decide (on.foldl (fun n k => n + s.regionBlocks k) 0 ≤ 2 ^ 22)

/-- A write of CMP_REGION_BASE or CMP_REGION_SIZE of the region selected. -/
def State.regionWrite (s : State) (size : Bool) (v : Nat) : State :=
  let k := s.fld CMP_REGION_SEL_REGION
  let t := if size then
      s.setFlds [(CMP_REGION_SIZE_EN.bank k, bitsOf v 31 31), (CMP_REGION_SIZE_BLOCKS.bank k, bitsOf v 22 0)]
    else s.setFld (CMP_REGION_BASE_BASE.bank k) (bitsOf v 39 9)
  if s.regionUsed k || !t.regionsOk then s.flag CMP_STATUS_ACCESS
  else if !s.regionOn k && t.regionOn k then t.setMem { t.mem with map := Tab.keep t.mem.map fun w => w / 32768 != k }
  else t

def execCmpRegionWrite (size : Bool) (value : DWord) (s : State) : Host.Outcome State Fault Refusal :=
  hostAct (if size then CMP_REGION_SIZE.off else CMP_REGION_BASE.off) s fun s => s.regionWrite size value.toNat

/-! ### Coded snapshot buffers (R325, R335) -/

/-- The buffer of a snapshot that a program of the service reads or writes. -/
def State.snapBuf (s : State) (svc snap : Nat) : Buf :=
  let v := s.svc svc
  match v.inputs.find? fun (i : Input) => i.snap = snap with
  | some i => i.held
  | none =>
    match v.outputs.find? fun (o : Output) => o.snap = snap with
    | some o => o.writable
    | none => Buf.empty

/-- Reads block k of a snapshot for a coded transfer. -/
def State.snapExpand (s : State) (svc snap k : Nat) : State × List MWord :=
  let b := s.snapBuf svc snap
  s.expander (fun s i n => s.reads (fun s w => s.snapRead svc snap w) ((List.range n).map fun j => 32 * k + i + j))
    (!b.coded.contains k) (b.stale.contains k)

/-- Writes block k of an output snapshot of a coded transfer. -/
def State.snapCode (s : State) (slot svc snap k : Nat) (ws : List MWord) : State :=
  let r := s.coder slot ws
  let put := fun (s : State) (l : List MWord) =>
    ((List.range l.length).zip l).foldl (fun (s : State) e => s.snapWrite svc snap (32 * k + e.1) e.2) s
  match r.2 with
  | none => put r.1 ws
  | some l =>
    (put r.1 (l.map fun d => ⟨d, false⟩)).modSvc svc fun v =>
      { v with
        outputs := v.outputs.map fun (o : Output) =>
          if o.snap = snap then { o with writable := { o.writable with coded := insertNat k o.writable.coded } } else o }

end Sys2Proof.Machine
end

