-- ==== Sys2Proof/Machine/Hif.lean ====
section
/-! DEFINITION. The host interface: descriptor rings, doorbells, acceptance and completion of commands, interrupts
(R386 to R395, R403 to R409). -/

namespace Sys2Proof.Machine

/-! ### Rings -/

/-- Ring types as HIF_RING_SEL encodes them. -/
def cmdType : Nat := 0
def cplType : Nat := 1
def resType : Nat := 2

/-- Bank of a ring's registers (R409). -/
def ringBank (ty n : Nat) : Nat := ty * 64 + n

def State.ring (s : State) (ty n : Nat) : Ring :=
  Tab.lookD (if ty = 0 then s.hif.cmdRings else if ty = 1 then s.hif.cplRings else s.hif.resRings) n Ring.reset

def State.setRing (s : State) (ty n : Nat) (r : Ring) : State :=
  s.setHif (if ty = 0 then { s.hif with cmdRings := Tab.put s.hif.cmdRings n r }
    else if ty = 1 then { s.hif with cplRings := Tab.put s.hif.cplRings n r }
    else { s.hif with resRings := Tab.put s.hif.resRings n r })

/-- A ring's setting. -/
def State.ringFld (s : State) (f : Fld) (ty n : Nat) : Nat := s.fld (f.bank (ringBank ty n))
def State.setRingFld (s : State) (f : Fld) (ty n v : Nat) : State := s.setFld (f.bank (ringBank ty n)) v

def State.ringOn (s : State) (ty n : Nat) : Bool := s.ringFld HIF_RING_CFG_EN ty n != 0
def State.ringBusy (s : State) (ty n : Nat) : Bool := s.ringFld HIF_RING_CFG_BUSY ty n != 0
def State.ringHalted (s : State) (ty n : Nat) : Bool := s.ringFld HIF_RING_CFG_HALTED ty n != 0

/-- Entries of a ring (R388). -/
def State.ringSize (s : State) (ty n : Nat) : Nat := 2 ^ s.ringFld HIF_RING_CFG_LOG2SIZE ty n

/-- Distance of ring indices, modulo 65,536 (R388). -/
def idxSub (a b : Nat) : Nat := (a + 65536 - b % 65536) % 65536

/-- BAR2 emulation takes the ring (R407). -/
def State.emuRing (s : State) (ty n : Nat) : Bool :=
  s.bit HIF_EMU_CTL_EN && (if ty = resType then decide (14 ≤ n) else decide (60 ≤ n))

/-- Puts a ring into error (R392). -/
def State.ringError (s : State) (cause ty n value index : Nat) : State :=
  let s := s.setRingFld HIF_RING_CFG_HALTED ty n 1
  (s.firstRecord HIF_RING_ERR_VALID
    [(HIF_RING_ERR_CAUSE, cause), (HIF_RING_ERR_TYPE, ty), (HIF_RING_ERR_RING, n), (HIF_RING_ERR_VALUE, value),
      (HIF_RING_ERR_INDEX, index)]).flag HIF_STATUS_RING_ERR

/-- A failed host DMA (R404); Advanced Error Reporting has it as a Completion Timeout (PRESUMED, log 228). -/
def State.dmaError (s : State) : State := ((s.count HIF_DMA_ERR_COUNT_COUNT 1).flag HIF_STATUS_DMA_ERR).aerError 14 false

/-- Signals a ring's vector when its coalescing rule is met after an entry was posted (R387). -/
def State.postSignal (s : State) (ty n : Nat) : State :=
  let r := s.ring ty n
  let r := { r with unsignalled := r.unsignalled + 1, firstPosted := if r.unsignalled = 0 then s.now else r.firstPosted }
  if s.ringFld HIF_RING_CFG_IRQ_EN ty n = 0 then s.setRing ty n r
  else if max 1 (s.ringFld HIF_RING_COAL_COUNT ty n) ≤ r.unsignalled || s.ringFld HIF_RING_COAL_USEC ty n = 0 then
    (s.setRing ty n { r with unsignalled := 0 }).signal (s.ringFld HIF_RING_CFG_VECTOR ty n)
  else s.setRing ty n r

/-- Entry size in bytes (R388). -/
def State.entryBytes (s : State) (ty n : Nat) : Nat :=
  if ty = 0 then 64 else if ty = 1 then 16 else if s.ringFld HIF_RING_CFG_AUDIT ty n = 1 then 128 else 64

/-- Bus address of an entry (R388). -/
def State.entryAddr (s : State) (ty n i : Nat) : Nat :=
  s.ringFld HIF_RING_BASE_ADDR ty n * 4096 + i % s.ringSize ty n * s.entryBytes ty n

/-- The producer index advances past an entry just written; the phase inverts when slot 0 follows (R393). -/
def State.advance (s : State) (ty n : Nat) : State :=
  let r := s.ring ty n
  let t := (r.tail + 1) % 65536
  s.setRing ty n { r with tail := t, phase := if t % s.ringSize ty n = 0 then !r.phase else r.phase }

/-! ### Doorbells (R391, R392) -/

/-- A doorbell write at a BAR0 offset, for a ring of a type. -/
def State.doorbell (s : State) (ty n off v : Nat) : State :=
  let r := s.ring ty n
  let size := s.ringSize ty n
  if !s.ringOn ty n || s.ringBusy ty n then s.accessError 1 0 off true false
  else if ty = cmdType then
    if idxSub v r.tail ≤ size - 1 - idxSub r.tail r.head then s.setRing ty n { r with tail := v }
    else s.ringError 1 ty n v r.tail
  else if idxSub v r.head ≤ idxSub r.tail r.head then s.setRing ty n { r with head := v }
  else s.ringError 1 ty n v r.head

def execDblCmdTail (page : Nat) (value : Word) (s : State) : Host.Outcome State Fault Refusal :=
  hostAct (0x1000 + page * 0x1000) s fun s => s.doorbell cmdType page (0x1000 + page * 0x1000) (value.toNat % 65536)

def execDblCplHead (page : Nat) (value : Word) (s : State) : Host.Outcome State Fault Refusal :=
  hostAct (0x1004 + page * 0x1000) s fun s => s.doorbell cplType page (0x1004 + page * 0x1000) (value.toNat % 65536)

def execDblResHead (page : Nat) (value : Word) (s : State) : Host.Outcome State Fault Refusal :=
  hostAct (0x1008 + page * 0x1000) s fun s => s.doorbell resType page (0x1008 + page * 0x1000) (value.toNat % 65536)

/-! ### Enable and disable (R389, R390) -/

/-- The ring that HIF_RING_SEL shows. -/
def State.ringSel (s : State) : Nat × Nat :=
  let ty := min 2 (s.fld HIF_RING_SEL_TYPE)
  (ty, if ty = 2 then s.fld HIF_RING_SEL_RING % 16 else s.fld HIF_RING_SEL_RING)

/-- A service that runs or is staged names the result ring (R390). -/
def State.resRingUsed (s : State) (n : Nat) : Bool :=
  s.services.any fun e => e.2.resultRing = some n &&
    (e.2.phase = .staged || e.2.phase = .running || e.2.phase = .suspended || e.2.phase = .waiting || e.2.phase = .standby)

/-- Commands of a ring whose completion has not been posted. -/
def State.outstanding (s : State) (n : Nat) : List HostCmd := s.hif.accepted.filter fun c => c.ring = n

/-- The indices of a ring that is enabled; drops of its records are still to be told (R388, R406). -/
def State.freshRing (s : State) (ty n : Nat) : Ring := { Ring.reset with dropped := (s.ring ty n).dropped }

/-- The ring settings of a write of HIF_RING_CFG. -/
def State.setCfg (s : State) (ty n v : Nat) : State :=
  let f := fun (s : State) (x : Fld) => s.setRingFld x ty n (bitsOf v x.hi x.lo)
  [HIF_RING_CFG_PRIO, HIF_RING_CFG_AUDIT, HIF_RING_CFG_PEER, HIF_RING_CFG_VECTOR, HIF_RING_CFG_IRQ_EN,
    HIF_RING_CFG_LOG2SIZE].foldl f s

/-- An enable is refused (R389). -/
def State.enableRefused (s : State) (ty n v : Nat) : Bool :=
  let log := bitsOf v 4 0
  !s.bit HIF_STATUS_READY || log < 4 || 16 < log || (ty = cmdType && !s.ringOn cplType (bitsOf v 21 16)) ||
    s.emuRing ty n

/-- Enables the selected ring, or refuses. -/
def State.ringEnable (s : State) (ty n v : Nat) : State :=
  if s.ringOn ty n then s.flag HIF_STATUS_ACCESS
  else if s.emuRing ty n then s.flag HIF_STATUS_RING_REJ
  else
    let s := s.setCfg ty n v
    if s.enableRefused ty n v then s.flag HIF_STATUS_RING_REJ
    else ((s.setRingFld HIF_RING_CFG_HALTED ty n 0).setRingFld HIF_RING_CFG_EN ty n 1).setRing ty n (s.freshRing ty n)

/-- A command ring that an enabled or busy state binds to a completion ring. -/
def State.cplUsed (s : State) (n : Nat) : Bool :=
  (List.range 64).any fun k =>
    (s.ringOn cmdType k || s.ringBusy cmdType k) && s.ringFld HIF_RING_CFG_PEER cmdType k = n

/-- Disables the selected ring, or refuses. -/
def State.ringDisable (s : State) (ty n : Nat) : State :=
  if s.ringBusy ty n then s
  else if ty = cmdType then
    if (s.outstanding n).isEmpty then s.setRingFld HIF_RING_CFG_EN ty n 0 else s.setRingFld HIF_RING_CFG_BUSY ty n 1
  else if (if ty = cplType then s.cplUsed n else s.resRingUsed n) then s.flag HIF_STATUS_RING_REJ
  else (s.setRingFld HIF_RING_CFG_EN ty n 0).setRing ty n { s.ring ty n with unsignalled := 0 }

/-- A host write of HIF_RING_CFG. -/
def State.cfgWrite (s : State) (v : Nat) : State :=
  let (ty, n) := s.ringSel
  if v.testBit 31 then s.ringEnable ty n v
  else if s.ringOn ty n then s.ringDisable ty n
  else if s.emuRing ty n then s.flag HIF_STATUS_RING_REJ
  else s.setCfg ty n v

/-- The same before READY as well, where an enable is refused (R389, R534). -/
def State.ringCfgWrite (s : State) (v : Nat) : State :=
  if s.takes HIF_RING_CFG.off then s.cfgWrite v else s.whenB (v.testBit 31) fun s => s.flag HIF_STATUS_RING_REJ

/-- A host write of another setting of the selected ring; `f` stores it. -/
def State.ringSetting (s : State) (f : Nat → State) : State :=
  let (ty, n) := s.ringSel
  if s.ringOn ty n then s.flag HIF_STATUS_ACCESS
  else if s.emuRing ty n then s.flag HIF_STATUS_RING_REJ
  else f (ringBank ty n)

def execHifRingEnable (value : Word) (s : State) : Host.Outcome State Fault Refusal :=
  hostAct HIF_RING_CFG.off s fun s => s.ringCfgWrite value.toNat

def execHifRingDisable (value : Word) (s : State) : Host.Outcome State Fault Refusal :=
  hostAct HIF_RING_CFG.off s fun s => s.ringCfgWrite value.toNat

def execRingDisableDone (ring : Nat) (s : State) : Host.Outcome State Fault Refusal :=
  act s fun s =>
    if s.ringBusy cmdType ring && (s.outstanding ring).isEmpty then
      (s.setRingFld HIF_RING_CFG_BUSY cmdType ring 0).setRingFld HIF_RING_CFG_EN cmdType ring 0
    else s

/-- A new base of the BAR4 window (R386): requests that arrive later use it. -/
def execHifBar4BaseWrite (value : Word) (s : State) : Host.Outcome State Fault Refusal :=
  hostAct HIF_BAR4_BASE.off s fun s => s.setFld HIF_BAR4_BASE_WINDOW value.toNat

/-- Rings that emulation takes are all disabled (R407). -/
def State.emuRingsOff (s : State) : Bool :=
  ((List.range 4).all fun k => !s.ringOn cmdType (60 + k) && !s.ringOn cplType (60 + k)) &&
    !s.ringOn resType 14 && !s.ringOn resType 15

/-- A write of HIF_EMU_CTL (R407). ACTIVE follows EN: SCH services BAR2 while emulation is on and SCH runs. -/
def State.emuWrite (s : State) (v : Nat) : State :=
  if s.emuRingsOff then
    let en := v % 2
    (s.setFld HIF_EMU_CTL_EN en).setFld HIF_EMU_CTL_ACTIVE (if s.bit HIF_STATUS_SCH_DOWN then 0 else en)
  else s.flag HIF_STATUS_ACCESS

def execHifEmuEnWrite (value : Word) (s : State) : Host.Outcome State Fault Refusal :=
  hostAct HIF_EMU_CTL.off s fun s => s.emuWrite value.toNat

/-- The coalescing delay of a ring expires (R387). -/
def execCoalesceTimeout (result : Bool) (ring : Nat) (s : State) : Host.Outcome State Fault Refusal :=
  act s fun s =>
    let ty := if result then resType else cplType
    let r := s.ring ty ring
    if s.asleep || r.unsignalled = 0 || s.ringFld HIF_RING_CFG_IRQ_EN ty ring = 0 || s.ringFld HIF_RING_COAL_USEC ty ring = 0 then s
    else
      let s := s.upTo (r.firstPosted + 1000 * s.ringFld HIF_RING_COAL_USEC ty ring)
      (s.setRing ty ring { r with unsignalled := 0 }).signal (s.ringFld HIF_RING_CFG_VECTOR ty ring)

/-! ### Commands (R396, R397, R403, R404) -/

def stOk : Nat := 0x00
def stBadOpcode : Nat := 0x01
def stBadField : Nat := 0x02
def stHostDma : Nat := 0x03
def stProgramReject : Nat := 0x04
def stAdmission : Nat := 0x05
def stHistory : Nat := 0x06
def stServiceState : Nat := 0x07
def stDuplicate : Nat := 0x08
def stCancelled : Nat := 0x09
def stSuperseded : Nat := 0x0A
def stRangeBusy : Nat := 0x0B
def stSlotState : Nat := 0x0C
def stOverlap : Nat := 0x0D
def stFit : Nat := 0x0E
def stShape : Nat := 0x0F
def stBadImage : Nat := 0x10
def stBadSignature : Nat := 0x11
def stKeyFail : Nat := 0x12
def stSecUnavailable : Nat := 0x13
def stDigestMismatch : Nat := 0x14
def stNotErased : Nat := 0x15
def stNoSpare : Nat := 0x16
def stPowerFail : Nat := 0x17
def stAborted : Nat := 0x18
def stNvFault : Nat := 0x19
def stConsortActive : Nat := 0x1A
def stConsortCancelled : Nat := 0x1B
def stChainLost : Nat := 0x1C
def stSoundpost : Nat := 0x1D
def stDeviceState : Nat := 0x1E
def stSchRestart : Nat := 0x1F
def stNotPending : Nat := 0x20

def opLoadProgram : Nat := 0x01
def opBindModel : Nat := 0x02
def opStartService : Nat := 0x03
def opStopService : Nat := 0x04
def opSubmitInput : Nat := 0x05
def opNvProgram : Nat := 0x06
def opNvErase : Nat := 0x07
def opModelSwap : Nat := 0x08
def opScrub : Nat := 0x09
def opFill : Nat := 0x0A
def opFwStage : Nat := 0x0B
def opFwActivate : Nat := 0x0C
def opAttest : Nat := 0x0D
def opConfigEpoch : Nat := 0x0E
def opQuery : Nat := 0x0F

/-- INFO of NV_PROGRAM and NV_ERASE (R403). -/
def nvInfo (slab sector member : Nat) : Nat := slab + sector * 2 ^ 8 + member * 2 ^ 40
def noSlab : Nat := 0xFF
def noSector : Nat := 0xFFFFFFFF
def thisDevice : Nat := 0xFF

/-- INFO of a command that ends before its work begins (R403). -/
def noInfo (op : Nat) : Nat :=
  if op = opNvProgram || op = opNvErase then nvInfo noSlab noSector thisDevice else 0

/-- Number of the start-up list in place of a ring (R532). -/
def listRing : Nat := 64
/-- A completion ring number that names none. -/
def noPeer : Nat := 255

def HostCmd.opcode (c : HostCmd) : Nat := u8 c.bytes 0
def HostCmd.flags (c : HostCmd) : Nat := u8 c.bytes 1
def HostCmd.fence (c : HostCmd) : Bool := c.flags.testBit 0
def HostCmd.cancels (c : HostCmd) : Bool := c.flags.testBit 1
def HostCmd.fromList (c : HostCmd) : Bool := c.ring == listRing

/-- Bytes 8 to 63 that carry operands, with the bits of each that are not reserved (R397). -/
def operandMask (op : Nat) : List (Nat × Nat × Nat) :=
  if op = opLoadProgram then [(8, 3, 0xFF), (16, 12, 0xFF)]
  else if op = opBindModel then [(8, 2, 0xFF), (10, 1, 1)]
  else if op = opStartService then [(8, 3, 0xFF), (11, 1, 3), (16, 20, 0xFF)]
  else if op = opStopService then [(8, 1, 0xFF), (16, 8, 0xFF)]
  else if op = opSubmitInput then [(8, 2, 0xFF), (16, 12, 0xFF)]
  else if op = opNvProgram then [(8, 2, 0xFF), (10, 1, 1), (11, 1, 0xFF), (16, 16, 0xFF)]
  else if op = opNvErase then [(8, 1, 0xFF), (10, 1, 1), (11, 5, 0xFF), (16, 8, 0xFF)]
  else if op = opModelSwap then [(8, 2, 0xFF), (10, 1, 1), (16, 8, 0xFF)]
  else if op = opScrub then [(10, 1, 1), (16, 5, 0xFF), (24, 16, 0xFF)]
  else if op = opFill then [(16, 5, 0xFF), (24, 12, 0xFF)]
  else if op = opFwStage then [(8, 2, 0xFF), (16, 12, 0xFF)]
  else if op = opFwActivate then [(8, 1, 0xFF), (16, 8, 0xFF)]
  else if op = opAttest then [(16, 12, 0xFF), (32, 32, 0xFF)]
  else if op = opConfigEpoch then [(16, 10, 0xFF), (32, 8, 0xFF)]
  else if op = opQuery then [(8, 2, 0xFF), (16, 12, 0xFF)]
  else []

/-- The bits of byte i that are not reserved. -/
def byteMask (op i : Nat) : Nat :=
  if i = 0 then 0xFF else if i = 1 then 3 else if i < 4 then 0 else if i < 8 then 0xFF
  else ((operandMask op).find? fun e => e.1 ≤ i && i < e.1 + e.2.1).elim 0 (·.2.2)

/-- Opcodes whose changes can be cancelled (R398). -/
def stages (op : Nat) : Bool :=
  [opStartService, opStopService, opBindModel, opModelSwap, opConfigEpoch, opFwActivate].contains op

/-- The status that the header and the reserved bytes alone decide (R396); none when they are in order. A CANCEL flag on
an opcode that stages nothing is out of range (DEDUCED; log 14). -/
def headerStatus (b : Bytes) : Option Nat :=
  let op := u8 b 0
  if op < 1 || 15 < op then some stBadOpcode
  else if ((List.range 64).zip b).any fun (i, x) => x.toNat &&& (0xFF - byteMask op i) != 0 then some stBadField
  else if (u8 b 1).testBit 1 && !stages op then some stBadField
  else none

/-- SCH takes commands and runs their work. -/
def State.schUp (s : State) : Bool := s.up && !s.bit HIF_STATUS_SCH_DOWN

/-- Ends an accepted command with a status, DETAIL and INFO; its completion is posted later. -/
def State.finish (s : State) (id status detail info : Nat) : State :=
  let f := fun (c : HostCmd) =>
    if c.id = id && c.result = none then { c with started := true, result := some (status, detail, info) } else c
  let s := s.setHif { s.hif with accepted := s.hif.accepted.map f }
  if status = stHostDma then s.dmaError else s

/-- Marks an accepted command as at work. -/
def State.begin (s : State) (id : Nat) : State :=
  s.setHif { s.hif with accepted := s.hif.accepted.map fun c => if c.id = id then { c with started := true } else c }

/-- SEC quiesces for an activation: key operations and verifications wait (R454). -/
def State.secQuiet (s : State) : Bool := s.fld SEC_FW_CORE_STATE == 2
/-- SCH quiesces: acceptance pauses (R454). -/
def State.schQuiet (s : State) : Bool := s.fld (SEC_FW_CORE_STATE.at 8) == 2
/-- Opcodes whose work has SEC verify. -/
def needsSec (op : Nat) : Bool := [opNvProgram, opFwStage].contains op

/-- The work of a command that begins moves data to or from host memory (R383, R384). The quote of ATTEST leaves later. -/
def HostCmd.usesDma (c : HostCmd) : Bool :=
  let op := c.opcode
  !c.fromList && (op == opQuery || op == opConfigEpoch || (op == opScrub && u64 c.bytes 32 != 0) ||
    (op == opStartService && u64 c.bytes 24 != 0) ||
    ((op == opLoadProgram || op == opNvProgram || op == opFwStage) && u8 c.bytes 9 == 0))

/-- A command waits for host DMA. -/
def State.dmaWaits (s : State) (c : HostCmd) : Bool := s.dmaHeld && c.usesDma

/-- The earliest accepted command of an opcode whose work has not begun and can begin. -/
def State.nextCmd (s : State) (op : Nat) : Option HostCmd :=
  if s.schUp && !(s.secQuiet && needsSec op) then
    s.hif.accepted.find? fun c => c.opcode = op && !c.started && c.result = none && !c.cancels && !s.dmaWaits c
  else none

/-- An accepted command by its number. -/
def State.cmd (s : State) (id : Nat) : Option HostCmd := s.hif.accepted.find? fun c => c.id = id

/-- Runs the work of the earliest command of an opcode. -/
def State.withCmd (s : State) (op : Nat) (f : State → HostCmd → State) : State :=
  match s.nextCmd op with
  | none => s
  | some c => f (s.begin c.id) c

/-- A completion of R403. -/
def completion (c : HostCmd) (phase : Bool) (status detail info : Nat) : Bytes :=
  slice c.bytes 4 4 ++ leBytes 2 c.index ++ leBytes 1 c.ring ++ leBytes 1 (b2n phase) ++ leBytes 1 status ++
    leBytes 1 detail ++ leBytes 6 info

/-! ### Acceptance (R394, R395) -/

/-- A completion ring has an entry that no command has reserved (R394). -/
def State.cplFree (s : State) (n : Nat) : Bool :=
  let r := s.ring cplType n
  decide (idxSub r.tail r.head + r.reserved < s.ringSize cplType n - 1)

/-- The entry at a ring's head is known to wait for the ring's earlier commands (FENCE, R394). -/
def State.fenced (s : State) (n : Nat) : Bool := (s.ring cmdType n).held.isSome && !(s.outstanding n).isEmpty

/-- A command ring can be served: one whose head waits for its FENCE leaves its turn to others (log 229). -/
def State.servable (s : State) (n : Nat) : Bool :=
  let p := s.ringFld HIF_RING_CFG_PEER cmdType n
  let r := s.ring cmdType n
  s.ringOn cmdType n && !s.ringBusy cmdType n && !s.ringHalted cmdType n && r.tail != r.head &&
    !s.fenced n && s.ringOn cplType p && !s.ringHalted cplType p && s.cplFree p

/-- The start-up list has a command to submit: its commands run one at a time (R532). -/
def State.listReady (s : State) : Bool :=
  s.bit ID_BOOT_LIST_BUSY && !s.boot.startDue && !s.boot.soundpostWait && !s.boot.list.isEmpty && (s.outstanding listRing).isEmpty

/-- A command of the start-up list that reads flash (R532). -/
def HostCmd.readsFlash (c : HostCmd) : Bool :=
  c.fromList && (c.opcode == opSubmitInput ||
    ([opLoadProgram, opNvProgram, opFwStage].contains c.opcode && u8 c.bytes 9 == 0))

/-- The device boots standalone (R527). -/
def State.standalone (s : State) : Bool := (s.fld ID_STRAPS_BOOT_SRC).testBit 0 || s.bit ID_STRAPS_PCIE_MODE

/-- The device drives the xSPI pins: in CONFIG_LOAD, in a standalone firmware load, and for a list command that reads flash
(R533). -/
def State.xspiOn (s : State) : Bool :=
  s.dev == stConfigLoad || (s.dev == stReleased && s.standalone && !s.boot.coresUp && !s.boot.bootFailed) ||
    (s.bit ID_BOOT_LIST_BUSY && s.hif.accepted.any HostCmd.readsFlash)

/-- The xSPI pads take their drive, unless they are held (R498). -/
def State.showXspi (s : State) : State := s.whenB (!s.bit PWR_PAD_CTL_HOLD) fun s => s.emit (.drive "XSPI" s.xspiOn)

/-- Priority of a ring; the start-up list acts as one of PRIO 3 (R532). -/
def State.prio (s : State) (n : Nat) : Nat := if n = listRing then 3 else s.ringFld HIF_RING_CFG_PRIO cmdType n

/-- The ring served next: highest PRIO first, round robin within one PRIO (R394). While host DMA waits, that is the start-up list
alone, whose entries need none (R383, R384, R532). -/
def State.nextRing (s : State) : Option Nat :=
  let ready := (List.range 65).filter fun n => if n = listRing then s.listReady else !s.dmaHeld && s.servable n
  let pick := fun p =>
    let l := ready.filter fun n => s.prio n = p
    let last := Tab.lookD s.hif.lastServed p listRing
    match l.find? fun n => last < n with
    | some n => some n
    | none => l.head?
  ((pick 3 <|> pick 2) <|> pick 1) <|> pick 0

/-- An accepted command enters the list of those at work. -/
def State.accept (s : State) (ring index peer : Nat) (b : Bytes) : State :=
  let c : HostCmd :=
    { id := s.hif.nextId, ring := ring, index := index, peer := peer, bytes := b, started := false,
      result := (headerStatus b).map fun st => (st, 0, noInfo (u8 b 0)) }
  (s.setHif { s.hif with accepted := s.hif.accepted ++ [c], nextId := s.hif.nextId + 1 }).count HIF_CMD_COUNT_COUNT 1

/-- SCH accepts the next command. The operand is what the fetch of a host ring's entry returns; an entry that was read
before its FENCE let it pass is not read again (R391). After the last boundary before a sleep none is accepted (DESIGN CHOICE, log
243). -/
def State.acceptNext (s : State) (entry : Option Bytes) : State :=
  if !s.schUp || s.schQuiet || s.power.lastBoundary then s
  else
    match s.nextRing with
    | none => s
    | some n =>
      let served := fun (s : State) => s.setHif { s.hif with lastServed := Tab.put s.hif.lastServed (s.prio n) n }
      if n = listRing then
        let s := served s
        match s.boot.list with
        | [] => s
        | b :: rest =>
          ((s.setBoot { s.boot with list := rest }).accept listRing s.boot.listIndex noPeer (padTo 64 (b.take 64))).showXspi
      else
        let r := s.ring cmdType n
        match r.held <|> entry with
        | none => (s.dmaError).ringError 2 cmdType n r.head r.head
        | some e =>
          let b := padTo 64 (e.take 64)
          if (u8 b 1).testBit 0 && !(s.outstanding n).isEmpty then s.setRing cmdType n { r with held := some b }
          else
            let s := served s
            let p := s.ringFld HIF_RING_CFG_PEER cmdType n
            let q := s.ring cplType p
            ((s.setRing cmdType n { r with head := (r.head + 1) % 65536, held := none }).setRing cplType p
              { q with reserved := q.reserved + 1 }).accept n r.head p b

def execCommandAccept (entry : Option Bytes) (s : State) : Host.Outcome State Fault Refusal :=
  act s fun s => s.acceptNext entry

/-! ### Completion (R403, R393, R532) -/

/-- The list's progress in ID_BOOT after one of its commands (R532, R533). -/
def State.listStep (s : State) (status : Nat) : State :=
  let i := s.boot.listIndex
  let s := s.setBoot { s.boot with listIndex := i + 1 }
  if status = stOk then
    let s := s.setFld ID_BOOT_LIST_DONE (s.fld ID_BOOT_LIST_DONE + 1)
    if s.boot.list.isEmpty then s.setFld ID_BOOT_LIST_BUSY 0 else s
  else
    ((s.setBoot { s.boot with list := [] }).setFlds [(ID_BOOT_LIST_FAIL, i), (ID_BOOT_LIST_STATUS, status)]).setFld
      ID_BOOT_LIST_BUSY 0

/-- The earliest finished command whose completion can be posted: those of host rings wait while host DMA does (R383, R384), and
in sleep no ring is active (R495). -/
def State.nextDone (s : State) : Option HostCmd :=
  if s.asleep then none else s.hif.accepted.find? fun c => c.result.isSome && (c.fromList || !s.dmaHeld)

/-- Posts the completion of a finished command; `dmaOk` false is a failed entry write. -/
def State.postCompletion (s : State) (c : HostCmd) (r : Nat × Nat × Nat) (dmaOk : Bool) : State :=
  let s := s.setHif { s.hif with accepted := s.hif.accepted.filter fun x => x.id != c.id }
  if c.fromList then (s.listStep r.1).showXspi
  else if c.peer = noPeer || !s.ringOn cplType c.peer then s
  else
    let q := s.ring cplType c.peer
    let s := s.setRing cplType c.peer { q with reserved := q.reserved - 1 }
    if s.ringHalted cplType c.peer then s
    else if !dmaOk then s.dmaError.ringError 3 cplType c.peer q.tail q.tail
    else
      ((s.dmaEntry (s.entryAddr cplType c.peer q.tail) (completion c q.phase r.1 r.2.1 r.2.2)).advance cplType
        c.peer).postSignal cplType c.peer

/-- The earliest finished command posts its completion. -/
def execCommandComplete (dmaOk : Bool) (s : State) : Host.Outcome State Fault Refusal :=
  act s fun s =>
    match s.nextDone with
    | none => s
    | some c => s.postCompletion c (c.result.getD (0, 0, 0)) dmaOk

end Sys2Proof.Machine
end

