-- ==== Sys2Proof/Machine/Pool.lean ====
section
/-! DEFINITION. Range entries of a program (R293, R296, R297), the tensor pool (R298 to R306), the pool's registers and line
repair (R312, R322). -/

namespace Sys2Proof.Machine

/-! ### Range entries (R293) -/

/-- A range entry of LPDDR_SLOTS. -/
structure MemRange where
  pool : Bool
  zero : Bool
  keep : Bool
  num : Nat
  base : Nat
  size : Nat
  deriving DecidableEq, Repr

def memRange (e : Bytes) : MemRange :=
  { pool := (u8 e 1).testBit 0, zero := (u8 e 1).testBit 1, keep := (u8 e 1).testBit 2, num := u16 e 2,
    base := leNat (slice e 4 5), size := 256 * u32 e 12 }

/-- The range entries of a schedule. -/
def imgRangesOf (b : Bytes) (env : Nat) : List MemRange :=
  ((imgEntries b tyLpddrSlots env secAll).filter fun e => u8 e 0 = 1).map memRange

/-- The range entries of a program, which every schedule carries alike. -/
def imgMemRanges (b : Bytes) : List MemRange := imgRangesOf b ((imgEnvList b).headD 0)

/-- Fixed ranges of services that hold tiles, beside one service. -/
def State.fixedRanges (s : State) (except_ : Nat) : List MemRange :=
  s.services.flatMap fun e =>
    if e.2.phase.holds && e.1 != except_ then (imgMemRanges e.2.image).filter fun r => !r.pool else []

/-! ### The pool -/

/-- Window pages that a range occupies (R299). -/
def PoolRange.pages (r : PoolRange) : Nat :=
  if r.size = 0 then 0 else (r.base + r.size - 1) / frameBytes - r.base / frameBytes + 1

/-- The range holds frames. -/
def PoolRange.inFrames (r : PoolRange) : Bool := !r.frames.isEmpty

/-- A range is resident when its pages hold their frames and no restore fills them (R300). -/
def PoolRange.resident (r : PoolRange) : Bool := r.wherein = .held

/-- Frames of the pool that no range holds, lowest first. -/
def State.poolFree (s : State) : List Nat :=
  let used := s.mem.pool.flatMap (·.frames)
  ((List.range (s.fld MEM_POOL_SIZE_FRAMES)).map (s.fld MEM_POOL_BASE_FRAME + ·)).filter fun f => !used.contains f

def State.setPool (s : State) (l : List PoolRange) : State := s.setMem { s.mem with pool := l }

/-- The same range of the same service. -/
def PoolRange.same (a b : PoolRange) : Bool := a.svc == b.svc && a.range == b.range && a.life == b.life

/-- Replaces a range, or drops it. -/
def State.putRange (s : State) (r : PoolRange) : State := s.setPool (s.mem.pool.map fun q => if q.same r then r else q)
def State.dropRange (s : State) (r : PoolRange) : State := s.setPool (s.mem.pool.filter fun q => !q.same r)

/-- Ranges of a service. -/
def State.poolOf (s : State) (svc : Nat) : List PoolRange := s.mem.pool.filter fun r => r.svc = svc && !r.dying

/-- The range is on the move between its frames and T4, or to be (R302, R303). -/
def PoolRange.moves (r : PoolRange) : Bool := r.wherein = .writingBack || r.wherein = .restoring

/-- Its service gives a range up: at once, or after the move in progress (R304, R305). -/
def PoolRange.giveUp (r : PoolRange) : Option PoolRange := if r.moves then some { r with dying := true } else none

/-- Every pool range of the service is resident (R300). -/
def State.poolResident (s : State) (svc : Nat) : Bool := (s.poolOf svc).all (·.resident)

/-- Services that wait for residency. -/
def State.poolWaiting (s : State) : List (Nat × Nat) :=
  (s.services.filter fun e => e.2.phase = .waiting).map fun e => (e.1, e.2.waitSince)

/-- The service that has waited longest; on a tie the lower number (R301). -/
def State.poolFirst (s : State) : Option Nat :=
  (s.poolWaiting.foldl (fun (o : Option (Nat × Nat)) e =>
    match o with
    | none => some e
    | some b => if e.2 < b.2 then some e else some b) none).map (·.1)

/-- A range is given up: its frames become free at once and its data are lost (R302). -/
def State.poolDiscard (s : State) (r : PoolRange) : State :=
  let s := s.putRange { r with wherein := .lost, frames := [], fails := 0, tainted := false, redo := false }
  (s.count MEM_DISCARD_COUNT_COUNT 1).flagWith MEM_STATUS_DISCARD
    (leBytes 1 r.svc ++ [0] ++ leBytes 2 r.range)

/-- What the backing table holds for a range: 0 for no backing, none for a failed read (R302, R306). -/
def State.backingOf (s : State) (backing : HostWords) (r : PoolRange) : Option Nat :=
  if !s.bit MEM_BACKING_BASE_EN || 255 < r.range then some 0
  else (Tab.look backing (s.fld MEM_BACKING_BASE_ADDR * 4096 + 16 * (256 * r.svc + r.range))).map (·.toNat)

/-- A failed write-back: the range stays held; the third in a row discards it (R306). -/
def State.writeBackFails (s : State) (r : PoolRange) : State :=
  let s := s.dmaError
  if 2 ≤ r.fails then s.poolDiscard r else s.putRange { r with wherein := .held, fails := r.fails + 1 }

/-- Evicts a range (R302). -/
def State.evict (s : State) (backing : HostWords) (r : PoolRange) : State :=
  match s.backingOf backing r with
  | none => s.writeBackFails r
  | some a => if a = 0 then s.poolDiscard r else s.putRange { r with wherein := .writingBack, backing := a }

/-- Order of eviction: oldest first, then the higher service number, then the higher range number (R301). -/
def evictBefore (a b : PoolRange) : Bool :=
  decide (a.touched < b.touched) ||
    (a.touched == b.touched && (decide (b.svc < a.svc) || (a.svc == b.svc && decide (b.range < a.range))))

def insertEvict (r : PoolRange) : List PoolRange → List PoolRange
  | [] => [r]
  | q :: l => if evictBefore r q then r :: q :: l else q :: insertEvict r l

/-- Ranges that may be evicted for a waiting service, in order. -/
def State.evictable (s : State) (svc : Nat) : List PoolRange :=
  (s.mem.pool.filter fun r => r.wherein = .held && r.svc != svc && decide (r.touched < s.tick)).foldl
    (fun l r => insertEvict r l) []

/-- Takes free frames for a range and begins its restore. -/
def State.startRestore (s : State) (r : PoolRange) : State :=
  s.putRange { r with frames := s.poolFree.take r.pages, wherein := .restoring, origin := r.wherein, redo := false }

/-- Ranges that are not resident and not on the move. -/
def PoolRange.needs (r : PoolRange) : Bool := r.wherein = .backed || r.wherein = .lost || r.wherein = .never

/-- Begins the restores for which free frames suffice, in range order, until one finds too few. -/
def State.restoreAll (s : State) : List PoolRange → State
  | [] => s
  | r :: l => if r.pages ≤ s.poolFree.length then (s.startRestore r).restoreAll l else s

/-- Evicts ranges until the frames that are free or being emptied suffice. -/
def State.evictAll (s : State) (backing : HostWords) (missing : Nat) : List PoolRange → State
  | [] => s
  | r :: l => if missing = 0 then s else (s.evict backing r).evictAll backing (missing - r.pages) l

/-- SCH serves the service that has waited longest (R301). Evictions happen at a boundary, when `backing` holds what
reads of the backing table return. -/
def State.poolServe (s : State) (backing : Option HostWords) : State :=
  if !s.schUp then s
  else
    match s.poolFirst with
    | none => s
    | some svc =>
      let needs := (s.poolOf svc).filter (·.needs)
      let want := needs.foldl (fun n r => n + r.pages) 0
      let soon := s.poolFree.length +
        (s.mem.pool.filter fun r => r.wherein = .writingBack && r.svc != svc).foldl (fun n r => n + r.pages) 0
      let l := s.evictable svc
      let more := l.foldl (fun n r => n + r.pages) 0
      let s := match backing with
        | none => s
        | some b => if soon < want && want ≤ soon + more then s.evictAll b (want - soon) l else s
      s.restoreAll needs

/-- A boundary's pool work after the programs have started: failed restores begin again, and the longest waiting service
is served. Evictions wait while the backing table cannot be read (R383, R384). -/
def State.poolBoundary (s : State) (backing : HostWords) : State :=
  (s.whenB s.schUp fun s => s.setPool (s.mem.pool.map fun r => { r with redo := false })).poolServe
    (if s.dmaHeld && s.bit MEM_BACKING_BASE_EN then none else some backing)

/-- Usable address of a byte of a range at an offset of the window. -/
def PoolRange.place (r : PoolRange) (off : Nat) : Nat :=
  r.frames.getD (off / frameBytes - r.base / frameBytes) 0 * frameBytes + off % frameBytes

/-- The words of a range in its frames, page by page. -/
def State.rangeReadGo : Nat → State → PoolRange → Nat → Nat → State × List MWord
  | 0, s, _, _, _ => (s, [])
  | k + 1, s, r, off, n =>
    if n = 0 then (s, [])
    else
      let m := min n ((frameBytes - off % frameBytes) / 16)
      let a := s.memRead (r.place off) m
      let b := State.rangeReadGo k a.1 r (off + 16 * m) (n - m)
      (b.1, a.2 ++ b.2)

def State.rangeWriteGo : Nat → State → PoolRange → Nat → List MWord → State
  | 0, s, _, _, _ => s
  | k + 1, s, r, off, ws =>
    if ws.isEmpty then s
    else
      let m := min ws.length ((frameBytes - off % frameBytes) / 16)
      State.rangeWriteGo k (s.memWrite (r.place off) (ws.take m)) r (off + 16 * m) (ws.drop m)

/-- A move has ended: the range of a stopped service that does not keep it is freed (R305). -/
def State.afterMove (s : State) (r : PoolRange) : State := if r.dying then s.dropRange r else s.putRange r

/-- The write-back of the lowest range at one completes; while host DMA waits none does (R302, R305). -/
def State.writeBackDone (s : State) : State :=
  match s.mem.pool.find? fun r => r.wherein = .writingBack && !s.dmaHeld with
  | none => s
  | some r =>
    let q := State.rangeReadGo (r.pages + 1) s r r.base (r.size / 16)
    let taint := q.2.any (·.poison)
    let s := (q.1.dma r.backing (wordBytes q.2)).whenB taint fun s => s.flag MEM_STATUS_TAINT
    let s := (s.count MEM_EVICT_COUNT_COUNT 1).flag MEM_STATUS_EVICT
    let keep := s.poolFirst = some r.svc && !r.dying
    let r := { r with fails := 0, tainted := taint && !keep }
    (s.afterMove (if keep then { r with wherein := .held } else { r with wherein := .backed, frames := [] })).poolServe none

def execPoolWriteBackDone (s : State) : Host.Outcome State Fault Refusal := act s State.writeBackDone

/-- A restore that may complete now. -/
def State.restorable (s : State) (r : PoolRange) : Bool :=
  r.wherein = .restoring && !r.redo && !(s.dmaHeld && r.origin = .backed)

/-- A failed restore: its frames stay taken and it starts again at the next boundary; after the third in a row the range
is zero-filled and lost (R306). -/
def State.restoreFails (s : State) (r : PoolRange) : State :=
  let s := s.dmaError
  if 2 ≤ r.fails then s.putRange { r with fails := 0, origin := .lost, tainted := false }
  else s.putRange { r with fails := r.fails + 1, redo := true }

/-- The restore of the lowest range at one completes (R303); that a range came back lost or tainted marks the next tick that its service
runs, also where the service stops before (DESIGN CHOICE, log 247). A range read from T4 takes the bytes that host DMA
returned, and waits while host DMA does (R305). -/
def State.restoreDone (s : State) (data : Option Bytes) : State :=
  match s.mem.pool.find? s.restorable with
  | none => s
  | some r =>
    let fill := fun (s : State) (ws : List MWord) =>
      (State.rangeWriteGo (r.pages + 1) s r r.base ws).afterMove { r with wherein := .held, fails := 0, tainted := false }
    if r.origin = .backed then
      match data with
      | none => s.restoreFails r
      | some d =>
        let ws := (words128 (sliceZ d 0 r.size)).map fun w => MWord.mk w r.tainted
        (fill s ws).whenB (r.tainted && !r.dying) fun s => s.modSvc r.svc fun v => { v with poolTaint := true }
    else
      (fill s (List.replicate (r.size / 16) MWord.zero)).whenB (r.origin = .lost && !r.dying) fun s =>
        s.modSvc r.svc fun v => { v with poolDiscard := true }

def execPoolRestoreDone (data : Option Bytes) (s : State) : Host.Outcome State Fault Refusal :=
  act s fun s => s.restoreDone data

/-- The DMA of a range's move fails. -/
def State.moveFails (s : State) (r : PoolRange) : State :=
  if r.wherein = .writingBack then
    if r.dying then s.dmaError.dropRange r else s.writeBackFails r
  else if r.wherein = .restoring && r.origin = .backed && !r.redo then s.restoreFails r
  else s

/-- A range at a DMA. -/
def PoolRange.moving (r : PoolRange) : Bool :=
  r.wherein = .writingBack || (r.wherein = .restoring && r.origin = .backed && !r.redo)

def execPoolDmaFailure (s : State) : Host.Outcome State Fault Refusal :=
  act s fun s =>
    match s.mem.pool.find? (·.moving) with
    | none => s
    | some r => s.moveFails r

/-- A host-interface reset cuts off every pool DMA in progress (R305, R384). -/
def State.poolCut (s : State) : State := (s.mem.pool.filter (·.moving)).foldl State.moveFails s

/-- A kept range takes the base of the range entry that takes it over. Where the base lies at another place in its window page,
the data move to that place in the frames; where too few frames are free for the pages it then occupies, the data are lost
(log 219). -/
def State.rebase (s : State) (r : PoolRange) (base : Nat) : State × PoolRange :=
  let q := { r with base := base }
  if r.base % frameBytes = base % frameBytes || !r.inFrames then (s, q)
  else
    let q := { q with frames := (r.frames ++ s.poolFree).take q.pages }
    if q.frames.length < q.pages then (s, { q with frames := [], wherein := .lost })
    else if r.wherein = .restoring then (s, q)
    else
      let x := State.rangeReadGo (r.pages + 1) s r r.base (r.size / 16)
      (State.rangeWriteGo (q.pages + 1) x.1 q base x.2, q)

/-- The pool ranges of a service that starts: kept ranges of the same number and size are taken over, the others of that
service are freed, after a move in progress (R304, R305). -/
def State.poolStart (s : State) (svc : Nat) (ranges : List MemRange) : State :=
  let ranges := ranges.filter (·.pool)
  let old := s.poolOf svc
  let kept := fun (m : MemRange) => old.find? fun r => r.range = m.num && r.size = m.size
  let insert := fun (l : List PoolRange) (r : PoolRange) =>
    l.filter (fun q => q.svc < r.svc || (q.svc = r.svc && q.range ≤ r.range)) ++ [r] ++
      l.filter fun q => r.svc < q.svc || (q.svc = r.svc && r.range < q.range)
  let s := s.setPool (s.mem.pool.filterMap fun r =>
    if r.svc != svc || r.dying || ranges.any fun m => r.range = m.num && r.size = m.size then some r else r.giveUp)
  ranges.foldl (fun (s : State) m =>
    match kept m with
    | some r =>
      let x := s.rebase r m.base
      x.1.putRange { x.2 with keep := m.keep }
    | none =>
      s.setPool (insert s.mem.pool
        { svc := svc, range := m.num, base := m.base, size := m.size, keep := m.keep, wherein := .never, frames := [],
          touched := s.tick, tainted := false, fails := 0, backing := 0, origin := .never, redo := false, dying := false,
          life := (s.mem.pool.filter fun q => q.svc = svc && q.range = m.num).foldl (fun n q => max n (q.life + 1)) 0 })) s

/-- The pool ranges of a service that stops: those without KEEP are freed, after a move in progress (R304, R305). -/
def State.poolStop (s : State) (svc : Nat) : State :=
  s.setPool (s.mem.pool.filterMap fun r =>
    if r.svc != svc || r.keep || r.dying then some r else r.giveUp)

/-- The pool ranges of a service that runs a tick are touched (R300). -/
def State.poolTouch (s : State) (svc : Nat) : State :=
  s.setPool (s.mem.pool.map fun r => if r.svc = svc then { r with touched := s.tick } else r)

/-! ### Registers (R298, R322) -/

/-- A write of MEM_POOL_BASE or MEM_POOL_SIZE. The pool must lie in usable space and outside the coded regions. -/
def State.poolSetting (s : State) (size : Bool) (v : Nat) : State :=
  let t := s.setFld (if size then MEM_POOL_SIZE_FRAMES else MEM_POOL_BASE_FRAME) (v % 65536)
  let fits := decide ((t.fld MEM_POOL_BASE_FRAME + t.fld MEM_POOL_SIZE_FRAMES) * frameBytes ≤ s.usable)
  if s.bit MEM_CTL_POOL_EN || !fits || !t.regionsOk then s.flag MEM_STATUS_ACCESS else t

def execMemPoolSettingWrite (size : Bool) (value : Word) (s : State) : Host.Outcome State Fault Refusal :=
  hostAct (if size then MEM_POOL_SIZE.off else MEM_POOL_BASE.off) s fun s => s.poolSetting size value.toNat

/-- A write of MEM_CTL. POOL_EN is cleared only when no pool range exists. -/
def State.memCtl (s : State) (v : Nat) : State :=
  let s := s.setFlds [(MEM_CTL_WARN, bitsOf v 15 8), (MEM_CTL_REPAIR_EN, bitsOf v 2 2)]
  if v.testBit 1 then s.setFld MEM_CTL_POOL_EN 1
  else if s.bit MEM_CTL_POOL_EN && !s.mem.pool.isEmpty then s.flag MEM_STATUS_ACCESS
  else s.setFld MEM_CTL_POOL_EN 0

def execMemPoolEnWrite (value : Word) (s : State) : Host.Outcome State Fault Refusal :=
  hostAct MEM_CTL.off s fun s => s.memCtl value.toNat

/-! ### Line repair (R312) -/

/-- The line queued first is repaired. -/
def execLineRepair (s : State) : Host.Outcome State Fault Refusal :=
  act s fun s =>
    match s.mem.repairQueue with
    | [] => s
    | a :: r => (s.setMem { s.mem with repairQueue := r }).repairAt a

end Sys2Proof.Machine
end

