-- ==== Sys2Proof/Machine/Net.lean ====
section
/-! DEFINITION. Frames that leave the Ethernet ports: VLAN tags and queues, IPv4 and UDP with their checksums, and Worham
frames (R344 to R347, R372, R378, R413, R414, R432, R433). -/

namespace Sys2Proof.Machine

/-! ### Ports (R343, R378) -/

/-- A field of a per-port register: 4 or 8 bytes apart. -/
def portCtl (f : Fld) (p : Nat) : Fld := f.at (4 * p)
def portReg (f : Fld) (p : Nat) : Fld := f.at (8 * p)

def State.portOn (s : State) (p : Nat) : Bool := s.bit (portCtl INT_PORT_CTL_EN p)
def State.linkUp (s : State) (p : Nat) : Bool := s.bit (if p = 0 then INT_PORT_STAT_LINK0 else INT_PORT_STAT_LINK1)
def State.portMac (s : State) (p : Nat) : Nat := s.fld (portReg INT_MAC_MAC p)
def State.portIp (s : State) (p : Nat) : Nat := s.fld (portReg INT_IP_ADDR p)

/-- VLAN identifier that entry k of a port names; untagged for a number above 3 and for an entry that is not enabled. -/
def State.vlanOf (s : State) (p k : Nat) : Option Nat :=
  if 4 ≤ k then none
  else
    let v := s.whole (0x600038 + 8 * p) 0
    if bitsOf v (16 * k + 15) (16 * k + 15) = 1 then some (bitsOf v (16 * k + 11) (16 * k)) else none

/-- Port selection of a two-bit PORT field of egress and stream registers: 0 ETH0, 1 ETH1, otherwise both. -/
def portsOf (v : Nat) : List Nat := if v = 0 then [0] else if v = 1 then [1] else [0, 1]

/-- An Ethernet frame, without its check sequence, padded to the least size. -/
def ethFrame (dst src : Nat) (vlan : Option Nat) (pcp etherType : Nat) (body : Bytes) : Bytes :=
  let tag := match vlan with
    | none => []
    | some v => beBytes 2 0x8100 ++ beBytes 2 (pcp * 8192 + v)
  padTo 60 (beBytes 6 dst ++ beBytes 6 src ++ tag ++ beBytes 2 etherType ++ body)

/-! ### IPv4 and UDP (R346) -/

/-- One's-complement sum of 16-bit words in network order. -/
def sum16 (b : Bytes) : Nat :=
  let n := (chunks 2 b).foldl (fun a c => a + beNat (padTo 2 c)) 0
  let n := n % 65536 + n / 65536
  n % 65536 + n / 65536

def inetChecksum (b : Bytes) : Nat := 65535 - sum16 b

/-- An IPv4 packet. The spec fixes neither its identification nor its flags (log 16). -/
def ipPacket (proto dscp ttl src dst : Nat) (opts body : Bytes) : Bytes :=
  let hl := 5 + opts.length / 4
  let h := fun (c : Nat) => leBytes 1 (64 + hl) ++ leBytes 1 (4 * dscp) ++ beBytes 2 (4 * hl + body.length) ++
    beBytes 2 Config.ipIdent ++ beBytes 2 Config.ipFlags ++ leBytes 1 ttl ++ leBytes 1 proto ++ beBytes 2 c ++ beBytes 4 src ++
    beBytes 4 dst ++ opts
  h (inetChecksum (h 0)) ++ body

/-- A UDP datagram with its checksum. -/
def udpBody (src dst sport dport : Nat) (data : Bytes) : Bytes :=
  let n := 8 + data.length
  let h := fun (c : Nat) => beBytes 2 sport ++ beBytes 2 dport ++ beBytes 2 n ++ beBytes 2 c
  let c := inetChecksum (beBytes 4 src ++ beBytes 4 dst ++ beBytes 2 17 ++ beBytes 2 n ++ h 0 ++ data)
  h (if c = 0 then 65535 else c) ++ data

/-- Ethernet address of a group address. -/
def mcastMac (ip : Nat) : Nat := 0x01005E000000 + ip % 0x800000
def isMcast (ip : Nat) : Bool := ip / 0x10000000 == 14

/-! ### Transmit queues (R345, R372) -/

/-- A whole frame leaves a port, or is dropped and counted when the port has no link (R372). -/
def State.sendRaw (s : State) (p pcp : Nat) (b : Bytes) : State :=
  if s.linkUp p && s.portOn p then s.emit (.frame p pcp b)
  else (s.count INT_TX_DROP_COUNT_COUNT 1).flag INT_STATUS_TX_DROP

/-- Nothing of this PCP or a higher one waits on a port. -/
def State.txFree (s : State) (p pcp : Nat) : Bool := s.intake.egress.all fun (d : Datagram) => d.port != p || decide (d.pcp < pcp)

/-- A frame leaves a port at once, unless a frame of its PCP or a higher one waits there: then it waits behind it (R345). -/
def State.sendEth (s : State) (p pcp dst : Nat) (vlan : Option Nat) (etherType : Nat) (body : Bytes) : State :=
  let b := ethFrame dst (s.portMac p) vlan pcp etherType body
  if s.txFree p pcp then s.sendRaw p pcp b
  else
    let d : Datagram := { port := p, profile := 16, pcp := pcp, dst := 0, dscp := 0, srcPort := 0, dstPort := 0, svc := 0,
                          records := 0, body := [], raw := some b, ptp := none }
    s.setIntake { s.intake with egress := s.intake.egress ++ [d] }

/-- The frame that leaves a port next: the earliest of the highest queue. -/
def nextDatagram (p : Nat) (l : List Datagram) : Option Datagram :=
  let l := l.filter fun (d : Datagram) => d.port = p
  let top := l.foldl (fun n (d : Datagram) => max n d.pcp) 0
  l.find? fun (d : Datagram) => d.pcp = top

/-- Removes the earliest entry that equals one. -/
def dropOne (d : Datagram) : List Datagram → List Datagram
  | [] => []
  | x :: l => if x = d then l else x :: dropOne d l

/-- The UDP datagram of an untagged IPv4 frame with its checksum formed anew. -/
def udpAgain (b : Bytes) : Bytes :=
  let data := slice b 42 (beNat (slice b 38 2) - 8)
  b.take 34 ++ udpBody (beNat (slice b 26 4)) (beNat (slice b 30 4)) (beNat (slice b 34 2)) (beNat (slice b 36 2)) data ++
    b.drop (42 + data.length)

/-- A PTP event message leaves that has waited: its stamp is that of now. A request's is held until it is answered, and an answer's
goes into the message's correction (R349). -/
def State.stampLeaving (s : State) (d : Datagram) (b : Bytes) : State × Bytes :=
  match d.ptp with
  | none => (s, b)
  | some (off, was) =>
    if u8 b off % 16 = 3 then
      let c := sext 64 (beNat (slice b (off + 8) 8)) + (s.ptpNs - was) * 65536
      let m := b.take (off + 8) ++ beBytes 8 (trunc 64 c) ++ b.drop (off + 16)
      (s, if off = 42 then udpAgain m else m)
    else
      let q := beNat (slice b (off + 30) 2)
      let p := s.intake.ptp
      let req := p.delayReq.map fun x => if x.1 = q then (q, s.ptpNs) else x
      (s.setIntake { s.intake with ptp := { p with delayReq := req } }, b)

/-- The frames that no event datagram of a port holds back leave. -/
def State.txGo : Nat → State → Nat → State
  | 0, s, _ => s
  | n + 1, s, p =>
    match nextDatagram p s.intake.egress with
    | none => s
    | some d => d.raw.elim s fun b =>
      let r := (s.setIntake { s.intake with egress := dropOne d s.intake.egress }).stampLeaving d b
      State.txGo n (r.1.sendRaw p d.pcp r.2) p

def State.txFlush (s : State) (p : Nat) : State := State.txGo s.intake.egress.length s p

/-! ### Worham frames (R413, R414, R432, R433) -/

def State.cnsMember (s : State) : Nat := if s.bit CNS_ID_LEADER then 0 else s.fld CNS_ID_MEMBER
def State.cnsLeader (s : State) : Bool := s.bit CNS_ID_LEADER
def State.inEpoch (s : State) : Bool := s.consort.formed

/-- Known MAC address of a member. -/
def State.peerMac (s : State) (m : Nat) : Option Nat :=
  if (s.fld CNS_MASK_KNOWN).testBit m then (Tab.look s.consort.peers m).bind (·.1) else none

/-- The body of a Worham frame. -/
def State.cnsBody (s : State) (type dst : Nat) (data : Bytes) : Bytes :=
  [1] ++ leBytes 1 type ++ leBytes 1 s.cnsMember ++ leBytes 1 dst ++ leBytes 4 (s.fld CNS_CONSORT_ID_ID) ++
    leBytes 4 (s.fld CNS_EPOCH_EPOCH) ++ leBytes 4 s.consort.seq ++ data

/-- Sends a Worham frame to a MAC address; SEQ increases for every frame. -/
def State.cnsSendMac (s : State) (type mac : Nat) (body : Bytes) : State :=
  let p := s.fld CNS_CTL_PORT
  let pcp := min 6 (if type ≤ 8 then s.fld CNS_CTL_PCP_TOKEN else s.fld CNS_CTL_PCP_TENSOR)
  let s' := s.setCns { s.consort with seq := (s.consort.seq + 1) % 2 ^ 32 }
  s'.sendEth p pcp mac (s.vlanOf p (s.fld CNS_CTL_VLAN)) (s.fld CNS_ETHERTYPE_TYPE) body

/-- Sends a frame to the group. -/
def State.cnsGroup (s : State) (type : Nat) (data : Bytes) : State :=
  s.cnsSendMac type (s.fld CNS_GROUP_MAC_MAC) (s.cnsBody type 0xFF data)

/-- Sends a frame to one member; nothing leaves while the member is not known. -/
def State.cnsTo (s : State) (type dst : Nat) (data : Bytes) : State :=
  match s.peerMac dst with
  | some mac => s.cnsSendMac type mac (s.cnsBody type dst data)
  | none => s

def tyToken : Nat := 1
def tyJoin : Nat := 2
def tyPropose : Nat := 3
def tyAccept : Nat := 4
def tyAbort : Nat := 5
def tyArm : Nat := 6
def tyApply : Nat := 7
def tyCancel : Nat := 8
def tyChainCmd : Nat := 0x20
def tyChainData : Nat := 0x21
def tyChainCredit : Nat := 0x22
def tyChainStatus : Nat := 0x23

/-- The target ends a session with a status and forgets it (R433). -/
def State.chainEnd (s : State) (session status detail info : Nat) : State :=
  match s.consort.sessions.find? fun x => x.id = session && !x.leads with
  | none => s
  | some x =>
    let s := s.setCns { s.consort with sessions := s.consort.sessions.filter fun y => !(y.id = session && !y.leads) }
    s.cnsTo tyChainStatus x.peer
      (leBytes 4 session ++ leBytes 1 status ++ leBytes 1 detail ++ leBytes 4 0 ++ leBytes 6 info)

end Sys2Proof.Machine
end

