-- ==== Sys2Proof/Machine/Nvs.lean ====
section
/-! DEFINITION. The controller of the weight store: page programs, erase batches with their journal, spares, refresh, the
host page read, the retention clocks, recovery and the start-up scan (R222 to R250, R263, R265 to R270). -/

namespace Sys2Proof.Machine

/-! ### Phases and limits (R226, R231, R249) -/

/-- Operations may start; none does while PWR_FAIL_N is asserted (R231). -/
def State.nvStarts (s : State) : Bool :=
  s.nvPhase == nvReady && !s.bit NVS_CTL_HOLD && !s.bit PWR_EMERG_PWR_FAIL && !s.power.lastBoundary && !s.asleep
def State.planeOps (s : State) : Nat := min 64 (max 1 (s.fld NVS_CTL_PLANE_OPS))
/-- Blocks of the open batch, while its erases are at work. -/
def State.batchEntries (s : State) : List (Nat × Nat × Nat) := s.liveBatch.elim [] (·.entries)
/-- Plane operations in progress. -/
def State.opsNow (s : State) : Nat := s.nv.ops.length + s.batchEntries.length
/-- A plane programs or erases. -/
def State.planeBusy (s : State) (sp : Nat) : Bool :=
  s.nv.ops.any (fun o => keySp o.block = sp) || s.batchEntries.any fun e => keySp e.1 = sp
/-- Bank number of a block in its slab (R209). -/
def State.bankNo (s : State) (bk : Nat) : Nat := s.np * keyBank bk + keyPlane bk
/-- A block's bank has a free window for a program that starts now. -/
def State.bankFree (s : State) (bk : Nat) : Bool := s.windowFree (keySlab bk) (s.bankNo bk) s.now programSpan
/-- The same for an erase in a batch that opens now: its pulses follow INTENT, which takes T_max of a program (R222, R230; DESIGN
CHOICE, log 240). -/
def State.bankErasable (s : State) (bk : Nat) : Bool :=
  s.windowFree (keySlab bk) (s.bankNo bk) (s.now + programSpan) eraseSpan

/-! ### Journal, wear, erase and spares (R228 to R230, R238, R239) -/

/-- "KNJR" as a number. -/
def journalMagic : Nat := 0x524A4E4B

/-- Bytes 0 to 4,091 of a record's page. -/
def JRecord.body (r : JRecord) : Bytes :=
  padTo 4092 (leBytes 4 r.magic ++ leBytes 1 r.type ++ leBytes 1 r.count ++ [0, 0] ++ leBytes 8 r.seq ++ leBytes 8 r.batch ++
    leBytes 8 r.tick ++ r.entries.flatMap fun e =>
      leBytes 1 (keySlab e.1) ++ leBytes 1 (keyPlane e.1) ++ leBytes 2 (keyPhys e.1) ++ leBytes 2 e.2.1 ++ leBytes 1 e.2.2 ++ [0])

/-- A record as it is written. -/
def journalRecord (type seq batch tick : Nat) (entries : List (Nat × Nat × Nat)) : JRecord :=
  let r : JRecord := { magic := journalMagic, type := type, count := entries.length, seq := seq, batch := batch, tick := tick,
                       entries := entries, crc := 0 }
  { r with crc := crc32 r.body }

/-- The valid records of a copy: those whose page reads, and whose CRC holds. `bad` is a copy that cannot be read at all;
`badRecords` lists 2 × SEQ + copy for each page that has an uncorrectable word. -/
def validRecords (l : List JRecord) (copy : Nat) (bad : Bool) (badRecords : List Nat) : List JRecord :=
  if bad then []
  else l.filter fun r => r.magic = journalMagic && r.crc = crc32 r.body && !badRecords.contains (2 * r.seq + copy)

/-- Writes a journal record to both copies (R229). -/
def State.journal (s : State) (type : Nat) (batch : Option Nat) (entries : List (Nat × Nat × Nat)) : State :=
  let seq := s.nv.journalSeq + 1
  let r := journalRecord type seq (batch.getD seq) s.tick entries
  s.setNv { s.nv with journalSeq := seq, journalA := s.nv.journalA ++ [r], journalB := s.nv.journalB ++ [r] }

/-- Counts an erase of a block (R239). -/
def State.wear (s : State) (bk : Nat) : State :=
  let n := min 0xFFFF ((s.block bk).erases + 1)
  (s.modBlock bk fun b => { b with erases := n }).whenB (decide (50000 ≤ n)) fun s => s.flag NVS_STATUS_WORN

/-- A block has passed its erase verify: its pages are blank. -/
def State.blank (s : State) (bk : Nat) : State :=
  (s.setNv { s.nv with pages := Tab.keep s.nv.pages fun k => k / 128 != bk }).modBlock bk fun b =>
    { b with erased := true, xo := false, born := none, senses := 0 }

/-- The same; where it clears XO, a new table version says so (R233, R246). -/
def State.wiped (s : State) (bk : Nat) : State :=
  (s.blank bk).whenB (s.block bk).xo fun s => s.tableWrite (keySlab bk)

/-- Erases one block in a batch of its own, as recovery does: INTENT, the erase, DONE (R230, R232). -/
def State.eraseNow (s : State) (bk logical reason : Nat) : State :=
  let s := s.journal 1 none [(bk, logical, reason)]
  let seq := s.nv.journalSeq
  ((((s.wear bk).wiped bk).count NVS_ERASE_COUNT_COUNT 1).journal 2 (some seq) [(bk, logical, reason)])

/-- A block that is taken as a spare and not known to be erased waits for an erase with reason 3 (R238). -/
def State.prepare (s : State) (k : Nat) : State :=
  if (s.block k).erased || s.nv.reErase.any (fun e => e.1 = k) then s
  else s.setNv { s.nv with reErase := s.nv.reErase ++ [(k, 0xFFFF, 3)] }

/-- Takes a spare of a bank (R238). -/
def State.takeSpare (s : State) (slab plane bank : Nat) : State × Option Nat :=
  match s.spare slab plane bank with
  | none => (s, none)
  | some k => (s.prepare k, some k)

/-- Marks a block grown bad: nothing more waits for it. -/
def State.growBad (s : State) (bk : Nat) : State :=
  let s := (s.modBlock bk fun b => { b with state := 3, erased := false }).flag NVS_STATUS_GROWN_BAD
  s.setNv { s.nv with refreshQueue := s.nv.refreshQueue.filter fun r => r.block != bk
                      reErase := s.nv.reErase.filter fun e => e.1 != bk }

/-- Maps a logical block to a spare of the bank of a block that held it, execute-only where `xo` says so; unmapped where there
is none. Answers the spare. -/
def State.relocate (s : State) (bk logical : Nat) (xo : Bool) : State × Option Nat :=
  let r := s.takeSpare (keySlab bk) (keyPlane bk) (keyBank bk)
  match r.2 with
  | none => (r.1.noteSpare bk, none)
  | some k => ((r.1.modBlock k fun b => { b with state := 1, logical := logical, xo := xo }).noteSpare k, some k)

/-! ### Slot records and the end of NV commands (R253, R261, R267, R403) -/

/-- Writes a slot's record, both copies at once. -/
def State.setSlot (s : State) (n : Nat) (v : Slot) : State :=
  let seq := s.nv.slotSeq + 1
  let v := { v with seq := seq }
  s.setNv { s.nv with slotSeq := seq, slots := Tab.put s.nv.slots n v, slotsA := Tab.put s.nv.slotsA n v,
                      slotsB := Tab.put s.nv.slotsB n v }
def State.modSlot (s : State) (n : Nat) (f : Slot → Slot) : State := s.setSlot n (f (s.slotOf n))

def slUndefined : Nat := 0
def slEmpty : Nat := 1
def slErasing : Nat := 2
def slProgramming : Nat := 3
def slInterrupted : Nat := 4
def slInvalid : Nat := 5
def slValid : Nat := 6
def slBound : Nat := 7
def slXo : Nat := 8

/-- Numbers from here on name a chained session in place of an accepted command. -/
def sessionBase : Nat := 2 ^ 32

/-- An NV command ends: the host command's completion, or the status frame of a chained session (R433). -/
def State.finishNv (s : State) (cmd status slab sector : Nat) : State :=
  let info := nvInfo slab sector thisDevice
  if sessionBase ≤ cmd then s.chainEnd (cmd - sessionBase) status 0 info else s.finish cmd status 0 info

/-- A program ends, its image key is erased (R516), and no relocation goes on for it. -/
def State.endProgram (s : State) (p : NvProgram) (slotState status slab sector : Nat) : State :=
  let s := s.setNv { s.nv with programs := s.nv.programs.filter fun q => q.slot != p.slot
                               copies := s.nv.copies.filter fun c => c.slot != some p.slot }
  (s.modSlot p.slot fun v => { v with state := slotState }).finishNv p.cmd status slab sector

/-! ### The manifest (R256 to R258) -/

def manSlabs (m : Bytes) : Nat := u8 m 7
def manXo (m : Bytes) : Bool := (u8 m 6).testBit 0
def manSlab (m : Bytes) (i : Nat) : Nat := u8 m (128 + 80 * i)
def manSectors (m : Bytes) (i : Nat) : Nat := u32 m (132 + 80 * i)
def manDigest (m : Bytes) (i : Nat) : Bytes := slice m (144 + 80 * i) 64
def manSigned (m : Bytes) : Bytes := m.take (128 + 80 * manSlabs m)
def manEntries (m : Bytes) : List (Nat × Nat) := (List.range (manSlabs m)).map fun i => (manSlab m i, manSectors m i)
/-- Entry of a slab. -/
def manEntry (m : Bytes) (slab : Nat) : Option Nat := (List.range (manSlabs m)).find? fun i => manSlab m i = slab
/-- Model-epoch digest (R273). -/
def epochDigest (m : Bytes) : Bytes := if m.isEmpty then List.replicate 32 0 else sha512_256 (manSigned m)

/-- Entry and sector of the n-th sector in payload order, from round k (R258); the fuel bounds the rounds. -/
def payloadGo (es : List (Nat × Nat)) : Nat → Nat → Nat → Option (Nat × Nat)
  | 0, _, _ => none
  | fuel + 1, k, n =>
    let l := ((List.range es.length).zip es).filter fun e => decide (k < e.2.2)
    if l.isEmpty then none
    else if n < l.length then (l[n]?).map fun e => (e.1, k)
    else payloadGo es fuel (k + 1) (n - l.length)

def payloadAt (m : Bytes) (n : Nat) : Option (Nat × Nat) := payloadGo (manEntries m) 131073 0 n

/-- Sectors of entry i that lie before the n-th in payload order. -/
def sectorsBefore (m : Bytes) (n i : Nat) : Nat :=
  match payloadAt m n with
  | none => manSectors m i
  | some (j, k) => min (manSectors m i) (if i < j then k + 1 else k)

/-- The sector that a program takes next: a resumed one passes over slabs that are done (R269). -/
def nextSector (m : Bytes) (done : Nat) : Nat → Nat → Option (Nat × Nat × Nat)
  | 0, _ => none
  | fuel + 1, n =>
    match payloadAt m n with
    | none => none
    | some (i, k) => if done.testBit (manSlab m i) then nextSector m done fuel (n + 1) else some (n, i, k)

/-! ### Page programs (R225 to R227, R265, R266) -/

/-- Slab page of sector k of a slot. -/
def State.sectorPage (s : State) (slot k : Nat) : Nat := k + s.slotBase slot / 4096

/-- Every slab of a program is done: its slot record is written and it completes, once SCH runs (R265, step 6; R270). -/
def State.programEnd (s : State) (p : NvProgram) : State :=
  let v := s.slotOf p.slot
  if s.schUp && (manEntries v.manifest).all fun e => v.slabsDone.getLsbD e.1 then
    let s := s.modSlot p.slot fun v => { v with epochDigest := (epochDigest v.manifest).take 16 }
    s.endProgram p (if manXo v.manifest then slXo else slValid) stOk noSlab noSector
  else s

/-- The programs that waited for SCH complete. -/
def State.programsEnd (s : State) : State := s.nv.programs.foldl State.programEnd s

/-- The slab's last sector has been programmed: the digest of its sectors as they were decrypted is compared, and a mismatch is a
verification that failed (R265, steps 4 and 5; R524). -/
def State.slabDone (s : State) (p : NvProgram) (slab : Nat) : State :=
  let v := s.slotOf p.slot
  let m := v.manifest
  match manEntry m slab with
  | none => s
  | some i =>
    let n := manSectors m i
    if v.slabsDone.getLsbD slab || sectorsBefore m p.next i < n ||
        s.nv.ops.any (fun o => o.slot = some p.slot && keySlab o.block = slab) ||
        s.nv.copies.any (fun c => c.slot = some p.slot && keySlab c.dest = slab) then s
    else
      if sha512 ((Tab.lookD p.streamed slab []).flatMap bytes128) = manDigest m i then
        let done := v.slabsDone ||| BitVec.ofNat 64 (2 ^ slab)
        (s.setSlot p.slot { v with slabsDone := done }).programEnd p
      else s.verifyFail.endProgram p slInvalid stDigestMismatch slab noSector

/-- The ciphertext of a sector: what a host DMA returned, LPDDR, or what a chained session has received. -/
def State.sourceSector (s : State) (p : NvProgram) (off : Nat) (dma : Option Bytes) : State × Option Bytes :=
  if p.source = 0 then (s, dma.map fun b => sliceZ b 0 4096)
  else if p.source = 1 then
    let r := s.memBytes (p.address + off) 4096
    (r.1, some r.2.1)
  else
    match s.consort.sessions.find? fun x => x.id + sessionBase = p.cmd && !x.leads with
    | some x => (s, some (sliceZ x.data off 4096))
    | none => (s, none)

/-- Host DMA feeds a program: its image lies in host memory. -/
def State.hostFed (s : State) (p : NvProgram) : Bool :=
  p.source = 0 && p.cmd < sessionBase && !(s.cmd p.cmd).any (·.fromList)

/-- The sector can be read now: of a chained program it has been received (R284), and host DMA does not wait where that reads
it (R383, R384). -/
def State.sourceReady (s : State) (p : NvProgram) (off : Nat) : Bool :=
  !(s.dmaHeld && s.hostFed p) && (p.source != 2 ||
    s.consort.sessions.any fun x => x.id + sessionBase = p.cmd && !x.leads && off + 4096 ≤ x.next)

/-- The block that a program's next page goes into, when all but a free window is at hand: its plane is idle and its source
ready. The inner option is none for a logical block without a physical one. -/
def State.programReady (s : State) (p : NvProgram) : Option (Option Nat) :=
  match nextSector (s.slotOf p.slot).manifest (s.slotOf p.slot).slabsDone.toNat 131073 p.next with
  | none => none
  | some (n, i, k) =>
    let m := (s.slotOf p.slot).manifest
    let pl := s.place (manSlab m i) (s.sectorPage p.slot k)
    if p.erase.isEmpty && s.sourceReady p (p.payload + 4096 * n) && !s.planeBusy (pl.slab * 4 + pl.plane) then
      match s.mapped pl.slab pl.plane pl.lblock with
      | none => some none
      | some bk =>
        if s.nv.reErase.any (fun e => e.1 = bk) || s.nv.copies.any (fun c => c.dest = bk) then none else some (some bk)
    else none

/-- A program's next page can start now. -/
def State.canProgram (s : State) (p : NvProgram) : Bool :=
  match s.programReady p with
  | none => false
  | some none => true
  | some (some bk) => s.bankFree bk

/-- Pages of a block that hold a program, complete ones only. -/
def State.programmed (s : State) (bk : Nat) : List (Nat × Page) :=
  (s.nv.pages.filter fun e => e.1 / 128 = bk && !e.2.partly).map fun e => (e.1 % 128, e.2)

/-- The status ORDER: the spec gives it no code (DESIGN CHOICE, log 37). -/
def stOrder : Nat := Config.orderStatus.toNat

/-- Starts the next page program of an NV_PROGRAM (R225, steps 1 to 5). `zeros` is what the blank check finds on a page
that holds nothing. -/
def State.startPage (s : State) (p : NvProgram) (zeros : Nat) (dma : Option Bytes) : State :=
  let v := s.slotOf p.slot
  match nextSector v.manifest v.slabsDone.toNat 131073 p.next with
  | none => s
  | some (n, i, k) =>
    let slab := manSlab v.manifest i
    let page := s.sectorPage p.slot k
    let pl := s.place slab page
    match s.mapped slab pl.plane pl.lblock with
    | none => s.endProgram p slInvalid stNoSpare slab k
    | some bk =>
      let b := s.block bk
      if !b.erased && (s.programmed bk).isEmpty && b.born.isNone then
        (s.setNv { s.nv with reErase := s.nv.reErase ++ [(bk, pl.lblock, 0)] })
      else
        let src := s.sourceSector p (p.payload + 4096 * n) dma
        let s := src.1
        match src.2 with
        | none => s.endProgram p slInvalid stHostDma slab k
        | some ct =>
          if (s.programmed bk).any fun e => decide (pl.pg ≤ e.1) then s.endProgram p slInvalid stOrder slab k
          else
            let s := s.sense bk 1
            if (s.pageAt bk pl.pg).isSome || 8 < zeros then
              (s.flag NVS_STATUS_NOT_ERASED).endProgram p slInvalid stNotErased slab k
            else
              let data := words128 (xtsDecrypt p.key (slab * 131072 + k) ct)
              let op : PageOp :=
                { start := s.now, page := slab * 2 ^ 17 + page, block := bk, data := data, kind := if manXo v.manifest then 2 else 1,
                  image := leNat (slice v.manifest 16 8), slot := some p.slot }
              let s := s.setNv { s.nv with
                ops := s.nv.ops ++ [op]
                programs := s.nv.programs.map fun q =>
                  if q.slot = p.slot then
                    { q with next := n + 1, streamed := Tab.put q.streamed slab (Tab.lookD q.streamed slab [] ++ data) }
                  else q }
              s.count NVS_PROG_COUNT_COUNT 1

/-- Writes a page into a block: its tag, its data, and what the block table notes. -/
def State.writePage (s : State) (bk : Nat) (pl : PagePlace) (kind image : Nat) (data : List QWord) : State :=
  let seq := s.nv.writeSeq + 1
  let page : Page := { words := data, tag := makeTag kind pl seq image, partly := false }
  let s := s.setNv { s.nv with writeSeq := seq, pages := Tab.put s.nv.pages (pageKey bk pl.pg) page }
  s.modBlock bk fun b =>
    { b with erased := false, born := some (b.born.getD (Tab.lookD s.nv.clocks (keySp bk) 0)), xo := b.xo || kind = 2 }

/-- Every block of a stripe is execute-only (R246). -/
def State.markXo (s : State) (slab lblock : Nat) : State :=
  (List.range s.np).foldl (fun s plane =>
    match s.mapped slab plane lblock with
    | some k => s.modBlock k fun b => { b with xo := true }
    | none => s) s

/-- The program at work on a slot ends with a status. -/
def State.failSlot (s : State) (slot : Option Nat) (status slab sector : Nat) : State :=
  match slot.bind fun n => s.nv.programs.find? fun p => p.slot = n with
  | none => s
  | some p => s.endProgram p slInvalid status slab sector

/-! Copies of a block's pages: relocations (R227) and refreshes (R243) -/

/-- Pages of a block below a limit that hold anything, in ascending order. -/
def State.pagesBelow (s : State) (bk limit : Nat) : List Nat :=
  ((s.nv.pages.filter fun e => e.1 / 128 = bk).map fun e => e.1 % 128).filter fun pg => decide (pg < limit)

/-- Page of its slab (R209). -/
def PagePlace.page (p : PagePlace) (np : Nat) : Nat := (p.lblock * 128 + p.pg) * np + p.plane

/-- The refresh in progress stops before its table version: L stays on P, S is free and not erased, and the block is queued
again (R243). -/
def State.refreshStops (s : State) : State :=
  match s.nv.refresh with
  | none => s
  | some r =>
    if r.mapped then s
    else
      let s := s.setNv { s.nv with refresh := none, copies := s.nv.copies.filter fun c => c.dest != r.spare }
      (s.modBlock r.spare fun b => if b.state = 3 then b else { b with state := 0, erased := false }).queueRefresh r.block r.cause

/-- Steps 4 and 5 of a refresh begin: a table version maps the logical block to the spare. -/
def State.refreshMapped (s : State) : State :=
  match s.nv.refresh with
  | none => s
  | some r =>
    let s := s.setNv { s.nv with refresh := some { r with mapped := true }, copies := s.nv.copies.filter fun c => c.dest != r.spare }
    (s.tableWrite (keySlab r.block)).count NVS_REFRESH_COUNT_COUNT 1

/-- A copy ends without its last page. -/
def State.copyFails (s : State) (c : BlockCopy) (status : Nat) : State :=
  let s := s.setNv { s.nv with copies := s.nv.copies.filter fun x => x.dest != c.dest }
  if c.slot.isNone then s.refreshStops
  else
    let pl : PagePlace := { slab := keySlab c.dest, plane := keyPlane c.dest, lblock := c.logical, pg := c.target.elim 0 (·.1) }
    s.failSlot c.slot status pl.slab (pl.page s.np - s.slotBase (c.slot.getD 0) / 4096)

/-- The copies into a block go into another from the start. -/
def State.redirect (s : State) (bk k : Nat) : State :=
  s.setNv { s.nv with
    copies := s.nv.copies.map fun c =>
      if c.dest = bk then { c with dest := k, todo := s.pagesBelow c.source (c.target.elim 128 (·.1)) } else c
    refresh := s.nv.refresh.map fun r => if r.spare = bk then { r with spare := k } else r }

/-- The page that a copy programs next. -/
def BlockCopy.next (c : BlockCopy) : Option Nat :=
  match c.todo with
  | pg :: _ => some pg
  | [] => c.target.map (·.1)

/-- An NV_PROGRAM or NV_ERASE is at work on a slab. -/
def State.slabAtWork (s : State) (slab : Nat) : Bool :=
  s.nv.programs.any (fun p => (s.slotOf p.slot).slabMask.getLsbD slab) || s.nv.erases.any fun e => e.slabs.getLsbD slab

/-- A copy can go on but for a free window: its spare is erased and its plane idle; a refresh rests while a command is at work on
its slab. -/
def State.copyReady (s : State) (c : BlockCopy) : Bool :=
  let b := s.block c.dest
  (b.erased || b.born.isSome) && !s.nv.reErase.any (fun e => e.1 = c.dest) && !s.planeBusy (keySp c.dest) &&
    (c.slot.isSome || !s.slabAtWork (keySlab c.dest))

/-- What a copy programs next, KIND, IMAGE and data: a page read of its source with every round, or the page that failed. A
page of a refresh that cannot be read is programmed as lost (R244). -/
def State.copyData (s : State) (c : BlockCopy) (pl : PagePlace) (rounds : List (List Nat)) :
    State × Nat × Nat × List QWord :=
  if c.todo.isEmpty then (s, c.target.elim (3, 0, []) (·.2))
  else
    let r := if c.slot.isSome then s.readQuiet c.source pl.pg pl rounds else s.readFull c.source pl.pg pl rounds
    match r.2 with
    | some (ws, tag) => (r.1, tagKind tag, leNat (slice tag 16 8), ws)
    | none => (r.1, 3, (s.pageAt c.source pl.pg).elim 0 (fun p => leNat (slice p.tag 16 8)), List.replicate 256 0)

/-- Starts the next page program of a copy (R225): its blank check, and the program. -/
def State.startCopy (s : State) (c : BlockCopy) (x : CopySenses) : State :=
  match c.next with
  | none => s
  | some pg =>
    let pl : PagePlace := { slab := keySlab c.dest, plane := keyPlane c.dest, lblock := c.logical, pg := pg }
    let s := s.sense c.dest 1
    if (s.pageAt c.dest pg).isSome || 8 < x.zeros then (s.flag NVS_STATUS_NOT_ERASED).copyFails c stNotErased
    else
      let r := s.copyData c pl x.rounds
      let op : PageOp := { start := s.now, page := pl.slab * 2 ^ 17 + pl.page s.np, block := c.dest, data := r.2.2.2, kind := r.2.1,
                           image := r.2.2.1, slot := c.slot }
      (r.1.setNv { r.1.nv with
        ops := r.1.nv.ops ++ [op]
        copies := r.1.nv.copies.map fun x => if x.dest = c.dest then { x with todo := x.todo.drop 1 } else x }).count
          NVS_PROG_COUNT_COUNT 1

/-- PAGE_PROGRAM_START: the next page of a program, or else of a copy, whose bank has a free window. `source` is what a host
DMA returns. -/
def execPageProgramStart (senses : CopySenses) (source : Option Bytes) (s : State) : Host.Outcome State Fault Refusal :=
  act s fun s =>
    if !s.nvStarts || s.planeOps ≤ s.opsNow then s
    else
      match s.nv.programs.find? fun p => s.canProgram p with
      | some p => s.startPage p senses.zeros source
      | none =>
        match s.nv.copies.find? fun c => s.copyReady c && s.bankFree c.dest with
        | some c => s.startCopy c senses
        | none => s

/-- A program verify fails: the block is grown bad, and its earlier pages and the page go into a spare (R227). Where a cancelled
refresh has left its last program on a block that holds no logical block, nothing moves (R236, R243). -/
def State.verifyFails (s : State) (o : PageOp) (pl : PagePlace) : State :=
  let s0 := s
  let s := ((s.growBad o.block).flag NVS_STATUS_PROG_FAIL).nvsErr 1 o.block pl.pg
  match s.nv.copies.find? fun c => c.dest = o.block with
  | some c =>
    let r := if c.slot.isSome then s.relocate o.block c.logical (s.block o.block).xo
      else s.takeSpare (keySlab o.block) (keyPlane o.block) (keyBank o.block)
    let s := match r.2 with
      | some k => r.1.redirect o.block k
      | none => (r.1.noteSpare o.block).copyFails c stNoSpare
    s.tableWrite pl.slab
  | none =>
    if s0.mapped pl.slab pl.plane pl.lblock != some o.block then (s.noteSpare o.block).tableWrite pl.slab else
    let r := s.relocate o.block pl.lblock (s.block o.block).xo
    let s := r.1.tableWrite pl.slab
    match r.2 with
    | none => s.failSlot o.slot stNoSpare pl.slab (o.page % 2 ^ 17 - s.slotBase (o.slot.getD 0) / 4096)
    | some k =>
      let c : BlockCopy := { source := o.block, dest := k, logical := pl.lblock, todo := s.pagesBelow o.block pl.pg,
                             target := some (pl.pg, o.kind, o.image, o.data), slot := o.slot }
      s.whenB (o.slot.any fun n => s.nv.programs.any fun p => p.slot = n) fun s => s.setNv { s.nv with copies := s.nv.copies ++ [c] }

/-- A program verify passes: a refresh goes on once its last page is there, and a relocation completes the page program with
the relocation flag. -/
def State.verifyPasses (s : State) (o : PageOp) (pl : PagePlace) : State :=
  let c := s.nv.copies.find? fun c => c.dest = o.block
  let s := match c with
    | some c =>
      if c.slot.isNone then s.whenB c.todo.isEmpty State.refreshMapped
      else if c.target.any fun x => x.1 = pl.pg then
        s.setNv { s.nv with
          copies := s.nv.copies.filter fun x => x.dest != o.block
          programs := s.nv.programs.map fun p => if some p.slot = c.slot then { p with relocated := true } else p }
      else s
    | none => s
  match o.slot.bind fun n => s.nv.programs.find? fun p => p.slot = n with
  | some p => s.slabDone p pl.slab
  | none => s

/-- The earliest page program in progress ends, and its verify runs (R225, step 6). -/
def State.pageDone (s : State) (flips : List Nat) : State :=
  match s.nv.ops with
  | [] => s
  | o :: rest =>
    let s := s.setNv { s.nv with ops := rest }
    let slab := o.page / 2 ^ 17
    let pl := s.place slab (o.page % 2 ^ 17)
    let wasXo := (s.block o.block).xo
    let s := (s.writePage o.block pl o.kind o.image o.data).sense o.block 1
    let s := s.whenB (o.kind = 2 && !wasXo) fun s => (s.markXo slab pl.lblock).tableWrite slab
    let x := decodePage (s.pageAt o.block pl.pg) pl flips
    if x.fine && x.bits ≤ 4 then s.verifyPasses o pl else s.verifyFails o pl

def execPageProgramDone (flips : List Nat) (s : State) : Host.Outcome State Fault Refusal :=
  act s fun s => s.pageDone flips

/-! ### Erase batches (R228 to R230, R239, R263, R269) -/

/-- The block that an erase of a logical block acts on; none when there is nothing to erase. A block whose first page is
being programmed is one to erase (R270). -/
def State.eraseTarget (s : State) (e : Nat × Nat) : Option Nat :=
  (s.mapped (e.1 / 4) (e.1 % 4) e.2).filter fun bk => !(s.block bk).erased || s.nv.ops.any fun o => o.block = bk

/-- Drops from an erase list what is already blank or unmapped (R263). -/
def State.stillErase (s : State) (l : List (Nat × Nat)) : List (Nat × Nat) := l.filter fun e => (s.eraseTarget e).isSome

/-- Everything that waits for an erase: (block, logical, reason), in order. -/
def State.eraseWanted (s : State) : List (Nat × Nat × Nat) :=
  let of := fun (l : List (Nat × Nat)) => l.filterMap fun e => (s.eraseTarget e).map fun bk => (bk, e.2, 0)
  s.nv.reErase ++ (s.nv.erases.flatMap fun e => of e.blocks) ++ s.nv.programs.flatMap fun p => of p.erase

/-- A batch: blocks on distinct idle planes whose banks have a free window, at most n. -/
def State.pickBatch (s : State) : Nat → List (Nat × Nat × Nat) → List (Nat × Nat × Nat) → List (Nat × Nat × Nat)
  | _, [], got => got
  | n, e :: r, got =>
    if got.length < n && !s.planeBusy (keySp e.1) && !got.any (fun g => keySp g.1 = keySp e.1) &&
        s.bankErasable e.1 then s.pickBatch n r (got ++ [e])
    else s.pickBatch n r got

/-- A worn block is retired at its next erase when a spare is free (R239): a logical block that it holds moves to the spare. -/
def State.retireWorn (s : State) (e : Nat × Nat × Nat) : State :=
  let b := s.block e.1
  if b.state ≤ 1 && 50000 ≤ b.erases && (s.spares (keySlab e.1) (keyPlane e.1) (keyBank e.1)).any (fun k => k != e.1) then
    let s := s.growBad e.1
    (if b.state = 1 then (s.relocate e.1 b.logical false).1 else s.noteSpare e.1).tableWrite (keySlab e.1)
  else s

/-- The XO bits of blank blocks that an erase skipped go, and a table version of each slab says so (R233, R246, R263). -/
def State.clearXo (s : State) (l : List (Nat × Nat)) : State :=
  let bks := (l.filterMap fun e => s.mapped (e.1 / 4) (e.1 % 4) e.2).filter fun bk => (s.block bk).erased && (s.block bk).xo
  let s := bks.foldl (fun (s : State) bk => s.modBlock bk fun b => { b with xo := false }) s
  ((List.range 64).filter fun n => bks.any fun bk => keySlab bk = n).foldl State.tableWrite s

/-- An NV_ERASE that has nothing left to erase ends (R262, R263). -/
def State.endErase (s : State) (e : NvErase) : State :=
  let s := s.clearXo e.covers
  let s := s.setNv { s.nv with erases := s.nv.erases.filter fun x => x.cmd != e.cmd }
  let s := match e.slot with
    | none => s
    | some n =>
      if e.failed then s.modSlot n fun v => { v with state := slInvalid }
      else
        match e.extent with
        | none => s.setSlot n { Slot.undefined with lastOp := 2 }
        | some (first, stripes, mask) =>
          s.setSlot n { Slot.undefined with state := slEmpty, lastOp := 2, firstStripe := first, stripes := stripes,
                                            slabMask := mask }
  s.finishNv e.cmd (if e.failed then stNoSpare else stOk) noSlab noSector

/-- The old extent of a Define is erased: the new one becomes the slot's and is erased next (R262). -/
def State.nextExtent (s : State) (e : NvErase) : State :=
  let l := s.stillErase e.later
  let s := match e.slot, e.extent with
    | some n, some (first, stripes, mask) =>
      s.modSlot n fun v => { v with firstStripe := first, stripes := stripes, slabMask := mask }
    | _, _ => s
  if l.isEmpty then s.endErase e
  else s.setNv { s.nv with erases := s.nv.erases.map fun x => if x.cmd = e.cmd then { x with blocks := l, later := [] } else x }

/-- Erases and resumed programs drop what is done, and erases that have nothing left go on or end. -/
def State.settleErases (s : State) : State :=
  let s := s.setNv { s.nv with
    erases := s.nv.erases.map fun e => { e with blocks := s.stillErase e.blocks }
    programs := s.nv.programs.map fun p => { p with erase := s.stillErase p.erase }
    reErase := s.nv.reErase.filter fun e => !(s.block e.1).erased }
  s.nv.erases.foldl (fun s e =>
    if !e.blocks.isEmpty then s else if e.failed || e.later.isEmpty then s.endErase e else s.nextExtent e) s

/-- Opens a batch (R230, steps 1 to 3). Where every block that waited is retired as worn, its command goes on. -/
def State.openBatch (s : State) : State :=
  let s := s.eraseWanted.foldl State.retireWorn s
  let l := s.pickBatch (s.planeOps - s.opsNow) s.eraseWanted []
  if l.isEmpty then s.settleErases
  else
    let s := s.journal 1 none l
    let s := l.foldl (fun s e => s.wear e.1) s
    s.setNv { s.nv with batch := some { start := s.now, seq := s.nv.journalSeq, entries := l },
                        reErase := s.nv.reErase.filter fun e => !l.any fun x => x.1 = e.1 }

def execEraseBatchStart (s : State) : Host.Outcome State Fault Refusal :=
  act s fun s => if !s.nvStarts || s.nv.batch.isSome || s.planeOps ≤ s.opsNow then s else s.openBatch

/-- An erase fails its verify (R228): a logical block that the block holds finds a spare, and a copy into it goes there. Answers
whether one was free. -/
def State.eraseFail (s : State) (e : Nat × Nat × Nat) : State × Bool :=
  let b := s.block e.1
  let s := ((s.growBad e.1).flag NVS_STATUS_ERASE_FAIL).nvsErr 2 e.1 0
  if b.state != 1 then ((s.noteSpare e.1).tableWrite (keySlab e.1), true)
  else
    let r := s.relocate e.1 b.logical false
    let s := match r.2 with
      | some k => r.1.redirect e.1 k
      | none =>
        let lost := r.1.nv.copies.filter fun (c : BlockCopy) => c.dest = e.1
        lost.foldl (fun (s : State) c => s.copyFails c stNoSpare) r.1
    (s.tableWrite (keySlab e.1), r.2.isSome)

/-- An erase has failed its verify; an NV_ERASE whose logical block finds no spare ends with NO_SPARE (R263). -/
def State.eraseFailed (s : State) (e : Nat × Nat × Nat) : State :=
  let r := s.eraseFail e
  if r.2 then r.1
  else
    let mark := fun (x : NvErase) =>
      if x.blocks.contains (keySp e.1, e.2.1) then { x with failed := true } else x
    r.1.setNv { r.1.nv with erases := r.1.nv.erases.map mark }

/-- The open batch ends; `fails` names the blocks that failed their verify. While NV activity is quiesced its erases have
stopped, and recovery resolves it (R231, R232). -/
def State.batchDone (s : State) (fails : List Nat) : State :=
  match s.nv.batch with
  | none => s
  | some b =>
    if s.nvPhase != nvReady then s
    else
      let s := b.entries.foldl (fun s e =>
        if fails.contains e.1 then s.eraseFailed e
        else (s.wiped e.1).count NVS_ERASE_COUNT_COUNT 1) s
      let s := s.journal 2 (some b.seq) b.entries
      (s.setNv { s.nv with batch := none }).settleErases

def execEraseDone (fails : List Nat) (s : State) : Host.Outcome State Fault Refusal :=
  act s fun s => s.batchDone fails

/-! ### Refresh (R242 to R244) -/

/-- Request a is served before request b: by cause, then by age. -/
def State.refreshBefore (s : State) (a b : RefreshReq) : Bool :=
  decide (a.cause < b.cause) || (a.cause == b.cause && decide (s.blockAge b.block < s.blockAge a.block))

/-- A request may run but for a free window and an erased spare. -/
def State.refreshReady (s : State) (r : RefreshReq) : Bool :=
  (s.block r.block).state = 1 && !s.slabAtWork (keySlab r.block) && !s.planeBusy (keySp r.block)

/-- The spare that a request takes. -/
def State.spareOf (s : State) (bk : Nat) : Option Nat := s.spare (keySlab bk) (keyPlane bk) (keyBank bk)

/-- The request served next among those that may run: its bank has a free window and an erased spare. -/
def State.refreshNext (s : State) : Option RefreshReq :=
  let ok := s.nv.refreshQueue.filter fun r =>
    s.refreshReady r && s.bankFree r.block && (s.spareOf r.block).any fun k => (s.block k).erased
  ok.foldl (fun (o : Option RefreshReq) r =>
    match o with
    | none => some r
    | some b => if s.refreshBefore r b then some r else some b) none

/-- A refresh begins: its spare is taken, and the programmed pages are copied one page program at a time, the first of them at
once (R243, steps 1 to 3). -/
def State.refreshBegin (s : State) (r : RefreshReq) (x : CopySenses) : State :=
  match s.spareOf r.block with
  | none => s
  | some k =>
    let l := (s.block r.block).logical
    let todo := s.pagesBelow r.block 128
    let c : BlockCopy := { source := r.block, dest := k, logical := l, todo := todo, target := none, slot := none }
    let s := s.setNv { s.nv with
      refresh := some { block := r.block, spare := k, logical := l, mapped := false, cause := r.cause }
      refreshQueue := s.nv.refreshQueue.filter fun q => q.block != r.block
      copies := s.nv.copies ++ [c] }
    if todo.isEmpty then s.refreshMapped else s.startCopy c x

/-- The spares that requests would take and that are not erased wait for their erase (R238). -/
def State.refreshPrepare (s : State) : State :=
  s.nv.refreshQueue.foldl (fun s r =>
    if s.refreshReady r then
      match s.spareOf r.block with
      | some k => s.prepare k
      | none => s
    else s) s

def execRefreshStart (senses : CopySenses) (s : State) : Host.Outcome State Fault Refusal :=
  act s fun s =>
    if !s.nvStarts || s.nv.refresh.isSome || s.planeOps ≤ s.opsNow then s
    else
      match s.refreshNext with
      | none => s.refreshPrepare
      | some r => s.refreshBegin r senses

/-- The remap of a boundary window, and the erase that follows it (R243, steps 5 and 6). -/
def State.refreshRemap (s : State) : State :=
  match s.nv.refresh with
  | none => s
  | some r =>
    let old := s.block r.block
    let s := (s.setBlock r.block { old with state := 0, erased := false, logical := 0 }).modBlock r.spare fun b =>
      { b with state := 1, logical := r.logical, xo := old.xo }
    s.setNv { s.nv with refresh := none, reErase := s.nv.reErase ++ [(r.block, 0xFFFF, 1)] }

/-- An erase of its stripe cancels a refresh: the spare is free and not erased (R243). -/
def State.cancelRefresh (s : State) (sp lblock : Nat) : State :=
  match s.nv.refresh with
  | none => s
  | some r =>
    if keySp r.block = sp && r.logical = lblock then
      let s := s.setNv { s.nv with refresh := none, copies := s.nv.copies.filter fun c => c.dest != r.spare }
      (s.modBlock r.spare fun b => { b with state := 0, erased := false }).whenB r.mapped fun s => s.tableWrite (keySlab r.block)
    else s

/-- An operation waits for a free window: with one, it could start (R223); a recovery's re-erases too. -/
def State.nvWaits (s : State) : Bool :=
  s.nv.recoveryWaits.any (fun bk => !s.bankErasable bk) || s.nvStarts &&
    (s.nv.programs.any (fun p => match s.programReady p with
        | some (some bk) => !s.bankFree bk
        | _ => false) ||
      s.nv.copies.any (fun c => s.copyReady c && !s.bankFree c.dest) ||
      s.eraseWanted.any (fun e => !s.planeBusy (keySp e.1) && !s.bankErasable e.1) ||
      s.nv.refreshQueue.any fun r => s.refreshReady r && !s.bankFree r.block)

/-! ### Host page read (R250) -/

/-- Slab and page of an internal address in the weight store, when it is backed (R2). -/
def State.slabAddr (s : State) (a : Nat) : Option (Nat × Nat) :=
  if 0x2000000000 ≤ a && a < 0x2000000000 + 64 * 0x20000000 then
    let o := a - 0x2000000000
    if o % 0x20000000 < s.slabPages * 4096 then some (o / 0x20000000, o % 0x20000000 / 4096) else none
  else none

def State.pageResult (s : State) (level result tagOk bits bch : Nat) : State :=
  s.setFlds [(NVS_PAGE_CTL_BUSY, 0), (NVS_PAGE_CTL_LEVEL, level), (NVS_PAGE_CTL_RESULT, result),
    (NVS_PAGE_CTL_TAG_OK, tagOk), (NVS_PAGE_STAT_CE_BITS, bits), (NVS_PAGE_STAT_BCH_BITS, bch)]

/-- A refused read: the buffer is zeroed. -/
def State.pageRefused (s : State) : State :=
  (s.setNv { s.nv with pageBuf := [], pageTag := [], hostRead := none }).pageResult 0 3 0 0 0

/-- NVS_CTL as it applies to a page read of an address that begins now. -/
def State.hostReadOf (s : State) (a : Nat) : HostRead :=
  { addr := a, warn := s.nvsWarn, refresh := s.bit NVS_CTL_WARN_REFRESH_EN }

/-- The block of a place whose page is execute-only. -/
def State.xoPage (s : State) (slab : Nat) (pl : PagePlace) : Option Nat :=
  (s.mapped slab pl.plane pl.lblock).filter fun bk => (s.block bk).xo || (s.pageAt bk pl.pg).any fun p => tagKind p.tag = 2

/-- A write of NVS_PAGE_CTL.READ. One while BUSY is refused, and leaves the read in progress as it is: what that returns replaces
the refusal's RESULT and buffer when it completes. -/
def State.pageRead (s : State) : State :=
  if s.bit NVS_PAGE_CTL_BUSY then (s.setNv { s.nv with pageBuf := [] }).setFld NVS_PAGE_CTL_RESULT 3
  else
    let a := s.fld NVS_PAGE_ADDR_PAGE * 4096
    match s.slabAddr a with
    | none => s.pageRefused
    | some (slab, page) =>
      if s.nvPhase = nvScanning then s.pageRefused
      else
        let pl := s.place slab page
        match s.xoPage slab pl with
        | some bk => ((s.sense bk 1).noteXo bk pl.pg).pageRefused
        | none => (s.setNv { s.nv with hostRead := some (s.hostReadOf a) }).setFld NVS_PAGE_CTL_BUSY 1

def execNvsPageRead (s : State) : Host.Outcome State Fault Refusal := hostAct NVS_PAGE_CTL.off s State.pageRead

/-- The host page read completes: `rounds` are the senses, the nominal one first. It waits while its bank is busy; a page that has
become execute-only meanwhile is refused. -/
def State.pageReadDone (s : State) (rounds : List (List Nat)) : State :=
  match s.nv.hostRead with
  | none => s
  | some h =>
    match s.slabAddr h.addr with
    | none => s
    | some (slab, page) =>
      let pl := s.place slab page
      match s.mapped slab pl.plane pl.lblock with
      | none =>
        ((s.setNv { s.nv with hostRead := none, pageBuf := [], pageTag := List.replicate 32 0xFF }).noteLost
          (blockKey slab pl.plane 0) pl.pg).pageResult 0 2 0 0 0
      | some bk =>
        if s.bankAtWork bk then s
        else
          let s := s.setNv { s.nv with hostRead := none }
          if (s.xoPage slab pl).isSome then ((s.sense bk 1).noteXo bk pl.pg).pageRefused else
          let p := s.pageAt bk pl.pg
          let x := decodePage p pl (rounds.headD [])
          let s := s.notePageAt h.warn h.refresh bk pl.pg x.bits
          if x.blank || (x.tagOk && tagKind x.tag = 3) then
            ((s.setNv { s.nv with pageBuf := [], pageTag := x.tag }).noteLost bk pl.pg).pageResult 0 2 0 x.bits 0
          else if x.fine && decide (x.bits < h.warn) then
            (s.setNv { s.nv with pageBuf := x.words.flatMap bytes128, pageTag := x.tag }).pageResult 0 0 1 x.bits 0
          else
            match allRounds p pl rounds, p with
            | some (l, n), some q =>
              (((s.setNv { s.nv with pageBuf := q.words.flatMap bytes128, pageTag := q.tag }).sense bk l).noteRetry bk
                l).pageResult l 1 1 x.bits n
            | _, _ =>
              let s := (s.setNv { s.nv with pageBuf := x.words.flatMap bytes128, pageTag := x.tag }).sense bk 7
              if x.fine then s.pageResult 0 0 1 x.bits 0
              else (s.noteUe bk pl.pg).pageResult 0 2 (b2n x.tagOk) x.bits 0

def execNvsPageReadDone (rounds : List (List Nat)) (s : State) : Host.Outcome State Fault Refusal :=
  act s fun s => s.pageReadDone rounds

/-! ### Retention clocks and table versions (R233, R240) -/

/-- Weighted seconds per second in millionths, by junction temperature in °C (R240). -/
def ageFactor (t : Int) : Nat :=
  if t ≤ 55 then 125000 else if t ≤ 70 then 350000 else if t ≤ 85 then 1000000 else if t ≤ 100 then 2800000
  else if t ≤ 110 then 5700000 else 8000000

/-- Every plane's clock advances by a second at the temperature of its die. -/
def State.clocksTick (s : State) (temp : Nat → Int) : State :=
  let cs := (List.range 64).flatMap fun slab => (List.range s.np).map fun p => (slab * 4 + p, p)
  s.setNv { s.nv with clocks := cs.foldl (fun t (k, p) =>
    Tab.put t k (Tab.lookD t k 0 + ageFactor (temp p))) s.nv.clocks }

/-- Queues every block whose age exceeds the limit (R242). -/
def State.queueAges (s : State) : State :=
  s.nv.blocks.foldl (fun s (k, b) => if b.state = 1 then s.queueLimits k else s) s

def execTableVersionWrite (s : State) : Host.Outcome State Fault Refusal :=
  act s fun s => if s.nvStarts then (List.range 64).foldl State.tableWrite s else s

/-! ### Power failure, recovery and the scan (R231, R232, R234, R235, R248, R268) -/

/-- The bits of a page whose program stopped: nothing fixes them. -/
def State.stopPage (s : State) (o : PageOp) : State :=
  let pl := s.place (o.page / 2 ^ 17) (o.page % 2 ^ 17)
  let f := s.freeQs 258
  let page : Page := { words := f.2.take 256, tag := (f.2.drop 256).flatMap bytes128, partly := true }
  (f.1.setNv { f.1.nv with pages := Tab.put f.1.nv.pages (pageKey o.block pl.pg) page }).modBlock o.block fun b =>
    { b with erased := false, born := some (b.born.getD (Tab.lookD s.nv.clocks (keySp o.block) 0)) }

/-- NV activity quiesces: no operation starts, and those in progress stop (R231). A refresh that has not written its table
version ends. -/
def State.nvStop (s : State) : State :=
  let s := (s.nv.ops.foldl State.stopPage s).refreshStops
  let s := s.setNv { s.nv with ops := [], copies := [] }
  s.setFld NVS_STATE_PHASE nvQuiesced

/-- The same for a failing supply, which PF_QUIESCE reports. -/
def State.nvQuiesce (s : State) : State := s.nvStop.flag NVS_STATUS_PF_QUIESCE

/-- Programs at work complete with POWER_FAIL when the power fails; their slots stay PROGRAMMING until recovery has run (R268). One
of a chained session is an interrupted session (R434). -/
def State.nvPowerFail (s : State) : State :=
  let ps := s.nv.programs
  ps.foldl (fun s p =>
    let at_ := nextSector (s.slotOf p.slot).manifest (s.slotOf p.slot).slabsDone.toNat 131073 (p.next - 1)
    let m := (s.slotOf p.slot).manifest
    (s.whenB (decide (sessionBase ≤ p.cmd)) fun s => s.flag CNS_STATUS_CHAIN_ERR).endProgram p slProgramming stPowerFail (at_.elim noSlab fun x => manSlab m x.2.1) (at_.elim noSector (·.2.2))) s

def hasRec (l : List JRecord) (type batch : Nat) : Bool := l.any fun r => r.type = type && r.batch = batch

/-- One block of an open batch: `n` is how often its strict blank check fails (R232, case C). A worn block is retired in place
of its erase where a spare is free (R239). -/
def State.resolveBlock (s : State) (e : Nat × Nat × Nat) (n : Nat) : State :=
  if n = 0 then (s.wiped e.1).setFld NVS_JOURNAL_STAT_CONFIRMED (s.fld NVS_JOURNAL_STAT_CONFIRMED + 1)
  else
    let s := s.retireWorn e
    if (s.block e.1).state = 3 then s
    else
      let s := (s.eraseNow e.1 e.2.1 2).setFld NVS_JOURNAL_STAT_REERASED (s.fld NVS_JOURNAL_STAT_REERASED + 1)
      if n = 1 then s else s.eraseFailed e

/-- One batch by the valid records of the copies, a and b, where r is its INTENT: cases B to E of R232. -/
def State.resolveBatch (s : State) (strictFails : List Nat) (a b : List JRecord) (r : JRecord) : State :=
  let n := r.entries.length
  let more := fun (s : State) (f : Fld) => s.setFld f (s.fld f + n)
  if hasRec a 3 r.batch || hasRec b 3 r.batch then s
  else if hasRec a 2 r.batch || hasRec b 2 r.batch then
    let put := fun (l seen : List JRecord) =>
      if hasRec seen 2 r.batch then l else l ++ ((a ++ b).filter fun (x : JRecord) => x.type = 2 && x.batch = r.batch).take 1
    s.setNv { s.nv with journalA := put s.nv.journalA a, journalB := put s.nv.journalB b }
  else if hasRec a 1 r.batch && hasRec b 1 r.batch then
    let s := more s NVS_JOURNAL_STAT_OPEN
    let s := r.entries.foldl (fun (s : State) e => s.resolveBlock e (strictFails.filter (· = e.1)).length) s
    (s.journal 2 (some r.batch) r.entries).flag NVS_STATUS_RECOVERED
  else
    (more (more (s.journal 3 (some r.batch) r.entries) NVS_JOURNAL_STAT_OPEN) NVS_JOURNAL_STAT_ABANDONED).flag
      NVS_STATUS_RECOVERED

/-- The INTENT of each batch that a copy holds, once. -/
def intentsOf (a b : List JRecord) : List JRecord :=
  a.filter (fun r => r.type = 1) ++ b.filter fun r => r.type = 1 && !hasRec a 1 r.batch

/-- A table as shipped: nothing listed differs from it. -/
def shippedTable : TableVersion := { seq := 0, journal := 0, valid := true, blocks := [], clocks := [0, 0, 0, 0] }

/-- Table versions of a slab in the two copies, those that can be read. -/
def State.tableCopies (s : State) (slab : Nat) (badTables : List Nat) : Option TableVersion × Option TableVersion :=
  let get := fun (t : Tab TableVersion) (copy : Nat) =>
    let v := Tab.lookD t slab shippedTable
    if v.valid && !badTables.contains (2 * slab + copy) then some v else none
  (get s.nv.tablesA 0, get s.nv.tablesB 1)

/-- The journal SEQ of the last table version (R233): the largest of those that can be read. -/
def State.journalFrom (s : State) (badTables : List Nat) : Nat :=
  (List.range 64).foldl (fun n slab =>
    let c := s.tableCopies slab badTables
    max n (max (c.1.elim 0 (·.journal)) (c.2.elim 0 (·.journal)))) 0

/-- The journal's tail: the records from a SEQ on (R232, R248). -/
def tailFrom (n : Nat) (l : List JRecord) : List JRecord := l.filter fun r => decide (n ≤ r.seq)

/-- Resolves every batch by the valid records of the two copies' tails (R232). -/
def State.recover (s : State) (strictFails : List Nat) (a b : List JRecord) : State :=
  let s := s.setFlds [(NVS_JOURNAL_STAT_OPEN, 0), (NVS_JOURNAL_STAT_REERASED, 0), (NVS_JOURNAL_STAT_CONFIRMED, 0),
    (NVS_JOURNAL_STAT_ABANDONED, 0)]
  let s := (intentsOf a b).foldl (fun s r => s.resolveBatch strictFails a b r) s
  (s.setNv { s.nv with batch := none, recoveryWaits := [] }).settleErases

/-- The re-erases of a recovery meet no window (R222). -/
def State.recoveryFree (s : State) (strictFails : List Nat) : Bool := strictFails.all s.bankErasable

/-- Slots left PROGRAMMING by a program that the power failure ended are INTERRUPTED (R268). -/
def State.interruptSlots (s : State) : State :=
  (List.range 16).foldl (fun s n =>
    if (s.slotOf n).state = slProgramming && !s.nv.programs.any (fun p => p.slot = n) then
      s.modSlot n fun v => { v with state := slInterrupted }
    else s) s

/-- After PWR_FAIL_N has deasserted without a power-on reset, recovery runs before any new operation (R231). -/
def State.nvResume (s : State) (strictFails : List Nat) : State :=
  if s.nvPhase = nvQuiesced then
    let n := s.journalFrom []
    let s := (s.setFld NVS_JOURNAL_STAT_TABLES 0).recover strictFails (tailFrom n (validRecords s.nv.journalA 0 false []))
      (tailFrom n (validRecords s.nv.journalB 1 false []))
    ((s.setFld NVS_JOURNAL_STAT_DONE 1).setFld NVS_STATE_PHASE nvReady).interruptSlots
  else s

/-- A recovery after a power failure runs at once where its re-erases meet no window; else it waits for one, and WAITING says so
(R222, R223, R231). -/
def State.nvRecover (s : State) (strictFails : List Nat) : State :=
  if s.nvPhase = nvQuiesced && !s.recoveryFree strictFails then s.setNv { s.nv with recoveryWaits := strictFails }
  else s.nvResume strictFails

/-- The tag of a page 0 that can be read, by the fast path or a repair round (R235), and the senses that it took; the outer option
is none where every round fails, the inner one where the page is blank. -/
def State.tagOf (s : State) (bk : Nat) (place : Bytes → PagePlace) (rounds : List (List Nat)) : Option (Option Bytes) × Nat :=
  let p := s.pageAt bk 0
  let r := (rounds.headD []).foldl RawPage.flip (rawOf p)
  let x := decodePage p (place r.tag) (rounds.headD [])
  if x.blank then (some none, 1)
  else if x.fine then (some (some x.tag), 1)
  else
    match allRounds p (place (p.elim [] (·.tag))) rounds, p with
    | some (l, _), some q => (some (some q.tag), 1 + l)
    | _, _ => (none, 8)

/-- The retention clock of a block's plane. -/
def State.clockOf (s : State) (bk : Nat) : Nat := Tab.lookD s.nv.clocks (keySp bk) 0

/-- Rebuilds a slab's table from the tags of page 0 of every physical block (R235). -/
def State.rebuild (s : State) (slab : Nat) (senses : Senses) : State :=
  let most := s.nv.blocks.foldl (fun n (k, b) => if keySlab k != slab then max n b.erases else n) 0
  let keys := (List.range s.np).flatMap fun p => (List.range 264).map fun i => blockKey slab p i
  keys.foldl (fun s k =>
    let place := fun (t : Bytes) => ({ slab := slab, plane := keyPlane k, lblock := u16 t 2, pg := 0 } : PagePlace)
    let read := s.tagOf k place (sensesOf senses (pageKey k 0))
    let b : Block := { state := 0, xo := false, erased := false, logical := 0, erases := most, born := none, senses := read.2 }
    match read.1 with
    | some none => s.setBlock k b
    | none => s.setBlock k { b with state := 3 }
    | some (some tag) =>
      let l := u16 tag 2
      let seq := u64 tag 8
      let rival := (bankKeys slab (keyPlane k) (keyBank k)).find? fun j =>
        j < k && (s.block j).state = 1 && (s.block j).logical = l && (s.block j).erases = most
      let won := { b with state := 1, logical := l, xo := tagKind tag = 2, born := some (s.clockOf k) }
      match rival with
      | none => s.setBlock k won
      | some j =>
        let other := (s.pageAt j 0).elim 0 fun q => u64 q.tag 8
        if other < seq then (s.setBlock j b).setBlock k won else s.setBlock k b) s

/-- Counts table copies that are rewritten or rebuilt. -/
def State.tablesWritten (s : State) (n : Nat) : State :=
  (s.setFld NVS_JOURNAL_STAT_TABLES (min 255 (s.fld NVS_JOURNAL_STAT_TABLES + n))).flag NVS_STATUS_TABLE_REPAIR

/-- A journal record newer than a slab's table brings its blocks up to date (R234): an INTENT whose batch was not abandoned
counts an erase, and a DONE leaves the blocks erased. -/
def State.replay (s : State) (slab : Nat) (counted : Bool) (r : JRecord) : State :=
  (r.entries.filter fun e => keySlab e.1 = slab).foldl (fun (s : State) e =>
    s.modBlock e.1 fun b =>
      if r.type = 1 && counted then { b with erases := min 0xFFFF (b.erases + 1) }
      else if r.type = 2 && b.state ≤ 1 then { b with erased := true, xo := false, born := none, senses := 0 }
      else b) s

/-- Reads a slab's table from its copies, rewrites one that is older or invalid, and brings it up to date by the journal
(R234). -/
def State.readTable (s : State) (slab : Nat) (badTables : List Nat) (a b : List JRecord) : State :=
  let use := fun (v : TableVersion) (repair : Bool) =>
    let recs := (a ++ b.filter fun r => !a.any fun x => x.seq = r.seq).filter fun r => decide (v.journal < r.seq)
    let counted := fun (n : Nat) =>
      !(hasRec a 3 n || hasRec b 3 n) && ((hasRec a 1 n && hasRec b 1 n) || hasRec a 2 n || hasRec b 2 n)
    let s := v.blocks.foldl (fun s e => s.setBlock e.1 e.2) s
    let s := s.setNv { s.nv with clocks := (List.range 4).foldl (fun t p => Tab.put t (slab * 4 + p) (v.clocks.getD p 0)) s.nv.clocks }
    let s := recs.foldl (fun s r => s.replay slab (counted r.batch) r) s
    let s := s.nv.pages.foldl (fun s e =>
      let bk := e.1 / 128
      if keySlab bk = slab && (s.block bk).erased then
        s.modBlock bk fun b => { b with erased := false, born := some (b.born.getD (s.clockOf bk)) }
      else s) s
    if repair then (s.tableWrite slab).tablesWritten 1 else s
  match s.tableCopies slab badTables with
  | (some x, some y) => use (if y.seq ≤ x.seq then x else y) (x.seq != y.seq)
  | (some x, none) => use x true
  | (none, some y) => use y true
  | (none, none) => s

/-- Step 1 of R248: the tables that a copy holds first, then those that must be rebuilt, which take the largest erase count of
the others (R235). -/
def State.readTables (s : State) (badTables : List Nat) (a b : List JRecord) (senses : Senses) : State :=
  let lost := (List.range 64).filter fun n => s.tableCopies n badTables = (none, none)
  let s := (List.range 64).foldl (fun s n => s.readTable n badTables a b) s
  lost.foldl (fun s n => ((s.rebuild n senses).tableWrite n).tablesWritten 2) s

/-- Slot records after power-on: the copy with the higher SEQ; work that was under way is interrupted (R253, R268). No
service is bound then; a record that changes by this is written to both copies. -/
def State.readSlots (s : State) : State :=
  (List.range 16).foldl (fun s n =>
    let a := Tab.lookD s.nv.slotsA n Slot.undefined
    let b := Tab.lookD s.nv.slotsB n Slot.undefined
    let v := if b.seq ≤ a.seq then a else b
    let seq := max s.nv.slotSeq v.seq
    let s := s.setNv { s.nv with slotSeq := seq }
    if v = Slot.undefined then s
    else
      let state := if v.state = slErasing || v.state = slProgramming then slInterrupted
        else if v.state = slBound then slValid else v.state
      if state = v.state && v.binds = 0 then s.setNv { s.nv with slots := Tab.put s.nv.slots n v }
      else s.setSlot n { v with state := state, binds := 0 }) s

/-- The scan of R248: `badTables` lists 2 × slab + copy of tables that cannot be read, `badJournals` has a bit for each
copy of the journal that cannot be read, `badRecords` lists 2 × SEQ + copy of journal pages with an uncorrectable word,
`strictFails` lists a block once for each strict blank check it fails, and `senses` are what the senses of page 0 read
wrongly. While PWR_FAIL_N is asserted a scan that needs a re-erase waits (R538). -/
def State.scan (s : State) (strictFails badTables : List Nat) (badJournals : Nat) (badRecords : List Nat) (senses : Senses) :
    State :=
  let badA := badJournals.testBit 0
  let badB := badJournals.testBit 1
  let a := validRecords s.nv.journalA 0 badA badRecords
  let b := validRecords s.nv.journalB 1 badB badRecords
  let n := s.journalFrom badTables
  let s := s.readTables badTables a b senses
  let fault := (badA && badB) || (List.range 128).all fun i => badTables.contains i
  let s := (s.setNv { s.nv with tablesRead := true, faulty := fault }).readSlots
  if fault then s else s.recover strictFails (tailFrom n a) (tailFrom n b)

/-- NV_SCAN: the start-up scan; or the recovery that a PWR_FAIL_N deassertion left waiting for a free window. -/
def execNvScan (strictFails badTables : List Nat) (reads : ScanReads) (s : State) : Host.Outcome State Fault Refusal :=
  act s fun s =>
    if s.nvPhase = nvScanning && s.boot.releasedAt.isSome && !s.nv.tablesRead &&
        !(s.bit PWR_EMERG_PWR_FAIL && !strictFails.isEmpty) then
      s.scan strictFails badTables reads.badJournals reads.badRecords reads.senses
    else if s.nvPhase = nvQuiesced && !s.bit PWR_EMERG_PWR_FAIL then s.nvRecover strictFails
    else s

/-- The scan ends: READY, FAULT, or QUIESCED while PWR_FAIL_N is asserted (R231, R538). -/
def execNvScanDone (s : State) : Host.Outcome State Fault Refusal :=
  act s fun s =>
    if s.nvPhase = nvScanning && s.nv.tablesRead then
      let phase := if s.nv.faulty then nvFault else if s.bit PWR_EMERG_PWR_FAIL then nvQuiesced else nvReady
      let s := (s.setFld NVS_JOURNAL_STAT_DONE 1).setFld NVS_STATE_PHASE phase
      let s := s.whenB s.nv.faulty fun s => s.sppNote SPP_STATUS_NV_FAULT
      s.setBoot { s.boot with scanDone := true }
    else s

end Sys2Proof.Machine
end

