-- ==== Sys2Proof/Machine/Fabric.lean ====
section
/-! DEFINITION. Words between two tile stores: routes (R180 to R182), what the links' code does to a word (R181, R190), and the
cycles in which the words move (R186). -/

namespace Sys2Proof.Machine

/-- Links of a route: the tile that each hop leaves, and its direction (R182). -/
def routeGo : Nat → Nat → Nat → List (Nat × Nat)
  | 0, _, _ => []
  | n + 1, a, b =>
    if a % 8 < b % 8 then (a, 1) :: routeGo n (a + 1) b
    else if b % 8 < a % 8 then (a, 3) :: routeGo n (a - 1) b
    else if a < b then (a, 2) :: routeGo n (a + 8) b
    else if b < a then (a, 0) :: routeGo n (a - 8) b
    else []

def route (a b : Nat) : List (Nat × Nat) := routeGo 14 a b

/-- A word that crosses the links with bits inverted: what arrives, and what the link's code found (R181, R190). -/
def crossLink (m : MWord) (bits : List Nat) : KKind × MWord :=
  if bits.isEmpty then (.clean, m)
  else
    let c := CWord.enc 0 m
    let f := fun (c : CWord) (b : Nat) =>
      if b < 128 then { c with data := c.data ^^^ BitVec.ofNat 128 (2 ^ b) }
      else { c with chk := c.chk ^^^ BitVec.ofNat 9 (2 ^ (b - 128)) }
    (bits.foldl f c).dec 0

/-- A word as it arrives at the other end of its route, and what the code of its links reports (R190). -/
def State.crossWord (s : State) (m : FabricMove) (w : MWord) : State × MWord :=
  let r := crossLink w (m.flips.map (·.1))
  let ue := r.1 = .uncorrectable
  if r.1 = .corrected || ue then
    let hop := (m.flips.headD (0, 0)).2
    let link := (route m.src m.dst).getD hop (m.src, 0)
    let s := if ue then (s.count FAB_LINK_UE_COUNT_COUNT 1).flag FAB_STATUS_LINK_UE
      else (s.count FAB_LINK_CE_COUNT_COUNT 1).flag FAB_STATUS_LINK_CE
    (s.firstRecord FAB_LINK_REC_VALID [(FAB_LINK_REC_UE, b2n ue), (FAB_LINK_REC_TICK, s.tick), (FAB_LINK_REC_TILE, link.1),
      (FAB_LINK_REC_DIR, link.2), (FAB_LINK_REC_CYCLE64, (m.cycle + hop) / 64)], r.2)
  else (s, r.2)

/-- A word moves: it is read from the one store and written into the other (R178, R199). -/
def State.moveWord (s : State) (m : FabricMove) : State :=
  let r := if m.zero then (s, ⟨0, true⟩) else s.tileRead m.src m.srcWord
  let c := r.1.crossWord m r.2
  c.1.tileWrite m.dst m.dstWord c.2

/-- Places a word among those that wait, by its cycle. -/
def FabricMove.place (m : FabricMove) : List FabricMove → List FabricMove
  | [] => [m]
  | x :: r => if x.cycle ≤ m.cycle then x :: FabricMove.place m r else m :: x :: r

/-- The words of every transfer in flight whose cycle is before a cycle, in the order of their cycles. -/
def State.movesBefore (s : State) (cycle : Nat) : List FabricMove :=
  (s.tiles.flatMap fun e => e.2.xfers.flatMap fun o => o.moves.filter fun m => m.cycle < cycle).foldl (fun l m => m.place l) []

/-- Every word moves whose cycle is before a cycle (R186). -/
def State.moveBefore (s : State) (cycle : Nat) : State :=
  let l := s.movesBefore cycle
  if l.isEmpty then s
  else
    let keep := fun (o : Outstanding) => { o with moves := o.moves.filter fun m => cycle ≤ m.cycle }
    l.foldl State.moveWord { s with tiles := s.tiles.map fun e => (e.1, { e.2 with xfers := e.2.xfers.map keep }) }

end Sys2Proof.Machine
end

