-- ==== Sys2Proof/Machine/Fp.lean ====
section
/-! DEFINITION. FP32 and BF16 arithmetic of the vector and drone units (R78): exact integer arithmetic, one rounding to
nearest with ties to even, subnormals flushed, one NaN. Floating-point words are natural numbers below 2^32. -/

namespace Sys2Proof.Machine

/-- A floating-point value: (−1)^s × m × 2^e when finite. -/
inductive FVal where
  | nan
  | inf (s : Bool)
  | fin (s : Bool) (m : Nat) (e : Int)
  deriving DecidableEq, Repr

def fNaN : Nat := 0x7FC00000
def fOne : Nat := 0x3F800000
def fNegZero : Nat := 0x80000000
def signBit (s : Bool) : Nat := if s then 0x80000000 else 0

/-- The value of a word; subnormals are zero with their sign (R78). -/
def fUnpack (w : Nat) : FVal :=
  let s := w.testBit 31
  let e := bitsOf w 30 23
  let m := bitsOf w 22 0
  if e = 255 then (if m = 0 then .inf s else .nan)
  else if e = 0 then .fin s 0 0
  else .fin s (m + 0x800000) ((e : Int) - 150)

/-- m × 2^e rounded to p significant bits, to nearest with ties to even: mantissa of p bits and exponent. -/
def roundTo (p m : Nat) (e : Int) : Nat × Int :=
  let n := m.log2 + 1
  if n ≤ p then (m <<< (p - n), e - ((p - n : Nat) : Int))
  else
    let k := n - p
    let q := m >>> k
    let r := m % 2 ^ k
    let h := 2 ^ (k - 1)
    let q := if h < r || (r = h && q % 2 = 1) then q + 1 else q
    if q = 2 ^ p then (2 ^ (p - 1), e + k + 1) else (q, e + k)

/-- Packs a mantissa of 24 bits: below 2^−126 a signed zero, above the range a signed infinity (R78). -/
def fPack (s : Bool) (m : Nat) (e : Int) : Nat :=
  let x := e + 150
  if x ≤ 0 then signBit s
  else if 255 ≤ x then signBit s + 0x7F800000
  else signBit s + x.toNat <<< 23 + (m - 0x800000)

/-- (−1)^s × m × 2^e as one rounded FP32 result. -/
def fRound (s : Bool) (m : Nat) (e : Int) : Nat :=
  if m = 0 then signBit s
  else
    let r := roundTo 24 m e
    fPack s r.1 r.2

/-- A value as a word. -/
def fOf : FVal → Nat
  | .nan => fNaN
  | .inf s => signBit s + 0x7F800000
  | .fin s m e => fRound s m e

/-- The exact sum of two values, rounded once. -/
def fSum (a b : FVal) : Nat :=
  match a, b with
  | .nan, _ => fNaN
  | _, .nan => fNaN
  | .inf s, .inf t => if s = t then fOf (.inf s) else fNaN
  | .inf s, .fin _ _ _ => fOf (.inf s)
  | .fin _ _ _, .inf t => fOf (.inf t)
  | .fin s m e, .fin t n f =>
    let x := if m = 0 then f else if n = 0 then e else min e f
    let v := fun (s : Bool) (m : Nat) (e : Int) =>
      let y := ((m <<< (e - x).toNat : Nat) : Int)
      if s then -y else y
    let sum := (if m = 0 then 0 else v s m e) + (if n = 0 then 0 else v t n f)
    if sum = 0 then (if m = 0 && n = 0 && s && t then fNegZero else 0)
    else fRound (sum < 0) sum.natAbs x

/-- The exact product of two values. -/
def fProd (a b : FVal) : FVal :=
  match a, b with
  | .nan, _ => .nan
  | _, .nan => .nan
  | .inf s, .inf t => .inf (s != t)
  | .inf s, .fin t n _ => if n = 0 then .nan else .inf (s != t)
  | .fin s m _, .inf t => if m = 0 then .nan else .inf (s != t)
  | .fin s m e, .fin t n f => .fin (s != t) (m * n) (e + f)

def fAdd (a b : Nat) : Nat := fSum (fUnpack a) (fUnpack b)
def fNeg (a : Nat) : Nat := a ^^^ 0x80000000
/-- a − b; a NaN operand gives the canonical NaN. -/
def fSub (a b : Nat) : Nat := fAdd a (fNeg b)
def fMul (a b : Nat) : Nat := fOf (fProd (fUnpack a) (fUnpack b))
def fFma (a b c : Nat) : Nat := fSum (fProd (fUnpack a) (fUnpack b)) (fUnpack c)

/-- A quotient, correctly rounded (R124). -/
def fDiv (a b : Nat) : Nat :=
  match fUnpack a, fUnpack b with
  | .nan, _ => fNaN
  | _, .nan => fNaN
  | .inf _, .inf _ => fNaN
  | .inf s, .fin t _ _ => fOf (.inf (s != t))
  | .fin s _ _, .inf t => signBit (s != t)
  | .fin s m e, .fin t n f =>
    if n = 0 then (if m = 0 then fNaN else fOf (.inf (s != t)))
    else
      let num := m <<< 64
      let q := num / n
      fRound (s != t) (2 * q + (if num % n = 0 then 0 else 1)) (e - f - 65)

/-- A word as the device delivers it: subnormals flushed, one NaN. -/
def fCanon (a : Nat) : Nat := fOf (fUnpack a)

def fIsNaN (a : Nat) : Bool := fUnpack a = .nan
def fIsInf (a : Nat) : Bool :=
  match fUnpack a with
  | .inf _ => true
  | .nan => false
  | .fin _ _ _ => false

/-- An integer as FP32, to nearest even. -/
def fOfInt (x : Int) : Nat := fRound (x < 0) x.natAbs 0

/-- The nearest integer of a finite value, ties to even; infinities are answered as a bound beyond every format and
NaN as none. -/
def fNearest (a : Nat) : Option Int :=
  match fUnpack a with
  | .nan => none
  | .inf s => some (if s then -(2 ^ 200) else 2 ^ 200)
  | .fin s m e =>
    let q : Nat :=
      if 0 ≤ e then m <<< e.toNat
      else
        let k := (-e).toNat
        let q := m >>> k
        let r := m % 2 ^ k
        let h := 2 ^ (k - 1)
        if h < r || (r = h && q % 2 = 1) then q + 1 else q
    some (if s then -(q : Int) else q)

def int32Min : Int := -2147483648
def int32Max : Int := 2147483647
/-- Saturation to INT32. -/
def sat32 (x : Int) : Int := clampInt int32Min int32Max x

/-- Float to integer with saturation to [lo, hi]; a NaN becomes 0 (R147). -/
def fToInt (lo hi : Int) (a : Nat) : Int := clampInt lo hi ((fNearest a).getD 0)

/-- An order key of a word that is not NaN: larger value, larger key; +0.0 above −0.0 (R147). -/
def fKey (a : Nat) : Int :=
  let a := fCanon a
  if a.testBit 31 then -((a - 0x80000000 : Nat) : Int) - 1 else a

def fMax (a b : Nat) : Nat :=
  if fIsNaN a || fIsNaN b then fNaN else if fKey a < fKey b then fCanon b else fCanon a
def fMin (a b : Nat) : Nat :=
  if fIsNaN a || fIsNaN b then fNaN else if fKey b < fKey a then fCanon b else fCanon a

/-- A BF16 element widened to FP32. -/
def bfWiden (h : Nat) : Nat := (h % 65536) <<< 16

/-- FP32 narrowed to BF16: rounded to nearest even on the BF16 grid, then flushed (R78). -/
def bfNarrow (a : Nat) : Nat :=
  match fUnpack a with
  | .nan => 0x7FC0
  | .inf s => (signBit s + 0x7F800000) >>> 16
  | .fin s m e =>
    if m = 0 then signBit s >>> 16
    else
      let r := roundTo 8 m e
      fPack s (r.1 <<< 16) (r.2 - 16) >>> 16

/-- Scales by a power of two: only the exponent changes (R81). -/
def fLdexp (a : Nat) (k : Int) : Nat :=
  match fUnpack a with
  | .nan => fNaN
  | .inf s => fOf (.inf s)
  | .fin s m e => fRound s m (e + k)

/-- The floor of a finite non-negative value. -/
def fFloor (a : Nat) : Nat :=
  match fUnpack a with
  | .fin false m e => if 0 ≤ e then m <<< e.toNat else m >>> (-e).toNat
  | .fin true _ _ => 0
  | .inf _ => 0
  | .nan => 0

/-- a ≥ b, false for a NaN. -/
def fGe (a b : Nat) : Bool :=
  if fIsNaN a || fIsNaN b then false
  else
    let z := fun x => if x = fNegZero then 0 else x
    fKey (z (fCanon b)) ≤ fKey (z (fCanon a))

end Sys2Proof.Machine
end

