-- ==== Sys2Proof/Machine/Ranging.lean ====
section
/-! DEFINITION. Requantisation and running-maximum ranging (R110 to R130): rounding shifts, clamps, the running range,
the multiplier derived from a range, history records and their commit. -/

namespace Sys2Proof.Machine

/-! ### Requantisation (R114 to R117) -/

/-- Shift right with rounding to nearest, ties to even (R114). -/
def rshiftRne (p : Int) (s : Nat) : Int :=
  if s = 0 then p
  else
    let q := p >>> s
    let r := p - q * 2 ^ s
    let h : Int := 2 ^ (s - 1)
    if h < r || (r = h && q % 2 = 1) then q + 1 else q

/-- Range of an output type: INT8 for OUT 0, INT16 otherwise (R116). -/
def outMin (out : Nat) : Int := if out = 0 then -128 else -32768
def outMax (out : Nat) : Int := if out = 0 then 127 else 32767

/-- The clamp of R117: the maximum first, then the minimum. -/
def clampOut (out : Nat) (lo hi t : Int) : Int := min (max t (max lo (outMin out))) (min hi (outMax out))

/-- A value before the clamp is saturated (R116). -/
def outSat (out : Nat) (t : Int) : Bool := t < outMin out || outMax out < t

/-- Integer requantisation: the output and whether it is saturated (R114). -/
def rqInt (out : Nat) (lo hi x m : Int) (sh : Nat) (zo : Int) : Int × Bool :=
  let t := rshiftRne (x * m) (sh % 64) + zo
  (clampOut out lo hi t, outSat out t)

/-- Float requantisation (R115). -/
def rqFloat (out : Nat) (lo hi : Int) (f q : Nat) (zo : Int) : Int × Bool :=
  let u := fMul f q
  if fIsNaN u then (clampOut out lo hi 0, true)
  else
    let t := fToInt int32Min int32Max u + zo
    (clampOut out lo hi t, outSat out t)

/-! ### Ranges (R120, R122 to R124) -/

/-- A range entry of a history record (R120). -/
def RangeEntry.ofBytes (b : Bytes) : RangeEntry :=
  { obs := (List.range 8).map fun i => u32 b (4 * i), lastSat := u32 b 32, fbCount := u32 b 36, head := u8 b 40,
    fill := u8 b 41, n := u8 b 42, flags := u8 b 43 }

def RangeEntry.toBytes (e : RangeEntry) : Bytes :=
  e.obs.flatMap (leBytes 4) ++ leBytes 4 e.lastSat ++ leBytes 4 e.fbCount ++ leBytes 1 e.head ++ leBytes 1 e.fill ++
    leBytes 1 e.n ++ leBytes 1 e.flags ++ leBytes 4 0

/-- A history record. -/
def histBytes (h : List RangeEntry) : Bytes := h.flatMap RangeEntry.toBytes
def histOf (b : Bytes) : List RangeEntry := (chunks 48 b).map RangeEntry.ofBytes

/-- The running range of an entry (R122). -/
def RangeEntry.running (e : RangeEntry) : Nat :=
  (List.range (min e.n e.fill)).foldl (fun rg k => max rg (e.obs.getD ((e.head + 7 - k) % 8) 0)) 0

/-- Smallest k with (qmax << k) / d at least 2^30 (R123). -/
def shiftFor : Nat → Nat → Nat → Nat → Nat
  | 0, _, _, k => k
  | n + 1, qmax, d, k => if qmax <<< k / d < 0x40000000 then shiftFor n qmax d (k + 1) else k

/-- M and S derived from a range (R123). -/
def deriveInt (g qmax : Nat) : Nat × Nat :=
  let d := max g 1
  let k := shiftFor 64 qmax d 0
  let num := qmax <<< k
  let q := num / d
  let r := num % d
  let q := if d < 2 * r || (2 * r = d && q % 2 = 1) then q + 1 else q
  if q = 0x80000000 then (0x40000000, k - 1) else (q, k)

/-- Q derived from a range (R124): 2^-64 is 0x1F800000. -/
def deriveFloat (g qmax : Nat) : Nat := fDiv (fOfInt qmax) (max g 0x1F800000)

/-- Qmax of an output type (R118). -/
def qMax (int16 : Bool) : Nat := if int16 then 32767 else 127

/-- Commits one unit's observation to its entry (R129). -/
def RangeEntry.commit (e : RangeEntry) (o c : Nat) (observed fallback noHist : Bool) : RangeEntry :=
  { e with
    obs := if observed then e.obs.set e.head o else e.obs
    head := if observed then (e.head + 1) % 8 else e.head
    fill := if observed then min (e.fill + 1) 8 else e.fill
    lastSat := c
    fbCount := if fallback then min (e.fbCount + 1) 0xFFFFFFFF else e.fbCount
    flags := b2n fallback + 2 * b2n (!observed) + 4 * b2n noHist }

/-- The multiplier, shift and range in force for a unit's output (R122, R125, R127): those of O after a fall-back over a
unit that has elements, otherwise those of the running range. -/
def RangeUnit.force (u : RangeUnit) : Nat := if u.fellBack && u.observed then u.obs else u.rg

end Sys2Proof.Machine
end

