-- ==== Sys2Proof/Machine/Lka.lean ====
section
/-! DEFINITION. The lookup-accumulate work of an LKA command: steps, drone work, bank closes, requantisation and the
observations of ranging (R64 to R77, R99 to R119, R125, R140 to R145). A staged command is computed
whole at its row, and its banks are zero again when it ends (R72); a streamed one step by step. -/

namespace Sys2Proof.Machine

/-- What an LKA command works with: its bytes, its layer descriptor, the feeding half and its range-table entry. -/
structure LkaJob where
  tile : Nat
  cmd : Bytes
  desc : Bytes
  /-- First word and size in words of the feeding half. -/
  half : Nat
  halfWords : Nat
  decl : Option RangeDecl
  deriving DecidableEq, Repr

def LkaJob.flags (j : LkaJob) : Nat := u8 j.cmd 1
def LkaJob.streamed (j : LkaJob) : Bool := j.flags.testBit 1
/-- 0 CB4, 1 U4, 2 I8 (R100). -/
def LkaJob.wfmt (j : LkaJob) : Nat := bitsOf j.flags 3 2
def LkaJob.drone (j : LkaJob) : Bool := j.flags.testBit 4
def LkaJob.ranged (j : LkaJob) : Bool := j.flags.testBit 5
def LkaJob.rowMask (j : LkaJob) : Nat := u16 j.cmd 2
def LkaJob.blocks (j : LkaJob) : Nat := u16 j.cmd 8
def LkaJob.span (j : LkaJob) : Nat := u16 j.cmd 10 % 4096 * 64
def LkaJob.nspan (j : LkaJob) : Nat := u16 j.cmd 12
def LkaJob.rangeCh (j : LkaJob) : Nat := u16 j.desc 12
def LkaJob.rangeIdx (j : LkaJob) : Nat := u8 j.desc 14

/-- Row r is masked in block b (R69, R140). -/
def LkaJob.masked (j : LkaJob) (b r : Nat) : Bool := b + 1 = j.blocks && j.rowMask.testBit r

/-- Column o of the output block belongs to a range unit (R118). -/
def LkaJob.inUnit (j : LkaJob) (o : Nat) : Bool :=
  match j.decl with
  | some d => decide (j.rangeCh + o < d.channels)
  | none => false

/-- What the steps of a span have gathered, latest step first: the steps, the LKAs marked, the codebook, and the codebook of
the next group where it has been read ahead of the group's first step (R142). -/
structure LkaSpan where
  steps : List LkaStep
  marks : List Nat
  book : MWord
  ahead : Option MWord
  deriving DecidableEq, Repr

/-- A word consumed by the LKA path or read by a vector or drone command (R95). -/
def State.consume (s : State) (t w : Nat) : State × MWord :=
  let r := s.tileRead t w
  (r.1.whenB r.2.poison fun s => s.flag (TIL_STATUS_POISON_IN.tile t), r.2)

def State.consumes (s : State) (t w n : Nat) : State × List MWord :=
  s.reads (fun s a => s.consume t a) ((List.range n).map (w + ·))

def anyPoison (ws : List MWord) : Bool := ws.any (·.poison)

/-- Signed bytes of a word. -/
def wordInt8 (m : MWord) : List Int := (bytes128 m.data).map fun b => sext 8 b.toNat

/-- The 128 codes of a code row (R64). -/
def codesOf (ws : List MWord) : List Nat :=
  ws.flatMap fun m => (bytes128 m.data).flatMap fun b => [b.toNat % 16, b.toNat / 16]

/-- The weight value that a code selects in a pass (R100, R102). -/
def weightOf (wfmt : Nat) (high : Bool) (book : List Int) (e : Nat) : Int :=
  if wfmt = 0 then book.getD e 0 else if high then 16 * sext 4 e else (e : Int)

/-- One step of block b (R65, R70, R74, R141). A code row is four words from its first, and runs on past the end of the half
where CODE_BASE is no multiple of 4 (DESIGN CHOICE, log 203). -/
def LkaJob.step (j : LkaJob) (b st : Nat) (high : Bool) (act : MWord) (s : State) (a : LkaSpan) :
    State × LkaSpan :=
  let at_ := u16 j.cmd 18 + 4 * st
  let r := s.consumes j.tile (j.half + (if j.streamed then at_ % j.halfWords else at_)) 4
  let acts := ((List.range 16).zip (wordInt8 act)).map fun (k, x) => if j.masked b k then 0 else x
  let book := wordInt8 a.book
  let step : LkaStep := { acts := acts, ws := (codesOf r.2).map (weightOf j.wfmt high book), sums := !high }
  let marked := ((List.range 4).zip r.2).flatMap fun (q, m) => if m.poison then [2 * q, 2 * q + 1] else []
  let all := if act.poison || (j.wfmt = 0 && a.book.poison) then List.range 8 else []
  (r.1, { a with steps := step :: a.steps, marks := (marked ++ all).foldl (fun l k => insertNat k l) a.marks })

/-- Word of the codebook of the group that step st of a block opens (R141). -/
def LkaJob.bookWord (j : LkaJob) (st : Nat) : Nat := j.half + u16 j.desc 2 + st / 64

/-- Step st of block b, with the codebook first when it opens a weight group (R68, R101, R142). The two passes of an I8
channel apply one activation word (R141). -/
def LkaJob.stepAt (j : LkaJob) (b st : Nat) (s : State) (a : LkaSpan) : State × LkaSpan :=
  let i := if j.wfmt = 2 then st / 2 else st
  let high := j.wfmt = 2 && st % 2 = 1
  let c := if j.wfmt = 0 && i % 64 = 0 then
      match a.ahead with
      | some m => (s, { a with book := m, ahead := none })
      | none =>
        let r := s.consume j.tile (j.bookWord i)
        (r.1, { a with book := r.2 })
    else (s, a)
  let w := u16 j.cmd 14 + b * u16 j.cmd 16 + i
  let x := if high then (c.1, (c.1.tileRead j.tile w).2) else c.1.consume j.tile w
  j.step b st high x.2 x.1 c.2

/-- One accumulator over the steps of a span: saturating adds, and saturated from the first that clips (R73). -/
def accFold : List Int → List Int → Int × Bool → Int × Bool
  | a :: as, w :: ws, (x, sat) =>
    if sat then (x, true)
    else
      let y := x + w * a
      if y < int32Min then (int32Min, true)
      else if int32Max < y then (int32Max, true)
      else accFold as ws (y, false)
  | _, _, p => p

/-- Row r's activations, and column o's weights, in step order. -/
def LkaSpan.row (a : LkaSpan) (r : Nat) : List Int := a.steps.reverse.map fun st => st.acts.getD r 0
def LkaSpan.col (a : LkaSpan) (o : Nat) : List Int := a.steps.reverse.map fun st => st.ws.getD o 0
/-- Row sum of row r (R75). -/
def LkaSpan.rowSum (a : LkaSpan) (r : Nat) : Int :=
  a.steps.foldl (fun x st => if st.sums then x + st.acts.getD r 0 else x) 0

/-! ### Drone work (R76, R77, R107, R143, R144) -/

/-- BF16 elements of a word. -/
def wordBf16 (m : MWord) : List Nat := (List.range 8).map fun i => bfWiden (bitsOf m.data.toNat (16 * i + 15) (16 * i))

/-- The lanes in the order they are applied: activations of 16 positions, weights of 128 channels. -/
def LkaJob.lanes (j : LkaJob) (b : Nat) (s : State) : State × List (List Nat × List Nat) × Bool :=
  (List.range (u8 j.desc 1)).foldl (fun (p : State × List (List Nat × List Nat) × Bool) m =>
    let l := bitsOf (u64 j.desc 24) (4 * m + 3) (4 * m)
    let a := p.1.consumes j.tile (u16 j.desc 4 + b * u16 j.desc 6 + 2 * l) 2
    let w := a.1.consumes j.tile (u16 j.desc 8 + 16 * l) 16
    (w.1, p.2.1 ++ [(a.2.flatMap wordBf16, w.2.flatMap wordBf16)], p.2.2 || anyPoison a.2 || anyPoison w.2))
    (s, [], false)

/-- One drone accumulator: an FMA for each lane, from +0.0 (R107). -/
def droneAcc (lanes : List (List Nat × List Nat)) (r o : Nat) : Nat :=
  lanes.foldl (fun d l => fFma (l.1.getD r 0) (l.2.getD o 0) d) 0

/-- The merge of a drone accumulator: the accumulator and whether the merge is saturating (R108). -/
def droneMerge (acc : Int) (sat : Bool) (d mu : Nat) : Int × Bool :=
  if sat then (acc, false)
  else
    match fNearest (fMul d mu) with
    | none => (int32Min, true)
    | some n =>
      let m := sat32 n
      let x := acc + m
      (sat32 x, n != m || x < int32Min || int32Max < x)

/-! ### Scale blocks (R109 to R112) -/

structure ScaleBlock where
  /-- The float path is taken. -/
  float : Bool
  zw : Int
  sa : Nat
  lo : Int
  hi : Int
  out : Nat
  first : Bool
  last : Bool
  ct : List Int
  mu : List Nat
  ws : List Nat
  m : List Int
  sh : List Nat
  q : List Nat
  zo : List Int
  poison : Bool
  deriving DecidableEq, Repr

def i16At (b : Bytes) (o : Nat) : Int := sext 16 (u16 b o)
def i32At (b : Bytes) (o : Nat) : Int := sext 32 (u32 b o)

/-- Reads an optional section of n words at word w: the state, its bytes, the word after it, and whether it is marked. -/
def State.scaleSection (s : State) (t : Nat) (on : Bool) (w n : Nat) : State × Bytes × Nat × Bool :=
  if on then
    let r := s.consumes t w n
    (r.1, r.2.flatMap fun m => bytes128 m.data, w + n, anyPoison r.2)
  else (s, [], w, false)

def words32 (b : Bytes) : List Nat := (List.range 128).map fun i => u32 b (4 * i)

/-- Reads the scale block of span sp (R109 to R113); absent sections act under R111. RQ is
read also where no output is formed (R122; DESIGN CHOICE, log 251). -/
def LkaJob.scale (j : LkaJob) (sp : Nat) (s : State) : State × ScaleBlock :=
  let w := u16 j.cmd 20 + sp * u16 j.cmd 22
  let h := s.consume j.tile w
  let b := bytes128 h.2.data
  let sect := u8 b 0
  let float := match j.decl with
    | some d => d.float
    | none => u8 b 1 != 0
  let last := !float || (u8 b 13).testBit 1
  let ct := h.1.scaleSection j.tile (sect.testBit 0) (w + 1) 32
  let mu := ct.1.scaleSection j.tile (sect.testBit 1) ct.2.2.1 32
  let ws := mu.1.scaleSection j.tile (sect.testBit 2) mu.2.2.1 32
  let rqOn := sect.testBit 3 && last
  let rq := ws.1.scaleSection j.tile rqOn ws.2.2.1 (if float then 48 else 56)
  let r := rq.2.1
  let all := fun (on : Bool) (f : Nat → Int) (d : Int) => (List.range 128).map fun i => if on then f i else d
  (rq.1,
    { float := float, zw := i16At b 2, sa := u32 b 4, lo := i16At b 8, hi := i16At b 10, out := min (u8 b 12) 4,
      first := (u8 b 13).testBit 0, last := last,
      ct := all (sect.testBit 0) (fun i => i32At ct.2.1 (4 * i)) 0,
      mu := if sect.testBit 1 then words32 mu.2.1 else List.replicate 128 fOne,
      ws := if sect.testBit 2 then words32 ws.2.1 else List.replicate 128 fOne,
      m := all rqOn (fun i => i32At r (4 * i)) 0x40000000,
      sh := (List.range 128).map fun i => if rqOn then u8 r (512 + i) else 30,
      q := if rqOn then words32 r else List.replicate 128 fOne,
      zo := all rqOn (fun i => i16At r ((if float then 512 else 640) + 2 * i)) 0,
      poison := h.2.poison || ct.2.2.2 || mu.2.2.2 || ws.2.2.2 || rq.2.2.2 })

/-! ### From accumulator to output (R103, R113 to R119, R125) -/

/-- One element of a bank close. -/
structure LkaElem where
  /-- The output's bits; none where no output is formed. -/
  out : Option Nat
  /-- The wide word's bits; none where the wide buffer is not written. -/
  wide : Option Nat
  mark : Bool
  /-- Element of a unit: its magnitude when it is not excluded, and whether it is saturated. -/
  unit : Bool
  obs : Option Nat
  sat : Bool
  deriving DecidableEq, Repr

/-- Words of the output of one channel: elements in each word (R141). -/
def outPer (out : Nat) : Nat := if out = 0 then 16 else if out ≤ 2 then 8 else 4
def outBits (out : Nat) : Nat := 128 / outPer out
def outWords (out : Nat) : Nat := 16 / outPer out

/-- A float result in its output format (R113). -/
def narrowTo (out f : Nat) : Nat := if out = 2 then bfNarrow f else f

/-- The range unit of column o. -/
def unitOf (decl : Option RangeDecl) (units : List RangeUnit) (o : Nat) : Option RangeUnit :=
  match decl with
  | none => none
  | some d => if d.channel then units.find? fun u => u.col = o else units.head?

/-- Requantises an integer or a float value: the bits and whether it is saturated. -/
def rqIntBits (out : Nat) (lo hi x m : Int) (sh : Nat) (zo : Int) : Nat × Bool :=
  let r := rqInt out lo hi x m sh zo
  (trunc (outBits out) r.1, r.2)

def rqFloatBits (out : Nat) (lo hi : Int) (f q : Nat) (zo : Int) : Nat × Bool :=
  let r := rqFloat out lo hi f q zo
  (trunc (outBits out) r.1, r.2)

/-- One element: position row r, channel o of block b; `acc` after the merge, `rs` its row sum, `wide` its wide word as
read, `mark` the marks it carries (R113). An element that is written as BF16 is one of a drone-lane channel and is not
observed (R119, log 96); one of OUT 3 or 4 is (DESIGN CHOICE, log 200). -/
def LkaJob.elem (j : LkaJob) (b sp : Nat) (k : ScaleBlock) (units : List RangeUnit) (r o : Nat) (acc rs : Int)
    (wide : Nat) (mark : Bool) : LkaElem :=
  let x := sat32 (acc - k.zw * rs - k.ct.getD o 0)
  let c := fMul (k.ws.getD o 0) k.sa
  let u := if j.inUnit o then unitOf j.decl units o else none
  let int16 := j.decl.elim false (·.int16)
  let masked := j.masked b r
  let seen := !mark && !masked && k.out != 2
  if k.float then
    let f := fFma (fOfInt x) c (if k.first then 0 else wide)
    if !k.last then { out := none, wide := some f, mark := mark, unit := false, obs := none, sat := false }
    else
      let mag := f % 0x80000000
      let okObs := seen && !fIsNaN f && !fIsInf f
      let wideOut := if k.out ≤ 1 && j.ranged then some f else none
      let ob := if u.isSome && okObs then some mag else none
      let res := if k.out ≤ 1 then
          match u with
          | some v => if v.noHist then none
            else some (rqFloatBits k.out k.lo k.hi f (deriveFloat v.rg (qMax int16)) 0)
          | none => some (rqFloatBits k.out k.lo k.hi f (k.q.getD o 0) (k.zo.getD o 0))
        else some (narrowTo k.out f, false)
      { out := res.map (·.1), wide := wideOut, mark := mark, unit := u.isSome, obs := ob,
        sat := u.isSome && !masked && res.elim false (·.2) }
  else
    let lastSpan := sp + 1 = j.nspan
    let res := if k.out ≤ 1 then
        match u with
        | some v =>
          if v.noHist then none
          else
            let ms := deriveInt v.rg (qMax int16)
            some (rqIntBits k.out k.lo k.hi x ms.1 ms.2 0)
        | none => some (rqIntBits k.out k.lo k.hi x (k.m.getD o 0) (k.sh.getD o 0) (k.zo.getD o 0))
      else if k.out ≤ 3 then some (narrowTo k.out (fMul (fOfInt x) c), false)
      else some (trunc 32 x, false)
    { out := res.map (·.1), wide := if j.ranged && lastSpan then some (trunc 32 x) else none, mark := mark,
      unit := u.isSome && lastSpan, obs := if u.isSome && lastSpan && seen then some x.natAbs else none,
      sat := u.isSome && lastSpan && !masked && res.elim false (·.2) }

/-- Packs elements of a channel into words of `per` elements; a word takes a mark from any of its elements. -/
def packElems (per bits : Nat) (es : List (Nat × Bool)) : List MWord :=
  (chunks per es).map fun l =>
    { data := BitVec.ofNat 128 (((List.range l.length).zip l).foldl (fun a e => a ||| (e.2.1 <<< (bits * e.1))) 0)
      poison := l.any (·.2) }

/-- Writes result words; a marked one sets POISON_OUT (R95). -/
def State.resultWrites (s : State) (t w : Nat) (ms : List MWord) : State :=
  ((List.range ms.length).zip ms).foldl (fun s e =>
    (s.tileWrite t (w + e.1) e.2).whenB e.2.poison fun s => s.flag (TIL_STATUS_POISON_OUT.tile t)) s

/-- Adds an element to its unit (R125). -/
def RangeUnit.add (u : RangeUnit) (e : LkaElem) : RangeUnit :=
  { u with
    obs := max u.obs (e.obs.getD 0)
    observed := u.observed || e.obs.isSome
    sat := if e.sat then min (u.sat + 1) 0xFFFFFFFF else u.sat }

/-- Closes the bank of span sp of block b (R72, R74, R103, R108, R112, R113). A bank without drone work adds 0 at the merge,
whatever its merge scales are (DESIGN CHOICE, log 201); a DRONE_SPAN that no span of the command has gives no drone work
(DESIGN CHOICE, log 202). -/
def LkaJob.close (j : LkaJob) (b sp : Nat) (a : LkaSpan) (s : State) (units : List RangeUnit) :
    State × List RangeUnit :=
  let t := j.tile
  let dr := if j.drone && u16 j.desc 10 = sp then j.lanes b s else (s, [], false)
  let kr := j.scale sp dr.1
  let k := kr.2
  let marks := if dr.2.2 || k.poison then List.range 8 else a.marks
  let rows := (List.range 16).map a.row
  let sums := (List.range 16).map a.rowSum
  let merged := fun (o r : Nat) (col : List Int) =>
    let p := accFold (rows.getD r []) col (0, false)
    if dr.2.1.isEmpty then (p, (p.1, false)) else (p, droneMerge p.1 p.2 (droneAcc dr.2.1 r o) (k.mu.getD o 0))
  let accs := (List.range 128).map fun o =>
    let col := a.col o
    (List.range 16).map fun r => merged o r col
  let nsat := accs.foldl (fun n l => l.foldl (fun n e => n + b2n e.1.2 + b2n e.2.2) n) 0
  let s := (List.range nsat).foldl (fun s _ => s.flag (TIL_STATUS_ACC_SAT.tile t)) kr.1
  let s := s.whenB (0 < nsat) fun s => s.count (TIL_SAT_COUNT_COUNT.tile t) 1
  ((List.range 128).zip accs).foldl (fun (p : State × List RangeUnit) (o, l) =>
    let wideAt := u16 j.cmd 28 + 512 * b + 4 * o
    let wr := if k.float && !k.first then p.1.consumes t wideAt 4 else (p.1, [])
    let es := ((List.range 16).zip l).map fun (r, e) =>
      let w := wr.2.getD (r / 4) MWord.zero
      j.elem b sp k p.2 r o e.2.1 (sums.getD r 0) (bitsOf w.data.toNat (32 * (r % 4) + 31) (32 * (r % 4)))
        (marks.contains (o / 16) || w.poison)
    let s := if es.all (·.out.isSome) then
        wr.1.resultWrites t (u16 j.cmd 24 + b * u16 j.cmd 26 + o * outWords k.out)
          (packElems (outPer k.out) (outBits k.out) (es.map fun e => (e.out.getD 0, e.mark)))
      else wr.1
    let s := if es.all (·.wide.isSome) then
        s.resultWrites t wideAt (packElems 4 32 (es.map fun e => (e.wide.getD 0, e.mark)))
      else s
    let add := fun (u : RangeUnit) => es.foldl (fun u e => if e.unit then u.add e else u) u
    let units := p.2.map fun u =>
      match j.decl with
      | some d => if !j.inUnit o || (d.channel && u.col != o) then u else add u
      | none => u
    (s, units)) (s, units)

/-- The range units of a ranged LKA at its start (R118, R122). -/
def LkaJob.units (j : LkaJob) (hist : List RangeEntry) (first : Nat) : List RangeUnit :=
  match j.decl with
  | none => []
  | some d =>
    let unit := fun (col i : Nat) =>
      let e := hist.getD i (RangeEntry.ofBytes [])
      { col := col, rg := e.running, noHist := e.fill = 0, obs := 0, sat := 0, observed := false, fellBack := false }
    if d.channel then
      ((List.range 128).filter fun c => j.rangeCh + c < d.channels).map fun c => unit c (first + j.rangeCh + c)
    else [unit 0 first]

/-- Steps of the whole command. -/
def LkaJob.steps (j : LkaJob) : Nat := j.blocks * j.nspan * j.span

/-- Step k of the command; the last step of a span closes its bank (R71, R141, R142). -/
def LkaJob.runStep (j : LkaJob) (p : State × LkaSpan × List RangeUnit) (k : Nat) :
    State × LkaSpan × List RangeUnit :=
  let b := k / (j.nspan * j.span)
  let st := k % (j.nspan * j.span)
  let r := j.stepAt b st p.1 p.2.1
  if (st + 1) % j.span = 0 then
    let c := j.close b (st / j.span) r.2 r.1 p.2.2
    (c.1.modTile j.tile fun x => { x with lastBank := 1 - x.lastBank }, { steps := [], marks := [], book := r.2.book, ahead := r.2.ahead },
      c.2)
  else (r.1, r.2, p.2.2)

/-- Steps [first, first + n) of the command, from and to what the open bank and the codebook registers hold. Steps are
counted in units of 4,096 (R96). -/
def LkaJob.run (j : LkaJob) (first n : Nat) (ahead : Option MWord) (s : State) (units : List RangeUnit) :
    State × Option MWord × List RangeUnit :=
  let x := s.tileOf j.tile
  let bank := if x.lastBank = 0 then x.bank1 else x.bank0
  let r := ((List.range n).map (first + ·)).foldl j.runStep
    (s, { steps := bank.steps, marks := bank.marks, book := x.cbActive, ahead := ahead }, units)
  let total := x.stepRem + n
  let open_ : Bank := { steps := r.2.1.steps, marks := r.2.1.marks }
  let s := r.1.modTile j.tile fun x =>
    { x with bank0 := if x.lastBank = 0 then Bank.clear else open_
             bank1 := if x.lastBank = 0 then open_ else Bank.clear
             cbActive := r.2.1.book, cbNext := r.2.1.ahead.getD r.2.1.book, stepRem := total % 4096 }
  (s.count (TIL_STEP_COUNT_COUNT.tile j.tile) (total / 4096), r.2.1.ahead, r.2.2)

/-! ### The fall-back and the records of RANGE (R127, R128) -/

/-- Requantises a channel again from its wide words, in every position block (R127); also where the scale block's OUT is
2 to 4 (DESIGN CHOICE, log 200). -/
def LkaJob.fallBack (j : LkaJob) (out : Nat) (lo hi : Int) (d : RangeDecl) (u : RangeUnit) (o : Nat) (s : State) :
    State :=
  let t := j.tile
  (List.range j.blocks).foldl (fun s b =>
    let wr := s.consumes t (u16 j.cmd 28 + 512 * b + 4 * o) 4
    let es := (List.range 16).map fun r =>
      let w := wr.2.getD (r / 4) MWord.zero
      let v := bitsOf w.data.toNat (32 * (r % 4) + 31) (32 * (r % 4))
      let bits := if !u.observed then 0
        else if d.float then (rqFloatBits out lo hi v (deriveFloat u.obs (qMax d.int16)) 0).1
        else
          let ms := deriveInt u.obs (qMax d.int16)
          (rqIntBits out lo hi (sext 32 v) ms.1 ms.2 0).1
      (bits, w.poison)
    wr.1.resultWrites t (u16 j.cmd 24 + b * u16 j.cmd 26 + o * outWords out)
      (packElems (outPer out) (outBits out) es)) s

/-- The range result record of a unit (R128). -/
def rangeRecord (d : RangeDecl) (u : RangeUnit) : Bytes :=
  let g := u.force
  let ms := deriveInt g (qMax d.int16)
  leBytes 4 g ++ leBytes 4 (if d.float then deriveFloat g (qMax d.int16) else ms.1) ++
    leBytes 1 (if d.float then 0 else ms.2) ++
    leBytes 1 (b2n u.fellBack + 2 * b2n (!u.observed) + 4 * b2n u.noHist) ++ [0, 0] ++
    leBytes 4 (if u.noHist then 0 else u.sat)

end Sys2Proof.Machine
end

