-- ==== Sys2Proof/Machine/Vec.lean ====
section
/-! DEFINITION. The vector unit: VEC sub-operations, horizontal reductions and function tables (R78 to R82, R146 to
R151). -/

namespace Sys2Proof.Machine

/-! ### Elements (R146) -/

/-- Element types of TYPES. -/
def tyInt32 : Nat := 0
def tyFp32 : Nat := 1
def tyBf16 : Nat := 2
def tyInt8 : Nat := 3

def tyFloat (ty : Nat) : Bool := ty == 1 || ty == 2
/-- Elements in a word, and bits of an element. -/
def tyPer (ty : Nat) : Nat := if ty = 3 then 16 else if ty = 2 then 8 else 4
def tyBits (ty : Nat) : Nat := 128 / tyPer ty

/-- A value in the course of an operation: INT8 and INT32 as integers, BF16 and FP32 as FP32 words. -/
inductive VVal where
  | int (x : Int)
  | fp (w : Nat)
  deriving DecidableEq, Repr

/-- An element as it is widened (R147). -/
def vWiden (ty bits : Nat) : VVal :=
  if ty = 3 then .int (sext 8 bits) else if ty = 0 then .int (sext 32 bits)
  else if ty = 2 then .fp (bfWiden bits) else .fp bits

/-- A result in the output type (R147). -/
def vNarrow (ty : Nat) (v : VVal) : Nat :=
  match v with
  | .int x =>
    if ty = 0 then trunc 32 (sat32 x) else if ty = 3 then trunc 8 (clampInt (-128) 127 x)
    else if ty = 2 then bfNarrow (fOfInt x) else fOfInt x
  | .fp w =>
    if ty = 0 then trunc 32 (fToInt int32Min int32Max w) else if ty = 3 then trunc 8 (fToInt (-128) 127 w)
    else if ty = 2 then bfNarrow w else fCanon w

/-- A value as FP32. -/
def VVal.toFp (v : VVal) : Nat :=
  match v with
  | .int x => fOfInt x
  | .fp w => w

/-- Element bits with the mark of their word, of n elements packed from the words. -/
def vElems (ty n : Nat) (ms : List MWord) : List (Nat × Bool) :=
  (ms.flatMap fun m => (List.range (tyPer ty)).map fun i =>
    (bitsOf m.data.toNat (tyBits ty * i + tyBits ty - 1) (tyBits ty * i), m.poison)).take n

/-- An operation of two values in the input type (R147). -/
def vOp2 (fi : Int → Int → Int) (ff : Nat → Nat → Nat) (a b : VVal) : VVal :=
  match a, b with
  | .int x, .int y => .int (sat32 (fi x y))
  | a, b => .fp (ff a.toFp b.toFp)

def vAdd : VVal → VVal → VVal := vOp2 (· + ·) fAdd
def vMax : VVal → VVal → VVal := vOp2 max fMax

/-! ### Horizontal reductions (R79, R148) -/

/-- One stage of the tree: adjacent pairs, the lower index first. -/
def pairUp (op : VVal → VVal → VVal) : List VVal → List VVal
  | a :: b :: r => op a b :: pairUp op r
  | l => l

/-- Six stages give one result. -/
def tree64 (op : VVal → VVal → VVal) (l : List VVal) : VVal :=
  ((pairUp op (pairUp op (pairUp op (pairUp op (pairUp op (pairUp op l)))))).head?).getD (.int 0)

/-- A group reduced in chunks of 64 lanes, the last one filled, the chunk results in ascending order. -/
def reduceGroup (op : VVal → VVal → VVal) (fill : VVal) (l : List VVal) : VVal :=
  match (chunks 64 l).map fun c => tree64 op (c ++ List.replicate (64 - c.length) fill) with
  | [] => fill
  | c :: r => r.foldl op c

def sumFill (ty : Nat) : VVal := if tyFloat ty then .fp fNegZero else .int 0
def maxFill (ty : Nat) : VVal :=
  if tyFloat ty then .fp 0xFF800000 else if ty = 3 then .int (-128) else .int int32Min

/-! ### Function tables (R80, R81) -/

def FTable.bytes (f : FTable) : Bytes := f.words.flatMap bytes128

/-- The polynomial of a segment. -/
def tabPoly (b : Bytes) (k t : Nat) : Nat :=
  let c := fun i => u32 b (32 + 16 * k + 4 * i)
  fFma (fFma (fFma (c 3) t (c 2)) t (c 1)) t (c 0)

/-- The low n bits of a mantissa as a fraction. -/
def mantFrac (m n : Nat) : Nat := fRound false (m % 2 ^ n) (-(n : Int))

/-- A lookup (R81). -/
def tabLookup (b : Bytes) (x : Nat) : Nat :=
  let x := fCanon x
  if fIsNaN x then fNaN
  else
    let sm := u8 b 17
    let neg := sm != 0 && x.testBit 31
    let a := if sm != 0 then x % 0x80000000 else x
    let y :=
      if u8 b 16 = 0 then
        let u := fFma a (u32 b 0) (u32 b 4)
        if !fGe u 0 then u32 b 8
        else if fGe u 0x42800000 then u32 b 12
        else
          let k := fFloor u
          tabPoly b k (fSub u (fOfInt k))
      else if fGe 0 a then u32 b 8
      else if fIsInf a then u32 b 12
      else
        let e : Int := (bitsOf a 30 23 : Int) - 127
        let m := bitsOf a 22 0
        if u8 b 18 = 0 then fLdexp (tabPoly b (m / 2 ^ 17) (mantFrac m 17)) (-e)
        else if u8 b 18 = 1 then
          fLdexp (tabPoly b (32 * (e % 2).toNat + m / 2 ^ 18) (mantFrac m 18)) (-(e / 2))
        else fAdd (tabPoly b (m / 2 ^ 17) (mantFrac m 17)) (fOfInt e)
    fCanon (if neg && sm = 1 then fNeg y else y)

/-! ### VEC (R146 to R149) -/

def vecSub (c : Bytes) : Nat := u8 c 1
def vecIn (c : Bytes) : Nat := u8 c 2 % 4
def vecOut (c : Bytes) : Nat := u8 c 2 / 4 % 4
def vecCount (c : Bytes) : Nat := u32 c 16
def vecGroup (c : Bytes) : Nat := u32 c 20

/-- Reads n elements of a type. -/
def State.readElems (s : State) (t w ty n : Nat) : State × List (Nat × Bool) :=
  let r := s.consumes t w (ceilDiv n (tyPer ty))
  (r.1, vElems ty n r.2)

/-- An operand: n elements, or one element for every lane; an operation that does not take it reads nothing. -/
def State.operand (s : State) (t w ty n : Nat) (used scalar : Bool) : State × List (Nat × Bool) :=
  if !used then (s, [])
  else
    let r := s.readElems t w ty (if scalar then 1 else n)
    if scalar then (r.1, List.replicate n (r.2.headD (0, false))) else r

/-- Writes result elements of a type from word w; a last word that is not full keeps its other bytes and its mark
(R83). -/
def State.writeElems (s : State) (t w ty : Nat) (es : List (Nat × Bool)) : State :=
  let per := tyPer ty
  let full := es.length / per
  let s := s.resultWrites t w (packElems per (tyBits ty) (es.take (full * per)))
  let rest := es.drop (full * per)
  if rest.isEmpty then s
  else
    let old := s.tileRead t (w + full)
    let m := (packElems per (tyBits ty) rest).headD MWord.zero
    let n := tyBits ty * rest.length
    old.1.resultWrites t (w + full)
      [{ data := BitVec.ofNat 128 (old.2.data.toNat >>> n <<< n ||| m.data.toNat), poison := old.2.poison || m.poison }]

/-- Element i of a run of 16 × 16 tiles comes from this element (R147, TRANSPOSE). -/
def transposed (i : Nat) : Nat := i / 256 * 256 + i % 16 * 16 + i % 256 / 16

/-- Result of a lane-wise sub-operation. -/
def vecLane (sub ty out : Nat) (table : Bytes) (a b c : Nat) : Nat :=
  let x := vWiden ty a
  let y := vWiden ty b
  let z := vWiden ty c
  if sub = 0 then vNarrow out (vAdd x y)
  else if sub = 1 then vNarrow out (vOp2 (· - ·) fSub x y)
  else if sub = 2 then vNarrow out (vOp2 (· * ·) fMul x y)
  else if sub = 3 then vNarrow out (.fp (fFma x.toFp y.toFp z.toFp))
  else if sub = 4 then vNarrow out (vMax x y)
  else if sub = 5 then vNarrow out (vOp2 min fMin x y)
  else if sub = 7 then vNarrow out (.fp (tabLookup table x.toFp))
  else if sub = 11 then vNarrow out (.fp (fMul x.toFp y.toFp))
  else vNarrow out x

/-- The work of a VEC command. TRANSPOSE converts its elements as CVT does where the types differ (DESIGN CHOICE, log 210). -/
def State.vecWork (s : State) (t : Nat) (c : Bytes) : State :=
  let sub := vecSub c
  let ty := vecIn c
  let out := vecOut c
  let n := vecCount c
  let useB := [0, 1, 2, 3, 4, 5, 11].contains sub
  let a := s.readElems t (u16 c 8) ty n
  let b := a.1.operand t (u16 c 10) ty n useB ((u8 c 2).testBit 4)
  let d := b.1.operand t (u16 c 12) ty n (sub = 3) ((u8 c 2).testBit 5)
  let s := d.1
  let dst := u16 c 14
  if sub = 8 || sub = 9 then
    let mark := a.2.any (·.2)
    let op := if sub = 8 then vAdd else vMax
    let fill := if sub = 8 then sumFill ty else maxFill ty
    let gs := (chunks (max 1 (vecGroup c)) (a.2.map fun e => vWiden ty e.1)).map (reduceGroup op fill)
    s.writeElems t dst out (gs.map fun v => (vNarrow out v, mark))
  else if sub = 10 then s.writeElems t dst ty a.2
  else if sub = 12 then
    let es := (List.range n).map fun i => a.2.getD (transposed i) (0, false)
    s.writeElems t dst out (if ty = out then es else es.map fun e => (vNarrow out (vWiden ty e.1), e.2))
  else
    let tab := if sub = 7 then Tab.look (s.tileOf t).ftab (u8 c 3 % 8) else none
    let table := match tab with
      | some f => f.bytes
      | none => []
    let tm := tab.elim false (·.poison)
    let es := (List.range n).map fun i =>
      let x := a.2.getD i (0, false)
      let y := b.2.getD i (0, false)
      let z := d.2.getD i (0, false)
      (vecLane sub ty out table x.1 y.1 z.1, x.2 || y.2 || z.2 || tm)
    s.writeElems t dst out es

/-- The work of an FTAB command: a slot takes 66 words and one mark for the whole table (R80, R95, R151). -/
def State.ftabWork (s : State) (t : Nat) (c : Bytes) : State :=
  let slot := u8 c 8 % 8
  let r := s.consumes t (u16 c 10) 66
  let f : FTable := { words := r.2.map (·.data), poison := anyPoison r.2 }
  let s := r.1.modTile t fun x => { x with ftab := Tab.put x.ftab slot f }
  s.setFld (TIL_CFG_FTAB_LOADED.tile t) (s.fld (TIL_CFG_FTAB_LOADED.tile t) ||| 2 ^ slot)

end Sys2Proof.Machine
end

