-- ==== Sys2Proof/Machine/Seq.lean ====
section
/-! DEFINITION. The tile sequencers: fetch and issue, lateness and breaches, compute commands, barriers, semaphores, event
lines, hand-over waits and ranging (R47, R48, R133 to R138, R142, R152 to R155, R174, R191 to R199). -/

namespace Sys2Proof.Machine

/-! ### The run window -/

/-- Envelope of the present tick (R480). -/
def State.env (s : State) : Nat := s.fld PWR_STATE_ENV_ACT

/-- The arithmetic clock in MHz (R481, R482). -/
def ClockSource.mhz (c : ClockSource) : Nat :=
  match c with
  | .pll0 => 2000
  | .pll0Half => 1000
  | .pll1 => 1600
  | .osc => 200

def State.mhz (s : State) : Nat := s.power.clock.mhz

/-- Model time of a run-window cycle. -/
def State.cycleTime (s : State) (c : Nat) : Nat := s.runStart + (c - s.runCycle) * 1000 / s.mhz

/-- The service that holds a tile. -/
def State.tileSvc (s : State) (t : Nat) : Nat := s.fld (TIL_STATE_SERVICE.tile t)

/-- Sets a flag of the result record of a service's tick (R405). -/
def State.tickFlag (s : State) (svc bit : Nat) : State :=
  s.modSvc svc fun v => { v with log := { v.log with flags := v.log.flags ||| 2 ^ bit } }

/-- Bits of the result record's FLAGS (R405). -/
def rfOverrun : Nat := 0
def rfSkipped : Nat := 1
def rfResumed : Nat := 2
def rfBreach : Nat := 3
def rfFallback : Nat := 4
def rfIndexRange : Nat := 5
def rfPoolWait : Nat := 6
def rfPoolDiscard : Nat := 7
def rfPoolTaint : Nat := 8
def rfPoison : Nat := 9
def rfSubst : Nat := 10
def rfDiscard : Nat := 11
def rfDrop : Nat := 12
def rfTrunc : Nat := 13
def rfSuspended : Nat := 14
def rfStopped : Nat := 15
def rfClusterFault : Nat := 16

/-- A determinism breach (R47, R48). -/
def State.breach (s : State) (source t cycle : Nat) : State :=
  let s := (s.count TCK_BREACH_COUNT_COUNT 1).count (TIL_STALL_COUNT_COUNT.tile t) 1
  let s := s.firstRecord TCK_BREACH_REC_VALID
    [(TCK_BREACH_REC_TICK, s.tick), (TCK_BREACH_REC_SOURCE, source), (TCK_BREACH_REC_TILE, t),
      (TCK_BREACH_REC_CYCLE64, cycle / 64)]
  (s.flagWith TCK_STATUS_BREACH (leBytes 1 source ++ leBytes 1 t ++ [0, 0] ++ leBytes 4 cycle)).tickFlag (s.tileSvc t)
    rfBreach

/-- An action of a stopped tile in shadow mode (R199). -/
def State.proxy (s : State) : State := (s.count FAB_PROXY_COUNT_COUNT 1).flag FAB_STATUS_PROXY

/-! ### Slab pages that a tile waits for -/

def State.bSlabOf (s : State) (t : Nat) : Nat := bSlab (imgCode (s.svc (s.tileSvc t)).image) s.env

/-- Slab pages of a fill. -/
def SlabRead.pages (r : SlabRead) : List Nat := pagesOf r.offset r.length

/-- Cycle by which the first n bytes of a fill are written. -/
def State.fillCycle (s : State) (t : Nat) (r : SlabRead) (n : Nat) : Nat :=
  r.issue + lFill s.env + ceilDiv n (s.bSlabOf t) + r.shift

/-- End of the bytes that page i of a fill delivers, from its first byte. -/
def SlabRead.through (r : SlabRead) (i : Nat) : Nat := min (r.offset + r.length) ((r.offset / 4096 + i + 1) * 4096) - r.offset

/-- Cycle at which the next page of a fill in progress is delivered. -/
def State.pageDue (s : State) (t : Nat) : Option Nat :=
  match (s.tileOf t).slab with
  | none => none
  | some r => if r.delivered < r.pages.length then some (s.fillCycle t r (r.through r.delivered)) else none

/-- Cycles of a repair round: 1.6 µs (R217). -/
def State.roundCycles (s : State) : Nat := 1600 * s.mhz / 1000

/-- The repair at the head of the engine's queue, and the scheduled end of its next round, when that ends by the deadline:
both are scheduled cycles, so how late the tile or the page comes changes no round (R218). -/
def State.roundDue (s : State) (t : Nat) : Option (Repair × Nat) :=
  let x := s.tileOf t
  match x.repairs with
  | [] => none
  | r :: _ =>
    let e := max x.repairFree r.cycle + s.roundCycles
    if e ≤ r.deadline && r.round ≤ r.retryMax then some (r, e) else none

/-- A page delivery or a repair round is due by a cycle: what the tile does at that cycle waits for it. -/
def State.slabDue (s : State) (t c : Nat) : Bool :=
  (s.pageDue t).any (· ≤ c) || (s.roundDue t).any (·.2 ≤ c) || (s.tileOf t).slab.any (·.stalled)

/-! ### Fetch and issue (R134, R138) -/

/-- Entry i of a copy that R133 placed, from the tile's cluster store. -/
def State.fetch (s : State) (t ty i : Nat) : State × Bytes :=
  let b := (s.svc (s.tileSvc t)).image
  let off := packOffset b t s.env ty + 32 * i
  let g := imgSegments b (t / 8)
  let r := s.reads (fun s o => s.csRead (t / 8) (packByte g o / 16)) [off, off + 16]
  (r.1, wordBytes r.2)

/-- Index of the descriptor that a command names. -/
def cmdDescOf (c : Bytes) : Nat := if cmdOp c = opLka then u16 c 30 % 4096 else cmdDesc c

/-- A command at its issue: the tile, its place in the stream, its bytes and descriptor, and the actual issue cycle. -/
structure Issued where
  tile : Nat
  index : Nat
  cmd : Bytes
  desc : Bytes
  cycle : Nat
  shadow : Bool
  deriving DecidableEq, Repr

/-- The command's issue span ends: the sequencer goes on to the next. A compute command's span runs on after the row;
otherwise the phase is that of the transfers in flight. -/
def State.advanceTo (s : State) (t cycle : Nat) (compute : Bool) : State :=
  let s := s.modTile t fun x => { x with pc := x.pc + 1, cycle := cycle, wait := none, run := none }
  s.setFld (TIL_STATE_PHASE.tile t) (if !(s.tileOf t).xfers.isEmpty then 2 else b2n compute)

/-- The sequencer waits at the present command. -/
def State.waitAt (s : State) (t cycle : Nat) (w : Wait) : State :=
  s.modTile t fun x => { x with cycle := cycle, wait := some w }

/-! ### LKA (R140 to R145) -/

def State.stageOf (s : State) (t : Nat) : Nat := s.fld (TIL_CFG_STAGE.tile t)
def State.feeding (s : State) (t : Nat) : Nat := s.fld (TIL_SLAB_STAT_HALF.tile t)

def State.lkaJob (s : State) (t : Nat) (c d : Bytes) : LkaJob :=
  let rs := imgRanges (s.svc (s.tileSvc t)).image
  { tile := t, cmd := c, desc := d, half := halfBase (s.stageOf t) (s.feeding t), halfWords := halfWords (s.stageOf t),
    decl := if (u8 c 1).testBit 5 then rs[u8 d 14]? else none }

/-- Commits what a range unit observed to the history that the next boundary takes (R129); of several commits to one entry
in a tick the last stands (DESIGN CHOICE, log 205). -/
def State.commitUnits (s : State) (svc first : Nat) (channel : Bool) (base : Nat) (units : List RangeUnit) : State :=
  s.modSvc svc fun v =>
    { v with
      histNext := units.foldl (fun h u =>
        let i := if channel then first + base + u.col else first
        h.set i ((v.hist.getD i (RangeEntry.ofBytes [])).commit u.obs (if u.noHist then 0 else u.sat) u.observed u.fellBack
          u.noHist)) v.histNext }

/-- The command has issued all its steps: the range units stand as the main pass left them (R125, R155). Each
LKA has formed its units anew (DESIGN CHOICE, log 205). -/
def State.lkaEnd (s : State) (j : LkaJob) (index : Nat) (units : List RangeUnit) : State :=
  let t := j.tile
  match j.decl with
  | none => s
  | some d =>
    let svc := s.tileSvc t
    let k := (j.scale (j.nspan - 1) s).2
    let r : Ranged := { idx := j.rangeIdx, lka := index, units := units, out := k.out, lo := k.lo, hi := k.hi,
                        combined := false }
    let s := s.modTile t fun x => { x with ranged := r :: x.ranged.filter fun y => y.idx != r.idx }
    s.commitUnits svc (rangeFirst (imgRanges (s.svc svc).image) j.rangeIdx) d.channel j.rangeCh units

def State.lkaUnits (s : State) (j : LkaJob) : List RangeUnit :=
  let v := s.svc (s.tileSvc j.tile)
  j.units v.hist (rangeFirst (imgRanges v.image) j.rangeIdx)

/-- Issue cycle of step k of an LKA (R142). -/
def State.streamCycle (s : State) (j : LkaJob) (issue k : Nat) : Nat :=
  issue + 16 + (if j.streamed then 64 * k / s.bSlabOf j.tile else k)

/-- The codebook of the group that follows the first `next` steps of an LKA, read 16 cycles before the group's first
step where that is before a cycle (R142). -/
def State.readAhead (s : State) (j : LkaJob) (issue cycle next : Nat) (ahead : Option MWord) : State × Option MWord :=
  let k := (next + 63) / 64 * 64
  if j.wfmt = 0 && ahead.isNone && decide (k < j.steps) && decide (s.streamCycle j issue k < cycle + 16) then
    let r := s.consume j.tile (j.bookWord (k % (j.nspan * j.span)))
    (r.1, some r.2)
  else (s, ahead)

/-- Issues the steps of an LKA in progress whose cycle is before a cycle. -/
def State.stream (s : State) (t cycle : Nat) : State :=
  let s := s.moveBefore cycle
  let x := s.tileOf t
  match x.run with
  | none => s
  | some r =>
    let c := s.fetch t tyCommands x.pc
    let d := c.1.fetch t tyDescriptors (cmdDescOf c.2)
    let j := s.lkaJob t c.2 d.2
    let n := ((List.range (j.steps - r.next)).takeWhile fun k => s.streamCycle j x.cycle (r.next + k) < cycle).length
    let q := j.run r.next n r.ahead s r.units
    let a := q.1.readAhead j x.cycle cycle (r.next + n) q.2.1
    a.1.modTile t fun x => { x with run := some { next := r.next + n, ahead := a.2, units := q.2.2 } }

/-- An LKA in progress ends once its fill has brought every page that is due by then. -/
def State.endRun (s : State) (t : Nat) : State :=
  let x := s.tileOf t
  match x.run with
  | none => s
  | some _ =>
    let c := (s.fetch t tyCommands x.pc).2
    let e := x.cycle + lkaSpan c (s.bSlabOf t)
    if s.slabDue t e then s
    else
      let s := s.stream t (e + 1)
      let d := (s.fetch t tyDescriptors (cmdDescOf c)).2
      let units := (s.tileOf t).run.elim [] (·.units)
      (s.lkaEnd (s.lkaJob t c d) x.pc units).advanceTo t e true

/-- Earliest cycle of a command of an opcode on a late tile: compute, and END, wait for every outstanding transfer (R93),
and an LKA that swaps the halves waits for a fill of the half that it makes feeding (R169). -/
def State.readyCycle (s : State) (t op : Nat) (c : Bytes) : Nat :=
  let x := s.tileOf t
  if !([opLka, opVec, opFtab, opRange, opEnd].contains op) then 0
  else
    let n := x.xfers.foldl (fun m o => max m o.done) 0
    let fill := x.slab.filter fun r => op == opLka && (u8 c 1).testBit 0 && !r.ring && b2n r.half1 != s.feeding t
    max n (fill.elim 0 fun r => r.done + r.shift)

/-- Cycle at which the tile issues a command: its own ISSUE where the tile is stopped, also one that has passed (R199; DESIGN CHOICE,
log 255). -/
def State.issueCycle (s : State) (t : Nat) (c : Bytes) : Nat :=
  let x := s.tileOf t
  if x.shadow then cmdIssue c else max (max (cmdIssue c) x.cycle) (s.readyCycle t (cmdOp c) c)

/-- The tile's next command, when it is of an opcode and the sequencer can issue it: `f` is its effect. Words that the fabric moves in
earlier cycles have moved before it (R186). -/
def State.issue (s : State) (t op : Nat) (f : State → Issued → State) : State :=
  let s1 := if s.tileState t = tsRunning then s.endRun t else s
  let x := s1.tileOf t
  if s1.tileState t != tsRunning || x.wait.isSome || x.run.isSome then s
  else
    let c := s1.fetch t tyCommands x.pc
    let cycle := s1.issueCycle t c.2
    if cmdOp c.2 != op || c.2.length != 32 || s1.slabDue t cycle then s
    else
      let d := if [opLka, opXfer, opGather, opSlabFill, opHand].contains op then
          c.1.fetch t tyDescriptors (cmdDescOf c.2)
        else (c.1, [])
      f (((d.1.upTo (d.1.cycleTime cycle)).moveBefore cycle).setFld (TIL_CYCLE_CYCLE.tile t) cycle)
        { tile := t, index := x.pc, cmd := c.2, desc := d.2, cycle := cycle, shadow := x.shadow }

def execNop (tile : Nat) (s : State) : Host.Outcome State Fault Refusal :=
  act s fun s => s.issue tile opNop fun s i => s.advanceTo tile (i.cycle + 2) false

/-- An LKA: the staging halves swap at its issue. A streamed one, and one that issues while a ring of its half is filled, runs step
by step, each read of the half in its cycle between the words that the fill writes; any other runs whole (R142). -/
def State.lka (s : State) (i : Issued) : State :=
  let t := i.tile
  let e := i.cycle + lkaSpan i.cmd (s.bSlabOf t)
  if i.shadow then s.advanceTo t e true
  else
    let s := s.whenB ((u8 i.cmd 1).testBit 0) fun s => s.setFld (TIL_SLAB_STAT_HALF.tile t) (1 - s.feeding t)
    let j := s.lkaJob t i.cmd i.desc
    let units := s.lkaUnits j
    let filled := fun (r : SlabRead) => r.ring && b2n r.half1 == s.feeding t && decide (r.delivered < r.pages.length)
    if j.streamed || (s.tileOf t).slab.any filled then
      (s.modTile t fun x => { x with cycle := i.cycle, run := some { next := 0, ahead := none, units := units } }).setFld
        (TIL_STATE_PHASE.tile t) 1
    else
      let r := j.run 0 j.steps none s units
      (r.1.lkaEnd j i.index r.2.2).advanceTo t e true

def execLka (tile : Nat) (s : State) : Host.Outcome State Fault Refusal :=
  act s fun s => s.issue tile opLka State.lka

def execVec (tile : Nat) (s : State) : Host.Outcome State Fault Refusal :=
  act s fun s => s.issue tile opVec fun s i =>
    (if i.shadow then s else s.vecWork tile i.cmd).advanceTo tile (i.cycle + vecSpan i.cmd) true

def execFtab (tile : Nat) (s : State) : Host.Outcome State Fault Refusal :=
  act s fun s => s.issue tile opFtab fun s i =>
    (if i.shadow then s else s.ftabWork tile i.cmd).advanceTo tile (i.cycle + 66) true

/-! ### Ends of waits -/

/-- A wait ends at a cycle; one that ends after both its planned cycle and the command's issue is a breach. -/
def State.waitEnds (s : State) (t source planned cycle : Nat) : State :=
  let x := s.tileOf t
  let due := max planned x.cycle
  let e := max due cycle
  let s := (s.upTo (s.cycleTime e)).whenB (due < cycle) fun s => s.breach source t due
  (s.advanceTo t e false).setFld (TIL_CYCLE_CYCLE.tile t) e

/-! ### Ranging (R126 to R128, R155, R194, R195) -/

/-- The units of a RANGE with the pairs of a combine. -/
def takePairs (pairs : List (Nat × Nat × Bool)) (channel : Bool) (us : List RangeUnit) : List RangeUnit :=
  us.map fun u =>
    match pairs[if channel then u.col else 0]? with
    | none => u
    | some p => { u with obs := p.1, sat := p.2.1, observed := p.2.2 }

/-- The pairs of a tile for an instance with COMBINE 1. -/
def rangePairs (d : RangeDecl) (us : List RangeUnit) : List (Nat × Nat × Bool) :=
  let pair := fun (u : RangeUnit) => if u.observed then (u.obs, u.sat, true) else (0, u.sat, false)
  if d.channel then (List.range 128).map fun c => ((us.find? fun u => u.col = c).map pair).getD (0, 0, false)
  else us.map pair

/-- The fall-back, the records and the observations of a RANGE whose pairs are combined. -/
def State.rangeWork (s : State) (t idx : Nat) (pairs : Option (List (Nat × Nat × Bool))) : State :=
  let svc := s.tileSvc t
  let rs := imgRanges (s.svc svc).image
  match (s.tileOf t).ranged.find? fun r => r.idx = idx, rs[idx]? with
  | some r, some d =>
    let us := (pairs.elim r.units fun p => takePairs p d.channel r.units).map fun u =>
      { u with fellBack := u.noHist || decide (d.t < u.sat) }
    let c := s.fetch t tyCommands r.lka
    let e := c.1.fetch t tyDescriptors (cmdDescOf c.2)
    let j := s.lkaJob t c.2 e.2
    let cols := fun (u : RangeUnit) => if d.channel then [u.col] else (List.range 128).filter j.inUnit
    let s := us.foldl (fun s u => if u.fellBack && (u.observed || u.noHist) then
        (cols u).foldl (fun s o => j.fallBack r.out r.lo r.hi d u o s) s
      else s) s
    let s := us.foldl (fun (s : State) u =>
      s.tileWrite t (u16 e.2 16 + (if d.channel then u.col else 0)) ⟨(words128 (rangeRecord d u)).headD 0, false⟩) s
    let s := s.whenB (us.any (·.fellBack)) fun s => s.tickFlag svc rfFallback
    (s.modTile t fun x => { x with ranged := x.ranged.map fun y => if y.idx = idx then { y with combined := true } else y
                            }).commitUnits svc (rangeFirst rs idx) d.channel j.rangeCh us
  | _, _ => s

/-! ### Barriers (R152, R153, R191 to R195) -/

def State.barrier (s : State) (n : Nat) : Barrier := Tab.lookD s.barriers n Barrier.idle
def State.setBarrier (s : State) (n : Nat) (b : Barrier) : State := { s with barriers := Tab.put s.barriers n b }

/-- Barrier-plan entry of an instance in a service's schedule. -/
def State.plan (s : State) (svc n inst : Nat) : Option Bytes :=
  (imgEntries (s.svc svc).image tyBarrierPlan s.env secAll).find? fun e => u8 e 0 = n && u16 e 2 = inst

/-- The open instance of a network: the lowest of its plan that has not completed, once a tile has arrived at it. Arrivals at
later instances wait for it, so that instances run in ascending order (R191); one of no tile never completes (DESIGN CHOICE,
log 253). -/
def State.openInst (s : State) (n : Nat) : Option Nat :=
  let b := s.barrier n
  match b.arrivals with
  | [] => none
  | a :: _ =>
    let plan := (imgEntries (s.svc (s.tileSvc a.tile)).image tyBarrierPlan s.env secAll).filter fun e =>
      u8 e 0 = n && (Tab.look b.ended (u16 e 2)).isNone
    match plan.map fun e => u16 e 2 with
    | [] => none
    | i :: r =>
      let k := r.foldl min i
      if b.arrivals.any fun a => a.inst = k then some k else none

/-- A tile arrives at an instance. -/
def State.arrive (s : State) (t n inst cycle : Nat) (pairs : List (Nat × Nat × Bool)) : State :=
  let b := s.barrier n
  let s := s.setBarrier n { b with arrivals := b.arrivals ++ [{ inst := inst, tile := t, cycle := cycle, pairs := pairs }] }
  s.modTile t fun x => { x with barLast := Tab.put x.barLast n (inst + 1) }

/-- Joins the pairs of two arrivals: maximum, saturating sum, OR. -/
def joinPairs : List (Nat × Nat × Bool) → List (Nat × Nat × Bool) → List (Nat × Nat × Bool)
  | a :: r, b :: q => (max a.1 b.1, min (a.2.1 + b.2.1) 0xFFFFFFFF, a.2.2 || b.2.2) :: joinPairs r q
  | [], l => l
  | l, [] => l

/-- A BAR brings no pairs to an instance, of COMBINE 1 either (R194; DESIGN CHOICE, log 254). -/
def execBar (tile : Nat) (s : State) : Host.Outcome State Fault Refusal :=
  act s fun s => s.issue tile opBar fun s i =>
    let n := u8 i.cmd 8 % 4
    let mode := u8 i.cmd 9
    let inst := u16 i.cmd 10
    let planned := ((s.plan (s.tileSvc tile) n inst).map fun e => u32 e 12).getD 0
    let s := s.whenB (mode ≤ 1) fun s => (s.arrive tile n inst i.cycle []).whenB i.shadow State.proxy
    if mode = 1 then s.advanceTo tile (i.cycle + 2) false
    else if i.shadow then s.advanceTo tile i.cycle false
    else
      match Tab.look (s.barrier n).ended inst with
      | some e => (s.modTile tile fun x => { x with cycle := i.cycle }).waitEnds tile 4 planned e.1
      | none => s.waitAt tile i.cycle (.barrier n inst planned)

/-- What a completed instance lets a tile do. -/
def State.released (s : State) (t n inst planned cycle : Nat) (pairs : List (Nat × Nat × Bool)) : State :=
  match (s.tileOf t).wait with
  | some (.barrier n' i' _) => if n' = n && i' = inst then s.waitEnds t 4 planned cycle else s
  | some (.range n' i' idx) =>
    if n' = n && i' = inst then
      let x := s.tileOf t
      let first := x.cycle + 96
      let s := s.whenB (first < cycle) fun s => s.breach 4 t first
      let window := ((imgRanges (s.svc (s.tileSvc t)).image)[idx]?).elim 0 (·.window)
      (s.rangeWork t idx (some pairs)).advanceTo t (max first cycle + window) true
    else s
  | _ => s

/-- The open instance of a network completes once every tile of its mask has arrived (R192, R194). -/
def State.barrierDone (s : State) (n : Nat) : State :=
  let b := s.barrier n
  match s.openInst n with
  | none => s
  | some inst =>
    let l := b.arrivals.filter fun a => a.inst = inst
    let svc := s.tileSvc (l.headD ⟨0, 0, 0, []⟩).tile
    match s.plan svc n inst with
    | none => s
    | some e =>
      if (bitList 64 (u64 e 4)).all fun t => l.any fun a => a.tile = t then
        let pairs := l.foldl (fun p a => joinPairs p a.pairs) []
        let last := l.foldl (fun m a => max m a.cycle) (b.ended.foldl (fun m x => max m x.2.1) 0)
        let cycle := last + 12 + (if u8 e 1 = 1 then ceilDiv pairs.length 2 else 0)
        let planned := u32 e 12
        let s := (s.upTo (s.cycleTime cycle)).setBarrier n { b with ended := Tab.put b.ended inst (cycle, pairs) }
        let s := s.whenB (planned < cycle) fun s => s.flag FAB_STATUS_BAR_LATE
        (imgTiles (s.svc svc).image).foldl (fun s t => s.released t n inst planned cycle pairs) s
      else s

def execBarrierComplete (network : Nat) (s : State) : Host.Outcome State Fault Refusal :=
  act s fun s => s.barrierDone network

/-- The instance at which a RANGE arrives (R195). -/
def State.rangeInst (s : State) (t n : Nat) : Option Nat :=
  let from_ := (Tab.look (s.tileOf t).barLast n).getD 0
  ((imgEntries (s.svc (s.tileSvc t)).image tyBarrierPlan s.env secAll).filter fun e =>
    u8 e 0 = n && (u64 e 4).testBit t && decide (from_ ≤ u16 e 2)).foldl
    (fun (o : Option Nat) e => some (o.elim (u16 e 2) (min (u16 e 2)))) none

def execRangeCmd (tile : Nat) (s : State) : Host.Outcome State Fault Refusal :=
  act s fun s => s.issue tile opRange fun s i =>
    let idx := u8 i.cmd 8
    match (imgRanges (s.svc (s.tileSvc tile)).image)[idx]? with
    | none => s.advanceTo tile (i.cycle + 96) true
    | some d =>
      let us := ((s.tileOf tile).ranged.find? fun r => r.idx = idx).elim [] (·.units)
      let e := i.cycle + 96 + d.window
      if d.tiles ≤ 1 then
        (if i.shadow then s else s.rangeWork tile idx none).advanceTo tile e true
      else
        match s.rangeInst tile d.network with
        | none => s.advanceTo tile e true
        | some inst =>
          let none128 := List.replicate (if d.channel then 128 else 1) (0, 0, false)
          let s := s.arrive tile d.network inst (i.cycle + 8) (if i.shadow then none128 else rangePairs d us)
          if i.shadow then s.proxy.advanceTo tile e true
          else (s.waitAt tile i.cycle (.range d.network inst idx)).setFld (TIL_STATE_PHASE.tile tile) 1

/-! ### Semaphores, event lines and hand-over waits (R152, R153, R174, R196, R197) -/

/-- The neighbour of a tile: 0 north, 1 east, 2 south, 3 west (R180). -/
def neighbour (t dir : Nat) : Option Nat :=
  if dir = 0 then (if t < 8 then none else some (t - 8))
  else if dir = 1 then (if t % 8 = 7 then none else some (t + 1))
  else if dir = 2 then (if 56 ≤ t then none else some (t + 8))
  else if t % 8 = 0 then none else some (t - 1)

/-- The signals of a semaphore that a wait leaves when it takes one in a cycle: each is visible 4 cycles after its own, and one that
comes while the count is 15 is lost (R197, R198). -/
def semLeft (l : List Nat) (cycle : Nat) : List Nat :=
  let seen := l.takeWhile fun c => c + 4 < cycle
  (seen.take 15 ++ l.drop seen.length).drop 1

def execSem (tile : Nat) (s : State) : Host.Outcome State Fault Refusal :=
  act s fun s => s.issue tile opSem fun s i =>
    let dir := u8 i.cmd 8 % 4
    if u8 i.cmd 9 = 0 then
      let s := s.modTile tile fun x =>
        let l := Tab.lookD x.sems dir []
        { x with sems := Tab.put x.sems dir (l ++ [i.cycle]) }
      (s.whenB i.shadow State.proxy).advanceTo tile (i.cycle + 2) false
    else if i.shadow then s.advanceTo tile i.cycle false
    else s.waitAt tile i.cycle (.semaphore dir (u32 i.cmd 12))

def State.semEnd (s : State) (t : Nat) : State :=
  match (s.tileOf t).wait with
  | some (.semaphore dir planned) =>
    match neighbour t dir with
    | none => s
    | some n =>
      let back := (dir + 2) % 4
      match Tab.lookD (s.tileOf n).sems back [] with
      | [] => s
      | c :: r =>
        let e := max (max planned (s.tileOf t).cycle) (c + 4)
        let s := s.modTile n fun x => { x with sems := Tab.put x.sems back (semLeft (c :: r) e) }
        let s := s.whenB (planned < max (s.tileOf t).cycle (c + 4)) fun s => s.flag FAB_STATUS_SEM_LATE
        s.waitEnds t 5 planned (c + 4)
  | _ => s

def execSemaphoreWaitEnd (tile : Nat) (s : State) : Host.Outcome State Fault Refusal :=
  act s fun s => s.semEnd tile

def execEvt (tile : Nat) (s : State) : Host.Outcome State Fault Refusal :=
  act s fun s => s.issue tile opEvt fun s i =>
    let line := u8 i.cmd 8 % 4
    if u8 i.cmd 9 = 0 then
      let s := s.modTile tile fun x => { x with raises := Tab.put x.raises line (Tab.lookD x.raises line [] ++ [i.cycle]) }
      (s.whenB i.shadow State.proxy).advanceTo tile (i.cycle + 2) false
    else if i.shadow then s.advanceTo tile i.cycle false
    else
      let src := u16 i.cmd 10
      let k := Tab.lookD (s.tileOf tile).lineWaits (4 * src + line) 0 + 1
      (s.modTile tile fun x => { x with lineWaits := Tab.put x.lineWaits (4 * src + line) k }).waitAt tile i.cycle
        (.eventLine src line k (u32 i.cmd 12))

def State.lineEnd (s : State) (t : Nat) : State :=
  match (s.tileOf t).wait with
  | some (.eventLine src line k planned) =>
    match (Tab.lookD (s.tileOf src).raises line [])[k - 1]? with
    | none => s
    | some c =>
      let s := s.whenB (planned < max (s.tileOf t).cycle (c + 8)) fun s => s.flag FAB_STATUS_EVT_LATE
      s.waitEnds t 5 planned (c + 8)
  | _ => s

def execEventLineWaitEnd (tile : Nat) (s : State) : Host.Outcome State Fault Refusal :=
  act s fun s => s.lineEnd tile

/-- Takes a hand-over from a counter of a tile that is at a STAGE; one that comes after the issue is a breach. A stopped tile
does not wait (R199). -/
def State.takeHand (s : State) (t counter : Nat) : State :=
  let x := s.tileOf t
  match Tab.lookD x.hands counter [] with
  | [] => s
  | c :: r =>
    let s := s.modTile t fun x => { x with hands := Tab.put x.hands counter r }
    if x.shadow || c ≤ x.cycle then s.advanceTo t (x.cycle + 2) false
    else ((s.breach 5 t x.cycle).advanceTo t (max c (x.cycle + 2)) false).setFld (TIL_CYCLE_CYCLE.tile t) c

def execStage (tile : Nat) (s : State) : Host.Outcome State Fault Refusal :=
  act s fun s => s.issue tile opStage fun s i =>
    let counter := u8 i.cmd 8 % 4
    let s := s.waitAt tile i.cycle (.hand counter)
    if i.shadow && (Tab.lookD (s.tileOf tile).hands counter []).isEmpty then s.advanceTo tile (i.cycle + 2) false
    else s.takeHand tile counter

end Sys2Proof.Machine
end

