-- ==== Sys2Proof/Machine/Xfer.lean ====
section
/-! DEFINITION. Transfers, gathers, hand-overs and slab fills (R91, R156 to R178, R183 to R189, R199, R216 to R221, R224, R449).
Words between tile stores move in the cycles of their flits, other data at the issue of their command (log 106); the place of a
transfer is free at DONE. -/

namespace Sys2Proof.Machine

/-! ### The fabric (R180 to R190) -/

/-- A SLOT_TABLE entry (R177). -/
structure SlotEntry where
  src : Nat
  dst : Nat
  kind : Nat
  first : Nat
  last : Nat
  owner : Nat
  deriving DecidableEq, Repr

def slotEntry (e : Bytes) : SlotEntry :=
  { src := u8 e 0, dst := u8 e 1, kind := u8 e 2, first := u32 e 4, last := u32 e 8, owner := u32 e 12 }

def imgSlotTable (b : Bytes) (env : Nat) : List SlotEntry := (imgEntries b tySlotTable env secAll).map slotEntry

/-- The members of the merged chain that a command begins: their indices. -/
def chainFrom (cs : List Bytes) (index : Nat) : List Nat :=
  let rest := (List.range (cs.length - index - 1)).map (index + 1 + ·)
  index :: rest.takeWhile fun k => cmdOp (cs.getD k []) = opXfer && (u8 (cs.getD k []) 1).testBit 0

/-- The tile that issues the command of an entry: SRC for a transfer, a scatter or a hand-over out of its store, DST for a
transfer or a gather into its store. An entry has no field for the direction; it is SRC's where SRC's command of that index
is no later member of a merged chain, moves data to DST, and the entry lies between its ISSUE and its DONE (R177, R186; DESIGN CHOICE,
log 209). -/
def SlotEntry.issuer (s : SlotEntry) (b : Bytes) (env : Nat) : Nat :=
  let cs := imgCmds b env s.src
  let c := cs.getD s.owner []
  let chain := (chainFrom cs s.owner).map fun k => cs.getD k []
  let reaches := fun (c : Bytes) =>
    let d := (imgDescs b env s.src).getD (cmdDesc c) []
    if cmdOp c = opHand then u8 d 4 == s.dst
    else (cmdOp c == opXfer || cmdOp c == opGather) && xfOut d && xfRemote d / 0x100000 == 0x10000 + s.dst
  let later := cmdOp c == opXfer && (u8 c 1).testBit 0
  if !later && (s.kind == 1) == (cmdOp c == opHand) && decide (cmdIssue c + 4 ≤ s.first) &&
      decide (s.last + 21 ≤ cmdDone (chain.getLastD c)) && chain.any reaches then s.src
  else s.dst

/-- Entries of a command: its index, the tile that issues it and the two ends of its route, by FIRST. -/
def ownEntries (b : Bytes) (env t src dst index : Nat) : List SlotEntry :=
  ((imgSlotTable b env).filter fun e => e.owner = index && e.src = src && e.dst = dst && e.issuer b env = t).mergeSort
    fun x y => x.first ≤ y.first

/-- Injection cycles of n flits, the first ready at `ready` (R189); none where no reserved cycle remains. -/
def flitCycles : Nat → Nat → Nat → List SlotEntry → List (Option Nat)
  | 0, _, _, _ => []
  | n + 1, ready, next, l =>
    let lo := max ready next
    match l.dropWhile fun e => e.last < lo with
    | [] => none :: flitCycles n (ready + 1) next []
    | e :: r => some (max lo e.first) :: flitCycles n (ready + 1) (max lo e.first + 1) (e :: r)

/-- A flit injected in a cycle meets no reserved slot and no earlier deferred flit. -/
def slotFree (entries : List SlotEntry) (deferred : List (Nat × Nat × Nat)) (src dst cycle : Nat) : Bool :=
  let links := (List.range 14).zip (route src dst)
  let hits := fun (l : List (Nat × Nat)) (lo hi : Nat) =>
    ((List.range 14).zip l).any fun (j, x) => links.any fun (h, y) =>
      x == y && decide (lo + j ≤ cycle + h) && decide (cycle + h ≤ hi + j)
  entries.all (fun e => !hits (route e.src e.dst) e.first e.last) &&
    deferred.all fun d => !hits (route d.1 d.2.1) d.2.2 d.2.2

def firstFree (entries : List SlotEntry) (deferred : List (Nat × Nat × Nat)) (src dst : Nat) : Nat → Nat → Nat
  | 0, c => c
  | n + 1, c => if slotFree entries deferred src dst c then c else firstFree entries deferred src dst n (c + 1)

/-- Every slot that an admitted schedule reserves in the envelope in force. -/
def State.slotsReserved (s : State) : List SlotEntry :=
  s.services.flatMap fun e => if e.2.phase.holds then imgSlotTable e.2.image s.env else []

/-- Defers a flit that is ready at a cycle: the state and its injection cycle. -/
def State.deferFlit (s : State) (src dst ready : Nat) : State × Nat :=
  let l := s.slotsReserved
  let from_ := s.deferred.foldl (fun c d => if d.1 = src then max c (d.2.2 + 1) else c) ready
  let fuel := 15 * (l.foldl (fun n e => n + (e.last + 1 - e.first)) 0 + s.deferred.length) + 1
  let c := firstFree l s.deferred src dst fuel from_
  let s := { s with deferred := s.deferred ++ [(src, dst, c)] }
  ((s.count FAB_DEFER_COUNT_COUNT 1).flag FAB_STATUS_DEFER, c)

/-- Sends n flits of a command of a tile; the answer lists their injection cycles. -/
def State.sendFlits (s : State) (t src dst index issue n : Nat) : State × List Nat :=
  let own := ownEntries (s.svc (s.tileSvc t)).image s.env t src dst index
  let cs := flitCycles n (issue + 4) 0 own
  let r := ((List.range n).zip cs).foldl (fun (p : State × List Nat × Nat) x =>
    match x.2 with
    | some c => (p.1, c :: p.2.1, c + 1)
    | none =>
      let d := p.1.deferFlit src dst (max (issue + 4 + x.1) p.2.2)
      (d.1, d.2 :: p.2.1, d.2 + 1)) (s, [], 0)
  let s := match cs.idxOf? none with
    | some k => r.1.breach 2 src (issue + 4 + k)
    | none => r.1
  (s, r.2.1.reverse)

/-! ### Places (R91, R160) -/

/-- Takes an outstanding place: the state, and the actual issue cycle. What a stopped tile does in shadow keeps its planned
cycle (R199). -/
def State.takePlace (s : State) (i : Issued) : State × Nat :=
  let t := i.tile
  let cycle := i.cycle
  let live := (s.tileOf t).xfers.filter fun x => cycle < x.done
  if i.shadow || live.length < 4 then (s, cycle)
  else
    let c := (live.headD ⟨.transfer, 0, 0, cycle, 0, 0, 1, []⟩).done
    let s := (s.flag (TIL_STATUS_DMA_LIMIT.tile t)).breach 6 t cycle
    ((s.upTo (s.cycleTime c)).moveBefore c, c)

def State.addPlace (s : State) (t : Nat) (o : Outstanding) : State :=
  s.modTile t fun x => { x with xfers := x.xfers ++ [o] }

/-! ### Remotes (R158) -/

inductive Remote where
  | lpddr (addr : Nat)
  | tile (t word : Nat)
  | cluster (c word : Nat)
  | snap (n word : Nat)
  deriving DecidableEq, Repr

def remoteOf (a : Nat) : Remote :=
  if a < 0x1000000000 then .lpddr a
  else if a < 0x1040000000 then .tile ((a - 0x1000000000) / 0x100000) (a % 0x100000 / 16)
  else if a < 0xF000000000 then .cluster ((a - 0x1040000000) / 0x400000) (a % 0x400000 / 16)
  else .snap (a / 2 ^ 28 % 256) (a % 2 ^ 28 / 16)

/-- Usable address of an LPDDR address of a service: the pool window goes through its page map (R299). -/
def State.poolMap (s : State) (svc a : Nat) : Nat :=
  if a < poolWindow then a
  else
    let off := a - poolWindow
    let k := off / frameBytes
    match s.mem.pool.find? fun r => r.svc = svc && !r.dying && r.base / frameBytes ≤ k && k ≤ (r.base + r.size - 1) / frameBytes with
    | some r => r.frames.getD (k - r.base / frameBytes) 0 * frameBytes + off % frameBytes
    | none => a

/-- Reads n words of LPDDR from an address of a service, frame by frame. -/
def State.lpReadGo : Nat → State → Nat → Nat → Nat → State × List MWord
  | 0, s, _, _, _ => (s, [])
  | k + 1, s, svc, a, n =>
    if n = 0 then (s, [])
    else
      let m := min n ((frameBytes - a % frameBytes) / 16)
      let r := s.memRead (s.poolMap svc a) m
      let q := State.lpReadGo k r.1 svc (a + 16 * m) (n - m)
      (q.1, r.2 ++ q.2)

def State.lpWriteGo : Nat → State → Nat → Nat → List MWord → State
  | 0, s, _, _, _ => s
  | k + 1, s, svc, a, ws =>
    if ws.isEmpty then s
    else
      let m := min ws.length ((frameBytes - a % frameBytes) / 16)
      State.lpWriteGo k (s.memWrite (s.poolMap svc a) (ws.take m)) svc (a + 16 * m) (ws.drop m)

/-- Reads n words at a remote address. -/
def State.remoteRead (s : State) (svc a n : Nat) : State × List MWord :=
  match remoteOf a with
  | .lpddr a => State.lpReadGo (n + 1) s svc a n
  | .tile t w => s.tileReads t w n
  | .cluster c w => s.reads (fun s x => s.csRead c x) ((List.range n).map (w + ·))
  | .snap k w => s.reads (fun s x => s.snapRead svc k x) ((List.range n).map (w + ·))

/-- Writes words at a remote address. -/
def State.remoteWrite (s : State) (svc a : Nat) (ws : List MWord) : State :=
  match remoteOf a with
  | .lpddr a => State.lpWriteGo (ws.length + 1) s svc a ws
  | .tile t w => s.tileWrites t w ws
  | .cluster c w => ((List.range ws.length).zip ws).foldl (fun (s : State) e => s.csWrite c (w + e.1) e.2) s
  | .snap k w => ((List.range ws.length).zip ws).foldl (fun (s : State) e => s.snapWrite svc k (w + e.1) e.2) s

/-- Reads n words of a coded stream, block by block (R161, R332). -/
def State.codedReads (s : State) (svc a n : Nat) : State × List MWord :=
  (List.range (n / 32)).foldl (fun (p : State × List MWord) k =>
    let r := match remoteOf (a + 512 * k) with
      | .snap q w => p.1.snapExpand svc q (w / 32)
      | _ => p.1.codedRead (p.1.poolMap svc (a + 512 * k))
    (r.1, p.2 ++ r.2)) (s, [])

def State.codedWrites (s : State) (slot svc a : Nat) (ws : List MWord) : State :=
  (List.range (ws.length / 32)).foldl (fun (s : State) k =>
    let b := slice ws (32 * k) 32
    match remoteOf (a + 512 * k) with
    | .snap q w => s.snapCode slot svc q (w / 32) b
    | _ => s.codedWrite slot (s.poolMap svc (a + 512 * k)) b) s

/-! ### XFER (R157 to R163) -/

/-- Zero words, marked: what a stopped tile sends (R176, R199, R449). -/
def zeroMarked (n : Nat) : List MWord := List.replicate n ⟨0, true⟩

/-- The tile at the other end of a transfer, when it is one. -/
def remoteTile (a : Nat) : Option Nat :=
  match remoteOf a with
  | .tile t _ => some t
  | .lpddr _ => none
  | .cluster _ _ => none
  | .snap _ _ => none

/-- Moves the rows of one descriptor whose remote is no tile store. -/
def State.moveRows (s : State) (i : Issued) (d : Bytes) : State :=
  let svc := s.tileSvc i.tile
  let n := xfRow d / 16
  ((List.range (xfRows d).length).zip (xfRows d)).foldl (fun (s : State) (k, a) =>
    let w := xfLocal d + k * n
    if xfOut d then
      let r := if i.shadow then (s, zeroMarked n) else s.tileReads i.tile w n
      if xfCode d then r.1.codedWrites (xfSlot d) svc a r.2 else r.1.remoteWrite svc a r.2
    else if i.shadow then s
    else
      let r := if xfCode d then s.codedReads svc a n else s.remoteRead svc a n
      r.1.tileWrites i.tile w r.2) s

/-- The words of a row of n words between a tile's word w and a tile store at a remote address (R186): the row's first word is
number `first` of its command, to which the flips refer, and number `place` of those on its route, two of which a flit carries. -/
def rowMoves (i : Issued) (out : Bool) (cycles : List Nat) (flips : LinkFlips) (first place w a n : Nat) : List FabricMove :=
  match remoteOf a with
  | .tile o v => (List.range n).map fun j =>
    { cycle := cycles.getD ((place + j) / 2) 0, src := if out then i.tile else o, srcWord := (if out then w else v) + j,
      dst := if out then o else i.tile, dstWord := (if out then v else w) + j, zero := i.shadow,
      flips := (flips.filter fun f => f.1 = first + j).map (·.2) }
  | _ => []

/-- Done cycle of a transfer that issued late, or whose flits were deferred (R138, R189). -/
def doneCycle (c : Bytes) (issue : Nat) (cycles : List Nat) (d : Nat) : Nat :=
  max (d + (issue - cmdIssue c)) (cycles.foldl (fun m x => max m (x + 21)) 0)

/-- A later member of a merged chain issues: it takes its issue span, and its lateness, or a breach in it, delays the whole chain
(R163). -/
def State.chainMember (s : State) (i : Issued) (extra : Nat) : State :=
  let cs := imgCmds (s.svc (s.tileSvc i.tile)).image s.env i.tile
  let last := cmdDone (cs.getD ((chainFrom cs i.index).getLastD i.index) [])
  (s.modTile i.tile fun x =>
    { x with xfers := modAt x.xfers (x.xfers.length - 1) fun o =>
        if o.kind = .transfer && 1 < o.members then { o with done := max o.done (last + (i.cycle - cmdIssue i.cmd)) + extra } else o
      }).advanceTo i.tile (i.cycle + 2) false

/-- Sends the flits of a command of a tile to or from each tile of a list, with the bytes that go there: the injection cycles
of each. -/
def State.sendAll (s : State) (i : Issued) (out : Bool) (issue : Nat) (l : List (Nat × Nat)) :
    State × List (Nat × List Nat) :=
  l.foldl (fun (p : State × List (Nat × List Nat)) e =>
    let n := ceilDiv e.2 32
    let r := if out then p.1.sendFlits i.tile i.tile e.1 i.index issue n else p.1.sendFlits i.tile e.1 i.tile i.index issue n
    (r.1, p.2 ++ [(e.1, r.2)])) (s, [])

/-- A hardware fault holds a transfer up: the tile DMA engine waits for a slot of LPDDR or for a port of a cluster store (R47, R295;
log 234). The state, and how many cycles later the transfer is complete. -/
def State.holdUp (s : State) (i : Issued) (issue stall : Nat) : State × Nat :=
  if stall = 0 then (s, 0)
  else
    match remoteOf (xfRemote i.desc) with
    | .lpddr _ => (s.breach 3 i.tile issue, stall)
    | .cluster _ _ => (s.breach 7 i.tile issue, stall)
    | _ => (s, 0)

/-- A merged chain is one transfer, and moves at its first member (R163); words to and from a tile store move in their cycles. -/
def State.xfer (s : State) (i : Issued) (flips : LinkFlips) (stall : Nat) : State :=
  let t := i.tile
  if (u8 i.cmd 1).testBit 0 then
    let h := s.holdUp i i.cycle stall
    h.1.chainMember i h.2
  else
    let p := s.takePlace i
    let svc := s.tileSvc t
    let img := (s.svc svc).image
    let cs := imgCmds img s.env t
    let chain := chainFrom cs i.index
    let ds := chain.map fun k => (imgDescs img s.env t).getD (cmdDesc (cs.getD k [])) []
    let out := xfOut i.desc
    let far := fun (d : Bytes) => remoteTile (xfRemote d)
    let sizes := ((ds.filterMap far).eraseDups).map fun o =>
      (o, ds.foldl (fun n d => if far d = some o then n + xfBytes d else n) 0)
    let last := cmdDone (cs.getD (chain.getLast?.getD i.index) [])
    let f := p.1.sendAll i out p.2 (if i.shadow && !out then [] else sizes)
    let r := ds.foldl (fun (q : State × List FabricMove × Nat × Tab Nat) d =>
      let n := xfRow d / 16
      let next := q.2.2.1 + xfBytes d / 16
      match far d with
      | none => (q.1.moveRows i d, q.2.1, next, q.2.2.2)
      | some o =>
        let before := Tab.lookD q.2.2.2 o 0
        let l := ((List.range (xfRows d).length).zip (xfRows d)).flatMap fun (k, a) =>
          rowMoves i out (Tab.lookD f.2 o []) flips (q.2.2.1 + k * n) (before + k * n) (xfLocal d + k * n) a n
        (q.1, q.2.1 ++ (if i.shadow && !out then [] else l), next, Tab.put q.2.2.2 o (before + xfBytes d / 16)))
      (f.1, [], 0, [])
    let s := r.1.whenB (i.shadow && out && !sizes.isEmpty) State.proxy
    let h := s.holdUp i p.2 stall
    let done := doneCycle i.cmd p.2 (f.2.flatMap (·.2)) last + h.2
    (h.1.addPlace t { kind := .transfer, desc := cmdDesc i.cmd, issue := p.2, done := done, consumer := 0, counter := 0,
                      members := chain.length, moves := r.2.1 }).advanceTo t (p.2 + 2) false

def execXfer (tile : Nat) (faults : TransferFaults) (s : State) : Host.Outcome State Fault Refusal :=
  act s fun s => s.issue tile opXfer fun s i => s.xfer i faults.flips faults.stall

/-! ### GATHER (R164 to R166) -/

def gaIndex32 (d : Bytes) : Bool := u8 d 9 = 1
def gaCount (d : Bytes) : Nat := u32 d 16

/-- The indices of a gather, each with the mark of its word. -/
def gatherIndices (d : Bytes) (ws : List MWord) : List (Nat × Bool) :=
  let per := if gaIndex32 d then 4 else 8
  let bits := 128 / per
  (List.range (gaCount d)).map fun k =>
    let w := ws.getD (k / per) MWord.zero
    (bitsOf w.data.toNat (bits * (k % per) + bits - 1) (bits * (k % per)), w.poison)

/-- Row k of a gather or scatter, for the k-th index with its mark. A row out of range moves nothing between stores (R165). A stopped
tile scatters zero words that are marked, and gathers nothing (R449). -/
def State.gatherRow (s : State) (i : Issued) (k : Nat) (e : Nat × Bool) : State :=
  let t := i.tile
  let d := i.desc
  let svc := s.tileSvc t
  let n := xfRow d / 16
  let w := xfLocal d + k * n
  let a := xfRemote d + e.1 * u32 d 20
  if e.2 || u32 d 24 ≤ e.1 then
    if i.shadow then s else (if xfOut d then s else s.tileWrites t w (zeroMarked n)).tickFlag svc rfIndexRange
  else if (remoteTile (xfRemote d)).isSome then s
  else if xfOut d then
    let r := if i.shadow then (s, zeroMarked n) else s.tileReads t w n
    r.1.remoteWrite svc a r.2
  else if i.shadow then s
  else
    let r := s.remoteRead svc a n
    r.1.tileWrites t w r.2

/-- `flips` are counted over the words of all rows, in the order of the indices. -/
def State.gather (s : State) (i : Issued) (flips : LinkFlips) (stall : Nat) : State :=
  let t := i.tile
  let d := i.desc
  let p := s.takePlace i
  let n := xfRow d / 16
  let per := if gaIndex32 d then 4 else 8
  let idle := i.shadow && !xfOut d
  let x := if idle then (p.1, []) else p.1.tileReads t (u16 d 10) (ceilDiv (gaCount d) per)
  let far := if idle then none else remoteTile (xfRemote d)
  let f := x.1.sendAll i (xfOut d) p.2 (far.toList.map fun o => (o, gaCount d * xfRow d))
  let idx := if idle then [] else (List.range (gaCount d)).zip (gatherIndices d x.2)
  let s := idx.foldl (fun (s : State) (k, e) => s.gatherRow i k e) f.1
  let moves := idx.flatMap fun (k, e) =>
    if e.2 || u32 d 24 ≤ e.1 then []
    else rowMoves i (xfOut d) (far.elim [] fun o => Tab.lookD f.2 o []) flips (k * n) (k * n) (xfLocal d + k * n)
      (xfRemote d + e.1 * u32 d 20) n
  let s := s.whenB (i.shadow && far.isSome) State.proxy
  let h := s.holdUp i p.2 stall
  let done := doneCycle i.cmd p.2 (f.2.flatMap (·.2)) (cmdDone i.cmd) + h.2
  (h.1.addPlace t { kind := .gather, desc := cmdDesc i.cmd, issue := p.2, done := done, consumer := 0, counter := 0,
                    members := 1, moves := moves }).advanceTo t (p.2 + 2) false

def execGather (op : TileGather) (s : State) : Host.Outcome State Fault Refusal :=
  act s fun s => s.issue op.tile opGather fun s i => s.gather i op.flips op.stall

/-! ### HAND (R172 to R176) -/

def State.hand (s : State) (i : Issued) (flips : LinkFlips) : State :=
  let t := i.tile
  let d := i.desc
  let p := s.takePlace i
  let desc := cmdDesc i.cmd
  let k := Tab.lookD (s.tileOf t).handCount desc 0
  let slots := if (u8 d 1).testBit 0 then 2 else 1
  let dst := u8 d 4
  let n := u32 d 8 / 16
  let w := u16 d 6 + k % slots * u16 d 12
  let f := p.1.sendFlits t t dst i.index p.2 (ceilDiv (u32 d 8) 32)
  let moves := rowMoves i true f.2 flips 0 0 (u16 d 2) (0x1000000000 + dst * 0x100000 + 16 * w) n
  let s := f.1.whenB i.shadow State.proxy
  let s := s.modTile t fun x => { x with handCount := Tab.put x.handCount desc (k + 1) }
  (s.addPlace t { kind := .hand, desc := desc, issue := p.2, done := doneCycle i.cmd p.2 f.2 (cmdDone i.cmd),
                  consumer := dst, counter := bitsOf (u8 d 1) 3 2, members := 1, moves := moves }).advanceTo t (p.2 + 2) false

def execHand (tile : Nat) (flips : LinkFlips) (s : State) : Host.Outcome State Fault Refusal :=
  act s fun s => s.issue tile opHand fun s i => s.hand i flips

/-! ### Completion (R159, R173) -/

/-- The outstanding transfer that completes first. -/
def firstDone (l : List Outstanding) : Option Outstanding :=
  l.foldl (fun (o : Option Outstanding) x =>
    match o with
    | none => some x
    | some y => if x.done < y.done then some x else some y) none

/-- A hand-over arrives at its consumer: the counter saturates at 15, and a STAGE that waits goes on. -/
def State.handArrives (s : State) (t counter cycle : Nat) : State :=
  let s := s.modTile t fun x =>
    let l := Tab.lookD x.hands counter []
    { x with hands := Tab.put x.hands counter (if l.length < 15 then l ++ [cycle] else l) }
  if (s.tileOf t).wait = some (.hand counter) then s.takeHand t counter else s

/-- The transfer that completes first gives its place back. -/
def State.placeDone (s : State) (t : Nat) : State :=
  match firstDone (s.tileOf t).xfers with
  | none => s
  | some o =>
    let s := s.modTile t fun x => { x with xfers := x.xfers.erase o }
    let s := s.whenB (o.kind = .hand) fun s => s.handArrives o.consumer o.counter o.done
    s.whenB (s.fld (TIL_STATE_PHASE.tile t) == 2 && (s.tileOf t).xfers.isEmpty) fun s => s.setFld (TIL_STATE_PHASE.tile t) 0

/-- The transfer that is done first completes; every word whose cycle has come by then has moved. -/
def State.transferDone (s : State) (t : Nat) : State :=
  match firstDone (s.tileOf t).xfers with
  | none => s
  | some o => ((s.upTo (s.cycleTime o.done)).moveBefore (o.done + 1)).placeDone t

def execTransferDone (tile : Nat) (s : State) : Host.Outcome State Fault Refusal :=
  act s fun s => s.transferDone tile

/-! ### Slab fills (R167 to R170, R216 to R221, R224) -/

/-- A FILL starts once the pages of the one before have been delivered. -/
def State.slabFill (s : State) (i : Issued) : State :=
  let t := i.tile
  let v := s.svc (s.tileSvc t)
  let g := fillOf i.index i.cmd i.desc
  let start := (s.tileOf t).slab.elim i.cycle fun r => max i.cycle (r.done + r.shift)
  let r : SlabRead :=
    { ring := g.ring, half1 := g.half1, dst := g.dst, offset := g.offset + (v.slot.elim 0 s.slotBase), length := g.length,
      ringWords := g.ringWords, issue := start, done := g.done + (start - g.issue), lag := start - g.issue,
      deadline := fillDeadline v.image s.env t g, delivered := 0, stalled := false, shift := 0 }
  ((s.modTile t fun x => { x with slab := some r }).setFld (TIL_SLAB_STAT_FILLING.tile t) 1).advanceTo t (i.cycle + 2) false

def execSlabFill (tile : Nat) (s : State) : Host.Outcome State Fault Refusal :=
  act s fun s => if (s.pageDue tile).isSome then s else s.issue tile opSlabFill State.slabFill

/-- Word of the tile store that takes word k of a fill. -/
def State.fillWord (s : State) (t : Nat) (r : SlabRead) (k : Nat) : Nat :=
  halfBase (s.stageOf t) (b2n r.half1) + r.dst + (if r.ring then k % max 1 r.ringWords else k)

/-- Writes words of a fill from word k, each at the cycle by which its last byte has come; a streamed LKA goes on between
them (R89, R168). -/
def State.fillWrites (s : State) (t : Nat) (r : SlabRead) (k : Nat) (ws : List MWord) : State :=
  ((List.range ws.length).zip ws).foldl (fun (s : State) e =>
    let n := k + e.1
    (s.stream t (s.fillCycle t r (16 * (n + 1)))).tileWrite t (s.fillWord t r n) e.2) s

/-- A page that stays marked: SLAB_POISON (R90). -/
def State.slabPoison (s : State) (t : Nat) : State :=
  (s.count (TIL_SLAB_POISON_COUNT_COUNT.tile t) 1).flag (TIL_STATUS_SLAB_POISON.tile t)

/-- A page leaves the repair queue without a round that succeeded (R218). -/
def State.repairEnds (s : State) (t : Nat) (r : Repair) : State :=
  let pl := s.place t r.page
  match s.mapped t pl.plane pl.lblock with
  | some bk => s.whenB r.marked fun s => (s.noteUe bk pl.pg).slabPoison t
  | none => s

/-- Drops pages from the head of the repair queue whose next round cannot end by the deadline. -/
def State.repairSettle : Nat → State → Nat → State
  | 0, s, _ => s
  | n + 1, s, t =>
    match (s.tileOf t).repairs with
    | [] => s
    | r :: q =>
      if (s.roundDue t).isSome then s
      else State.repairSettle n ((s.modTile t fun x => { x with repairs := q }).repairEnds t r) t

/-- The slab port meets a busy bank: it waits (R90, R224). -/
def State.slabStall (s : State) (t bk pg cycle : Nat) : State :=
  let x := s.tileOf t
  if x.slab.any (·.stalled) then s
  else
    let s := s.modTile t fun x => { x with slab := x.slab.map fun r => { r with stalled := true } }
    let s := ((s.flag (TIL_STATUS_SLAB_BUSY.tile t)).breach 1 t cycle).count NVS_STALL_COUNT_COUNT 1
    (s.flag NVS_STATUS_BUSY_STALL).nvsErr 3 bk pg

/-- The next page of the fill in progress is delivered on the fast path (R216, R221). -/
def State.pageDelivery (s : State) (t : Nat) (flips : List Nat) : State :=
  match (s.tileOf t).slab, s.pageDue t with
  | some r, some due =>
    let page := r.pages.getD r.delivered 0
    let pl := s.place t page
    let lo := max r.offset (page * 4096)
    let hi := min (r.offset + r.length) ((page + 1) * 4096)
    let k := (lo - r.offset) / 16
    let n := (hi - lo) / 16
    let bk := s.mapped t pl.plane pl.lblock
    let s := (s.upTo (s.cycleTime due)).moveBefore due
    if bk.any s.bankAtWork then s.slabStall t (bk.getD 0) pl.pg due
    else
      let late := if r.stalled then (s.now - s.cycleTime due) * s.mhz / 1000 else 0
      let r := { r with delivered := r.delivered + 1, stalled := false, shift := r.shift + late }
      let s := s.modTile t fun x => { x with slab := some r, cycle := if late = 0 then x.cycle else max x.cycle (due + late) }
      let x := decodePage (bk.bind fun b => s.pageAt b pl.pg) pl flips
      let words := slice x.words (lo % 4096 / 16) n
      let clean := words.map fun w => (⟨w, false⟩ : MWord)
      let s := bk.elim s fun b => s.notePage b pl.pg x.bits
      let lost := bk.isNone || x.blank || (x.tagOk && tagKind x.tag = 3)
      let s := if lost then
          ((s.fillWrites t r k (zeroMarked n)).noteLost (bk.getD (blockKey t pl.plane 0)) pl.pg).slabPoison t
        else if s.isXo (bk.getD 0) x then (s.fillWrites t r k (List.replicate n MWord.zero)).noteXo (bk.getD 0) pl.pg
        else
          let s := s.fillWrites t r k (if x.fine then clean else words.map fun w => ⟨w, true⟩)
          if x.fine && x.bits < s.nvsWarn then s
          else if r.ring then
            s.whenB (!x.fine) fun s => (s.noteUe (bk.getD 0) pl.pg).slabPoison t
          else
            let q : Repair :=
              { page := page, half1 := r.half1, lo := lo % 4096, hi := lo % 4096 + (hi - lo), dst := s.fillWord t r k,
                round := 0, retryMax := s.fld NVS_CTL_RETRY_MAX, cycle := due + late - (r.lag + r.shift),
                lag := r.lag + r.shift, deadline := r.deadline,
                marked := !x.fine, sensed := flips, bits := x.bits }
            s.modTile t fun x => { x with repairs := x.repairs ++ [q] }
      let s := s.whenB (r.pages.length ≤ r.delivered) fun s => s.setFld (TIL_SLAB_STAT_FILLING.tile t) 0
      State.repairSettle (s.tileOf t).repairs.length s t
  | _, _ => s

def execSlabPageDelivery (tile : Nat) (flips : List Nat) (s : State) : Host.Outcome State Fault Refusal :=
  act s fun s => s.pageDelivery tile flips

/-- A repair round ends (R217). -/
def State.repairRound (s : State) (t : Nat) (flips : List Nat) : State :=
  match s.roundDue t with
  | none => State.repairSettle (s.tileOf t).repairs.length s t
  | some (r, e) =>
    let pl := s.place t r.page
    match s.mapped t pl.plane pl.lblock with
    | none => s.modTile t fun x => { x with repairs := x.repairs.drop 1 }
    | some bk =>
      let page := s.pageAt bk pl.pg
      let s := (s.upTo (s.cycleTime (e + r.lag))).whenB (0 < r.round) fun s => s.sense bk 1
      let s := s.modTile t fun x => { x with repairFree := e }
      let s := match repairRoundBits page pl r.round (if r.round = 0 then r.sensed else flips), page with
        | some _, some p =>
          let ws := (slice p.words (r.lo / 16) ((r.hi - r.lo) / 16)).map fun w => (⟨w, false⟩ : MWord)
          let s := (s.tileWrites t r.dst ws).noteRetry bk r.round
          let f := TIL_SLAB_STAT_RETRY_MAX.tile t
          (s.setFld f (max (s.fld f) r.round)).modTile t fun x => { x with repairs := x.repairs.drop 1 }
        | _, _ => s.modTile t fun x => { x with repairs := modAt x.repairs 0 fun q => { q with round := q.round + 1 } }
      State.repairSettle (s.tileOf t).repairs.length s t

def execRepairRound (tile : Nat) (flips : List Nat) (s : State) : Host.Outcome State Fault Refusal :=
  act s fun s => s.repairRound tile flips

end Sys2Proof.Machine
end

