-- ==== Sys2Proof/Machine/LoadFields.lean ====
section
/-! DEFINITION. The first load checks of R179: the image as a whole (R131, R132), its schedules, the fields of its
commands, descriptors and tables, and the order of its streams (codes 0x01 to 0x05). -/

namespace Sys2Proof.Machine

/-! ### Streams -/

/-- A command with its place and the descriptor that it names. -/
structure LCmd where
  tile : Nat
  index : Nat
  cmd : Bytes
  desc : Bytes
  deriving DecidableEq, Repr

def LCmd.op (x : LCmd) : Nat := cmdOp x.cmd
def LCmd.issue (x : LCmd) : Nat := cmdIssue x.cmd
def LCmd.done (x : LCmd) : Nat := cmdDone x.cmd

def imgStream (b : Bytes) (e t : Nat) : List LCmd :=
  let cs := imgCmds b e t
  let ds := imgDescs b e t
  ((List.range cs.length).zip cs).map fun (i, c) => { tile := t, index := i, cmd := c, desc := ds.getD (cmdDescOf c) [] }

/-- Every command of a schedule. -/
def imgAll (b : Bytes) (e : Nat) : List LCmd := (imgTiles b).flatMap (imgStream b e)

/-- A test over every schedule. -/
def everyEnv (b : Bytes) (f : Nat → Bool) : Bool := (imgEnvList b).all f
/-- A test over every stream of every schedule. -/
def everyStream (b : Bytes) (f : Nat → Nat → List LCmd → Bool) : Bool :=
  everyEnv b fun e => (imgTiles b).all fun t => f e t (imgStream b e t)

/-- No two elements of a list are equal. -/
def noRepeats {α : Type} [BEq α] : List α → Bool
  | [] => true
  | x :: r => !r.contains x && noRepeats r

/-! ### 0x01 BAD_IMAGE (R131, R132) -/

/-- Sections that stand once for the program (0xFF in ENV), that stand per tile, and entry sizes (0: none fixed). -/
def secOnce (ty : Nat) : Bool := [1, 8, 10, 11, 12, 13].contains ty
def secPerTile (ty : Nat) : Bool := [2, 3, 7, 10, 12].contains ty
def secEntry (ty : Nat) : Nat :=
  if ty = 1 then 8 else if ty = 2 || ty = 3 then 32 else if ty = 10 || ty = 6 || ty = 9 then 0 else 16

def secOk (b : Bytes) (x : Sec) : Bool :=
  let m := imgTileMask b
  decide (1 ≤ x.type) && decide (x.type ≤ 13) &&
    (if secOnce x.type then x.env == secAll else decide (x.env < 3) && imgHasEnv b x.env) &&
    (if secPerTile x.type then decide (x.tile < 64) && m.testBit x.tile else x.tile == secAll) &&
    x.off % 32 == 0 && decide (128 + 16 * imgSections b ≤ x.off) && decide (x.off + x.len ≤ imgBytes b) &&
    (if secEntry x.type = 0 then x.len % 16 == 0 else x.len == x.count * secEntry x.type) &&
    (x.type != tyTileMap || x.count == 1)

/-- Sections of a type, and of a type and tile. -/
def secCount (b : Bytes) (ty : Nat) : Nat := ((imgSecs b).filter fun x => x.type = ty).length
def secTileCount (b : Bytes) (ty t : Nat) : Nat := ((imgSecs b).filter fun x => x.type = ty && x.tile = t).length

def badImage (b : Bytes) : Bool :=
  !(decide (128 ≤ b.length) && slice b 0 4 == ascii "KTPG" && u16 b 4 == 1 && decide (1 ≤ imgClass b) &&
    decide (imgClass b ≤ 3) && imgBytes b == b.length && decide (128 + 16 * imgSections b ≤ b.length) &&
    secCount b tyTileMap == 1 && secCount b tyCsReserve == 1 && decide (secCount b tyRangeTable ≤ 1) &&
    decide (secCount b tySnapshotMap ≤ 1) && (imgSecs b).all (secOk b) &&
    noRepeats (((imgSecs b).filter fun x => !secOnce x.type).map fun x => (x.type, x.env, x.tile)) &&
    (imgTiles b).all (fun t => secTileCount b tyCfg t == 1 && decide (secTileCount b tyInitData t ≤ 1)) &&
    decide (1 ≤ (imgTiles b).length) && u8 b 9 == (imgTiles b).length && sha512 (b.drop 128) == slice b 64 64)

/-! ### 0x02 CODE_MISMATCH and 0x03 NO_SCHEDULE -/

def codeMismatch (np : Nat) (b : Bytes) : Bool := imgCode b != (if np = 2 then 1 else 0)

/-- A schedule holds all its sections (R132). -/
def schedComplete (b : Bytes) (e : Nat) : Bool :=
  let has := fun (ty t : Nat) => (imgSecs b).any fun x => x.type = ty && x.env = e && x.tile = t
  [tySlotTable, tyBarrierPlan, tyLpddrSlots, tyTrees].all (fun ty => has ty secAll) &&
    (imgTiles b).all fun t => [tyCommands, tyDescriptors, tySlabReads].all fun ty => has ty t

def noSchedule (b : Bytes) : Bool :=
  !(everyEnv b (schedComplete b) && (imgClass b != 1 || (imgEnvList b).length == 3))

/-! ### 0x04 BAD_FIELD -/

/-- n bytes from an offset are zero. -/
def zeroAt (b : Bytes) (off n : Nat) : Bool := allZero (slice b off n)

def headFieldsOk (b : Bytes) : Bool :=
  decide (imgEnvs b < 8) && decide (imgBarriers b < 16) && zeroAt b 11 1 && zeroAt b 40 24

def cfgOk (b : Bytes) (t : Nat) : Bool :=
  let c := imgBody b tyCfg secAll t
  c.length == 16 && decide (u16 c 0 < 4) && zeroAt c 4 12

/-- A snapshot-map entry (R363, R429). -/
def snapOk (e : Bytes) : Bool :=
  let k := snapKind e
  let n := snapBytes e
  let sized := n % 16 == 0 && decide (16 ≤ n) && decide (n ≤ 0x400000)
  let plain := fun (sources : Nat) => decide (snapSource e < sources) && zeroAt e 3 1 && zeroAt e 8 8 && sized
  if k = kindCamera then
    let f := snapFlags e
    decide (snapSource e < 32) && decide (f % 4 < 2) && decide (bitsOf f 3 2 < 3) && decide (bitsOf f 5 4 < 3) &&
      decide (f < 64) && decide (1 ≤ u16 e 4) && decide (u16 e 4 ≤ 2048) && decide (1 ≤ u16 e 6) &&
      decide (u16 e 6 ≤ 2048) && [8, 10, 12, 14].all (fun o => u16 e o % 2 == 0) && sized
  else if k = kindSubmit || k = kindEvents || k = kindOverlay then plain 16
  else if k = kindTensorIn || k = kindTensorOut then plain 64
  else if k = kindPayload then plain 1
  else false

/-- A descriptor's type is known and its fields are in range (R143, R157, R164, R167, R172). -/
def descOk (stage : Nat) (d : Bytes) : Bool :=
  let f := u8 d 1
  let ty := u8 d 0
  if d.length != 32 then false
  else if ty = 1 then
    decide (f < 64) && zeroAt d 9 3 && zeroAt d 28 4 && xfRow d % 16 == 0 && decide (1 ≤ u16 d 16) &&
      decide (1 ≤ u16 d 18) && (!xfCode d || xfRow d % 512 == 0)
  else if ty = 2 then
    decide (f < 2) && decide (u8 d 9 < 2) && zeroAt d 28 4 && xfRow d % (if isLpddr (xfRemote d) then 64 else 16) == 0
  else if ty = 3 then
    let ring := f.testBit 0
    decide (f < 4) && u32 d 4 % 64 == 0 && u32 d 8 % 32 == 0 && zeroAt d 14 18 &&
      (if ring then decide (1 ≤ u16 d 12) && decide (u16 d 12 ≤ halfWords stage) else u16 d 12 == 0)
  else if ty = 4 then
    decide (f ≤ 16) && zeroAt d 15 1 && zeroAt d 18 6 && decide (u64 d 24 < 16 ^ f)
  else if ty = 5 then
    f % 4 / 2 == 0 && decide (f < 16) && zeroAt d 5 1 && u32 d 8 % 16 == 0 && zeroAt d 14 18
  else false

/-- Sub-operations and element types of VEC (R146, R147). -/
def vecOk (c : Bytes) : Bool :=
  let sub := u8 c 1
  let ty := vecIn c
  let out := vecOut c
  let n := vecCount c
  let g := vecGroup c
  decide (sub ≤ 12) && decide (u8 c 2 < 64) && decide (u8 c 3 < 8) && zeroAt c 24 8 && decide (1 ≤ n) &&
    decide (n ≤ 2 ^ 24) && (if sub = 8 || sub = 9 then decide (1 ≤ g) && n % g == 0 else g == 0) &&
    (!(sub = 3 || sub = 7 || sub = 11) || tyFloat ty) && (!(sub = 3 || sub = 7) || tyFloat out) && (sub != 10 || ty == out) && (sub != 12 || n % 256 == 0)

/-- The descriptor type that an opcode names; 0 for none. -/
def opDesc (op : Nat) : Nat :=
  if op = opXfer then 1 else if op = opGather then 2 else if op = opSlabFill then 3 else if op = opLka then 4
  else if op = opHand then 5 else 0

/-- A command's own fields (R136, R140, R146, R151, R152, R155, R156, R174). -/
def cmdOk (x : LCmd) : Bool :=
  let c := x.cmd
  let op := x.op
  let f := u8 c 1
  let idle := zeroAt c 1 3
  (opDesc op == 0 || u8 x.desc 0 == opDesc op) &&
  if op = opNop || op = opEnd then idle && zeroAt c 8 24
  else if op = opLka then
    let spanWord := u16 c 10
    decide (f < 64) && bitsOf f 3 2 != 3 && decide (1 ≤ u16 c 8) && decide (1 ≤ spanWord) && decide (spanWord ≤ 2048) &&
      decide (1 ≤ u16 c 12) && decide (u16 c 30 < 4096) &&
      (f.testBit 5 || (u16 x.desc 12 == 0 && u8 x.desc 14 == 0xFF))
  else if op = opVec then vecOk c
  else if op = opFtab then idle && decide (u8 c 8 < 8) && zeroAt c 9 1 && zeroAt c 12 20
  else if op = opXfer then decide (f < 2) && decide (u16 c 2 < 4096) && zeroAt c 12 20
  else if op = opGather || op = opSlabFill || op = opHand then f == 0 && decide (u16 c 2 < 4096) && zeroAt c 12 20
  else if op = opStage then idle && decide (u8 c 8 < 4) && zeroAt c 9 23
  else if op = opBar then idle && decide (u8 c 8 < 4) && decide (u8 c 9 < 3) && zeroAt c 12 20
  else if op = opSem then idle && decide (u8 c 8 < 4) && decide (u8 c 9 < 2) && zeroAt c 10 2 && zeroAt c 16 16
  else if op = opEvt then idle && decide (u8 c 8 < 4) && decide (u8 c 9 < 2) && zeroAt c 16 16
  else if op = opRange then idle && zeroAt c 9 23
  else false

/-- Entries of the slot tables, barrier plans, LPDDR slots and slab reads (R153, R170, R177, R191, R293). -/
def slotEntryOk (e : Bytes) : Bool := decide (u8 e 2 < 3) && zeroAt e 3 1
def planOk (e : Bytes) : Bool := decide (u8 e 0 < 4) && decide (u8 e 1 < 2)
def lpddrOk (e : Bytes) : Bool :=
  if u8 e 0 = 1 then decide (u8 e 1 < 8) && (!(u8 e 1).testBit 2 || (u8 e 1).testBit 0) && zeroAt e 9 3
  else u8 e 0 == 2 && bitsOf (u8 e 1) 6 3 == 0 && zeroAt e 12 4
def slabReadOk (e : Bytes) : Bool := zeroAt e 1 1 && zeroAt e 12 4

/-- A record of REDUCTION_TREES (R200). -/
def treeRecordOk (r : Bytes) : Bool :=
  let tag := u8 r 0
  if tag = 1 then decide (u8 r 1 < 2) && decide (u8 r 2 < 2) && decide (u8 r 3 < 2) && decide (2 ≤ u16 r 6) &&
    decide (u16 r 6 ≤ 2048) && zeroAt r 14 2
  else if tag = 2 then zeroAt r 1 1 && zeroAt r 11 5 && (u8 r 4 == 0xFF || u8 r 5 == 0)
  else tag == 3 && decide (1 ≤ u8 r 1)

def badField (b : Bytes) : Bool :=
  !(headFieldsOk b && (imgTiles b).all (cfgOk b) &&
    (imgEntries b tyCsReserve secAll secAll).all (fun e => zeroAt e 1 7) &&
    (imgSnaps b).all snapOk && noRepeats ((imgSnaps b).map snapSnap) &&
    everyEnv b (fun e =>
      (imgEntries b tySlotTable e secAll).all slotEntryOk && (imgEntries b tyBarrierPlan e secAll).all planOk &&
        (imgEntries b tyLpddrSlots e secAll).all lpddrOk && (imgEntries b tyTrees e secAll).all treeRecordOk &&
        (imgTiles b).all fun t => (imgEntries b tySlabReads e t).all slabReadOk &&
          decide ((imgDescs b e t).length ≤ 4096) && (imgDescs b e t).all (descOk (imgStage b t))) &&
    everyStream b fun _ _ l => l.all cmdOk)

/-! ### Issue spans (R138, R150) -/

/-- Barrier-plan entry that a BAR names. -/
def barPlan (b : Bytes) (e n inst : Nat) : Option Bytes :=
  (imgEntries b tyBarrierPlan e secAll).find? fun x => u8 x 0 = n && u16 x 2 = inst

/-- End of a command's issue span on a tile that is on time. -/
def spanEnd (b : Bytes) (e : Nat) (x : LCmd) : Nat :=
  let c := x.cmd
  let op := x.op
  let wait := fun (planned : Nat) => max x.issue planned
  if op = opLka then x.issue + lkaSpan c (bSlab (imgCode b) e)
  else if op = opVec then x.issue + vecSpan c
  else if op = opFtab then x.issue + 66
  else if op = opRange then x.issue + 96 + ((imgRanges b)[u8 c 8]?).elim 0 (·.window)
  else if op = opBar && u8 c 9 != 1 then wait ((barPlan b e (u8 c 8) (u16 c 10)).elim 0 fun p => u32 p 12)
  else if (op = opSem || op = opEvt) && u8 c 9 = 1 then wait (u32 c 12)
  else x.issue + 2

/-! ### 0x05 ISSUE_ORDER (R137) -/

def orderGo (b : Bytes) (e : Nat) : List LCmd → Bool
  | [] => false
  | [x] => x.op == opEnd && x.issue == imgW b e
  | x :: y :: r =>
    x.op != opEnd && decide (x.issue + 2 ≤ y.issue) && decide (spanEnd b e x ≤ y.issue) && orderGo b e (y :: r)

def issueOrder (b : Bytes) : Bool := !everyStream b fun e _ l => orderGo b e l

end Sys2Proof.Machine
end

