-- ==== Sys2Proof/Machine/LoadChecks.lean ====
section
/-! DEFINITION. The load checks of R179 from code 0x06 on: phases and outstanding places, DONE, merging, addresses, function
tables, staging, ranging and the fabric (R31, R82, R135, R139, R144 to R206, R276, R289 to R299, R334, R584). -/

namespace Sys2Proof.Machine

/-! ### What a command reads and writes in the tile stores -/

/-- A run of words [lo, hi) of a tile's store. -/
structure Run where
  tile : Nat
  lo : Nat
  hi : Nat
  deriving DecidableEq, Repr

def Run.meets (a b : Run) : Bool := a.tile == b.tile && decide (max a.lo b.lo < min a.hi b.hi)
def Run.inside (a b : Run) : Bool := a.tile == b.tile && decide (b.lo ≤ a.lo) && decide (a.hi ≤ b.hi)

/-- Every word of a run lies in some run of a list. -/
def Run.coveredBy (a : Run) (l : List Run) : Bool :=
  ((l.filter fun x => x.tile == a.tile).foldl (fun ws x => cutRange ws x.lo x.hi)
    (if a.lo < a.hi then [(a.lo, a.hi)] else [])).isEmpty

/-- The words of INIT_DATA of a tile. -/
def initRun (b : Bytes) (t : Nat) : Run :=
  { tile := t, lo := imgInitWord b t, hi := imgInitWord b t + (imgInit b t).length / 16 }

/-- First words of the scale blocks of an LKA, one per span (R141). -/
def lkaScales (x : LCmd) : List Nat := (List.range (u16 x.cmd 12)).map fun s => u16 x.cmd 20 + s * u16 x.cmd 22

/-- Bytes of INIT_DATA from a tile-store word. -/
def initAt (b : Bytes) (t w n : Nat) : Bytes := sliceZ (imgInit b t) (16 * (w - imgInitWord b t)) n

/-- The LKA takes the float path under a scale block's header (R110, R118). -/
def lkaFloat (b : Bytes) (x : LCmd) (head : Bytes) : Bool :=
  if (u8 x.cmd 1).testBit 5 then ((imgRanges b)[u8 x.desc 14]?).elim false (·.float) else u8 head 1 != 0

/-- Words of a scale block with a header (R110). -/
def scaleWords (float : Bool) (head : Bytes) : Nat :=
  let s := u8 head 0
  1 + 32 * popCount 3 s + (if s.testBit 3 then (if float then 48 else 56) else 0)

/-- The largest scale block: 2,448 bytes (R584). -/
def scaleMax : Nat := 153

/-- The block as INIT_DATA gives it, when it lies wholly there. -/
def scaleInit (b : Bytes) (x : LCmd) (w : Nat) : Option Run :=
  let i := initRun b x.tile
  let r : Run := { tile := x.tile, lo := w, hi := w + scaleWords (lkaFloat b x (initAt b x.tile w 16)) (initAt b x.tile w 16) }
  if Run.inside { r with hi := w + 1 } i && r.inside i then some r else none

/-- Words that an output value takes (R141). -/
def outWidth (out : Nat) : Nat := if out = 0 then 1 else if out ≤ 2 then 2 else 4

/-- The scale-block header that the loader reads, of a block among those it knows. -/
def scaleHead (b : Bytes) (known : List Run) (x : LCmd) (w : Nat) : Option Bytes :=
  match scaleInit b x w with
  | some r => if known.contains r then some (initAt b x.tile w 16) else none
  | none => none

/-- Output word width of an LKA: the widest of its spans, 4 where a block is not known (R141, R584). -/
def lkaWidth (b : Bytes) (known : List Run) (x : LCmd) : Nat :=
  (lkaScales x).foldl (fun m w => max m ((scaleHead b known x w).elim 4 fun h => outWidth (u8 h 12))) 1

/-- The wide buffer is used: by a ranged LKA, by one a known block of which carries a float sum in or out, and by one of
several spans that has a block which is not known (R113; log 70). -/
def lkaWide (b : Bytes) (known : List Run) (x : LCmd) : Bool :=
  (u8 x.cmd 1).testBit 5 || (lkaScales x).any fun w =>
    (scaleHead b known x w).elim (decide (1 < u16 x.cmd 12)) fun h => lkaFloat b x h && u8 h 13 % 4 != 3

def lkaBlocks (x : LCmd) : List Nat := List.range (u16 x.cmd 8)

/-- Output words of an LKA, and its wide buffer when used. -/
def lkaOuts (b : Bytes) (known : List Run) (x : LCmd) : List Run :=
  (lkaBlocks x).flatMap fun k =>
    let o := u16 x.cmd 24 + k * u16 x.cmd 26
    let w := u16 x.cmd 28 + 512 * k
    { tile := x.tile, lo := o, hi := o + 128 * lkaWidth b known x : Run } ::
      (if lkaWide b known x then [{ tile := x.tile, lo := w, hi := w + 512 }] else [])

/-- The LKA that a RANGE acts on: the last one before it that names its range (R155). -/
def rangeLka (l : List LCmd) (x : LCmd) : Option LCmd :=
  l.foldl (fun o y => if y.index < x.index && y.op = opLka && (u8 y.cmd 1).testBit 5 && u8 y.desc 14 = u8 x.cmd 8 then some y
    else o) none

/-- Words of the range result records of a RANGE (R155). -/
def rangeRecs (b : Bytes) (l : List LCmd) (x : LCmd) : List Run :=
  match rangeLka l x, (imgRanges b)[u8 x.cmd 8]? with
  | some y, some d =>
    let n := if d.channel then min 128 (d.channels - u16 y.desc 12) else 1
    [{ tile := x.tile, lo := u16 y.desc 16, hi := u16 y.desc 16 + n }]
  | _, _ => []

/-- Words of operands of VEC. -/
def vecRun (x : LCmd) (o ty n : Nat) (scalar : Bool) : Run :=
  { tile := x.tile, lo := u16 x.cmd o, hi := u16 x.cmd o + (if scalar then 1 else ceilDiv n (tyPer ty)) }

def vecReads (x : LCmd) : List Run :=
  let sub := vecSub x.cmd
  let ty := vecIn x.cmd
  let n := vecCount x.cmd
  let two := sub ≤ 5 || sub = 11
  vecRun x 8 ty n false :: ((if two then [vecRun x 10 ty n ((u8 x.cmd 2).testBit 4)] else []) ++
    (if sub = 3 then [vecRun x 12 ty n ((u8 x.cmd 2).testBit 5)] else []))

/-- Elements of a VEC result. -/
def vecResults (c : Bytes) : Nat := if vecSub c = 8 || vecSub c = 9 then vecCount c / max 1 (vecGroup c) else vecCount c

def vecWrite (x : LCmd) : Run := vecRun x 14 (vecOut x.cmd) (vecResults x.cmd) false

/-- Local words of a transfer or gather. -/
def localRun (x : LCmd) : Run :=
  let n := if x.op = opGather then gaCount x.desc * xfRow x.desc else xfBytes x.desc
  { tile := x.tile, lo := xfLocal x.desc, hi := xfLocal x.desc + n / 16 }

def indexRun (x : LCmd) : Run :=
  { tile := x.tile, lo := u16 x.desc 10, hi := u16 x.desc 10 + ceilDiv (gaCount x.desc) (if gaIndex32 x.desc then 4 else 8) }

/-- The bytes [lo, hi) of the remote that a transfer or gather can reach: one piece for each row of a transfer (R158,
R164). -/
def remoteBytes (x : LCmd) : List (Nat × Nat) :=
  let d := x.desc
  if x.op = opGather then
    if u32 d 24 = 0 then [] else [(xfRemote d, xfRemote d + (u32 d 24 - 1) * u32 d 20 + xfRow d)]
  else (xfRows d).map fun a => (a, a + xfRow d)

/-- The same row by row where rows that an index names leave bytes between them. The rows of a tile store begin within its
1 MiB. -/
def remoteRows (x : LCmd) : List (Nat × Nat) :=
  let d := x.desc
  if x.op = opGather && xfRow d < u32 d 20 then
    (List.range (min (u32 d 24) (0x100000 / u32 d 20 + 1))).map fun i =>
      (xfRemote d + i * u32 d 20, xfRemote d + i * u32 d 20 + xfRow d)
  else remoteBytes x

/-- What a transfer or gather can reach as words of tile stores. -/
def remoteRuns (x : LCmd) : List Run :=
  (remoteRows x).filterMap fun (lo, hi) =>
    match remoteOf lo with
    | .tile t w => some { tile := t, lo := w, hi := w + (hi - lo + 15) / 16 }
    | .lpddr _ => none
    | .cluster _ _ => none
    | .snap _ _ => none

/-- Slots of a hand-over in its consumer's store (R173). -/
def handSlot (d : Bytes) (k : Nat) : Run :=
  let w := u16 d 6 + k * u16 d 12
  { tile := u8 d 4, lo := w, hi := w + u32 d 8 / 16 }
def handSlots (d : Bytes) : List Run := handSlot d 0 :: (if (u8 d 1).testBit 0 then [handSlot d 1] else [])
def handLocal (x : LCmd) : Run := { tile := x.tile, lo := u16 x.desc 2, hi := u16 x.desc 2 + u32 x.desc 8 / 16 }

/-- Words of a staging half. -/
def stageRun (b : Bytes) (t half lo hi : Nat) : Run :=
  let h := halfBase (imgStage b t) half
  { tile := t, lo := h + lo, hi := h + hi }

def cmdWrites (b : Bytes) (known : List Run) (l : List LCmd) (x : LCmd) : List Run :=
  let op := x.op
  let d := x.desc
  if op = opLka then lkaOuts b known x
  else if op = opVec then [vecWrite x]
  else if op = opRange then rangeRecs b l x ++ ((rangeLka l x).elim [] fun y => lkaOuts b known y)
  else if op = opXfer || op = opGather then (if xfOut d then remoteRuns x else [localRun x])
  else if op = opHand then handSlots d
  else if op = opSlabFill then
    let f := fillOf x.index x.cmd d
    [stageRun b x.tile (b2n f.half1) f.words.1 f.words.2]
  else []

def lkaReads (b : Bytes) (known : List Run) (x : LCmd) : List Run :=
  let n := u16 x.cmd 12 * (u16 x.cmd 10 * 64)
  let chans := if bitsOf (u8 x.cmd 1) 3 2 = 2 then n / 2 else n
  let lanes := u8 x.desc 1
  let acts := (lkaBlocks x).flatMap fun k =>
    let a := u16 x.cmd 14 + k * u16 x.cmd 16
    let p := u16 x.desc 4 + k * u16 x.desc 6
    { tile := x.tile, lo := a, hi := a + chans : Run } ::
      (if lanes = 0 then [] else [{ tile := x.tile, lo := p, hi := p + 2 * lanes }])
  let scales := (lkaScales x).map fun w =>
    ((scaleInit b x w).filter known.contains).getD { tile := x.tile, lo := w, hi := w + scaleMax }
  acts ++ scales ++ (if lanes = 0 then [] else
    [{ tile := x.tile, lo := u16 x.desc 8, hi := u16 x.desc 8 + 16 * lanes }])

/-- Words outside the staging reads of an LKA that a command reads. -/
def cmdReads (b : Bytes) (known : List Run) (l : List LCmd) (x : LCmd) : List Run :=
  let op := x.op
  let d := x.desc
  if op = opLka then
    lkaReads b known x ++ (if lkaWide b known x then (lkaBlocks x).map fun k =>
      { tile := x.tile, lo := u16 x.cmd 28 + 512 * k, hi := u16 x.cmd 28 + 512 * k + 512 } else [])
  else if op = opVec then vecReads x
  else if op = opFtab then [{ tile := x.tile, lo := u16 x.cmd 10, hi := u16 x.cmd 10 + 66 }]
  else if op = opRange then (rangeLka l x).elim [] fun y => lkaOuts b known y
  else if op = opXfer then (if xfOut d then [localRun x] else remoteRuns x)
  else if op = opGather then indexRun x :: (if xfOut d then [localRun x] else remoteRuns x)
  else if op = opHand then [handLocal x]
  else []

/-- Every write of every schedule. -/
def allWrites (b : Bytes) (known : List Run) : List Run :=
  (imgEnvList b).flatMap fun e => (imgTiles b).flatMap fun t =>
    let l := imgStream b e t
    l.flatMap (cmdWrites b known l)

/-- The scale blocks that no command writes, from those that INIT_DATA holds (R584). What a command writes depends on the
blocks that are known; the largest set that agrees with itself is taken. -/
def knownGo (b : Bytes) : Nat → List Run → List Run
  | 0, k => k
  | n + 1, k =>
    let w := allWrites b k
    let k' := k.filter fun r => !w.any r.meets
    if k'.length = k.length then k else knownGo b n k'

def knownScales (b : Bytes) : List Run :=
  let k := ((imgEnvList b).flatMap fun e => (imgAll b e).flatMap fun x =>
    if x.op = opLka then (lkaScales x).filterMap (scaleInit b x) else []).eraseDups
  knownGo b (k.length + 1) k

/-! ### Transfers (R156 to R163) -/

/-- A transfer as it takes an outstanding place: a merged chain, a gather or a hand-over. -/
structure LXfer where
  members : List LCmd
  deriving DecidableEq, Repr

def LXfer.head (x : LXfer) : LCmd := x.members.headD ⟨0, 0, [], []⟩
def LXfer.issue (x : LXfer) : Nat := x.head.issue
def LXfer.done (x : LXfer) : Nat := (x.members.getLast?).elim 0 LCmd.done
def LXfer.bytes (x : LXfer) : Nat :=
  x.members.foldl (fun n y => n + (if y.op = opHand then u32 y.desc 8
    else if y.op = opGather then gaCount y.desc * xfRow y.desc else xfBytes y.desc)) 0

def LCmd.merged (x : LCmd) : Bool := x.op = opXfer && (u8 x.cmd 1).testBit 0
def LCmd.moves (x : LCmd) : Bool := x.op = opXfer || x.op = opGather || x.op = opHand

def xfersGo : List LCmd → List LXfer
  | [] => []
  | x :: r =>
    if !x.moves then xfersGo r
    else
      match xfersGo r, r with
      | y :: ys, n :: _ => if n.merged && x.op = opXfer then ⟨x :: y.members⟩ :: ys else ⟨[x]⟩ :: y :: ys
      | ys, _ => ⟨[x]⟩ :: ys

/-- The transfers that a tile issues. -/
def xfersOf (l : List LCmd) : List LXfer := xfersGo l
def allXfers (b : Bytes) (e : Nat) : List LXfer := (imgTiles b).flatMap fun t => xfersOf (imgStream b e t)

/-- The other tiles whose stores a transfer reads or writes, every member of a merged chain counted. -/
def LXfer.peers (x : LXfer) : List Nat :=
  if x.head.op = opHand then [u8 x.head.desc 4]
  else (x.members.flatMap fun y => (remoteTile (xfRemote y.desc)).toList ++ (remoteBytes y).flatMap fun r => (remoteTile r.1).toList ++ (remoteTile (r.2 - 1)).toList).eraseDups

/-- The transfer reads or writes the tile's store. -/
def LXfer.touches (x : LXfer) (t : Nat) : Bool := x.head.tile == t || x.peers.contains t

/-- The bytes that a transfer moves from or into the store of another tile. -/
def LXfer.bytesOf (x : LXfer) (o : Nat) : Nat :=
  if x.head.op = opHand then x.bytes
  else x.members.foldl (fun n y => if remoteTile (xfRemote y.desc) = some o then n + LXfer.bytes ⟨[y]⟩ else n) 0

/-- The cycle at which what a command moves or computes is complete: the DONE of its transfer, or the end of its span. -/
def moveEnd (b : Bytes) (e : Nat) (l : List LCmd) (x : LCmd) : Nat :=
  if x.moves then ((xfersOf l).find? fun y => y.members.contains x).elim x.done LXfer.done else spanEnd b e x

/-! ### 0x06 PHASE (R139, R171) and 0x07 DMA_LIMIT (R160) -/

def isCompute (op : Nat) : Bool := op = opLka || op = opVec || op = opFtab || op = opRange

def phaseBad (b : Bytes) : Bool :=
  !everyEnv b fun e =>
    let xs := allXfers b e
    (imgTiles b).all fun t =>
      let l := imgStream b e t
      let mine := xs.filter (·.touches t)
      (imgStage b t != 0 || l.all fun x => x.op != opLka && x.op != opSlabFill && x.op != opRange) &&
        l.all fun x => !isCompute x.op || mine.all fun y => decide (min y.done (spanEnd b e x) ≤ max y.issue x.issue)

def dmaLimit (b : Bytes) : Bool :=
  !everyStream b fun _ _ l =>
    let xs := xfersOf l
    xs.all fun x => decide ((xs.filter fun y => decide (y.issue ≤ x.issue) && decide (x.issue < y.done)).length ≤ 4)

/-! ### LPDDR slots (R292 to R294) -/

/-- A slot entry of LPDDR_SLOTS. -/
structure LSlot where
  ch : Nat
  write : Bool
  count : Nat
  first : Nat
  tile : Nat
  cmd : Nat
  deriving DecidableEq, Repr

def imgLSlots (b : Bytes) (e : Nat) : List LSlot :=
  ((imgEntries b tyLpddrSlots e secAll).filter fun x => u8 x 0 = 2).map fun x =>
    { ch := u8 x 1 % 8, write := (u8 x 1).testBit 7, count := u16 x 2, first := u32 x 4, tile := u8 x 8, cmd := u24 x 9 }

/-- Cycles of one block of an entry, and the cycle at which the entry ends. -/
def LSlot.step (s : LSlot) (e : Nat) : Nat := slotCycles e * (if s.write then 2 else 1)
def LSlot.stop (s : LSlot) (e : Nat) : Nat := s.first + s.count * s.step e

/-- The entries of a transfer. -/
def ownSlots (b : Bytes) (e : Nat) (x : LXfer) : List LSlot :=
  (imgLSlots b e).filter fun s => s.tile = x.head.tile && s.cmd = x.head.index

/-- Channel and first cycle of each block that entries move, in order. -/
def slotBlocks (e : Nat) (l : List LSlot) : List (Nat × Nat) :=
  l.flatMap fun s => (List.range s.count).map fun k => (s.ch, s.first + k * s.step e)

/-- End of a transfer's last slot. -/
def slotsEnd (e : Nat) (l : List LSlot) : Nat := l.foldl (fun m s => max m (s.stop e)) 0

/-- Channel of an LPDDR address; in the pool window, of its offset (R290, R294, R313). -/
def chanOf (compat : Bool) (a : Nat) : Nat := channelOf compat (if a < poolWindow then a else a - poolWindow)

/-- Blocks of 256 bytes that [lo, hi) touches. -/
def blocksOf (lo hi : Nat) : List Nat :=
  if hi ≤ lo then [] else (List.range ((hi - 1) / 256 - lo / 256 + 1)).map fun k => lo / 256 + k

def insertAll (l : List Nat) : List Nat := l.foldl (fun a x => insertNat x a) []

/-- The channels of the blocks that a transfer moves, in the order in which its entries list them; none where a gather's
indices would change them. -/
def xferChans (compat : Bool) (x : LXfer) : Option (List Nat) :=
  let h := x.head
  let chans := fun (l : List Nat) => l.map fun k => chanOf compat (256 * k)
  if h.op = opGather then
    let row := fun (i : Nat) => let a := xfRemote h.desc + i * u32 h.desc 20; chans (blocksOf a (a + xfRow h.desc))
    if (List.range (u32 h.desc 24)).all fun i => row i == row 0 then
      some ((List.range (gaCount h.desc)).flatMap fun _ => row 0)
    else none
  else some (chans (insertAll (x.members.flatMap fun y => (remoteBytes y).flatMap fun r => blocksOf r.1 r.2)))

def LXfer.lpddr (x : LXfer) : Bool := x.head.op != opHand && isLpddr (xfRemote x.head.desc)
def LXfer.out (x : LXfer) : Bool := x.head.op = opHand || xfOut x.head.desc
def LXfer.coded (x : LXfer) : Bool := x.head.op = opXfer && xfCode x.head.desc

/-! ### 0x08 DONE_SHORT (R159, R168, R173, R294, R334) -/

/-- Fixed latency of a remote other than LPDDR (R158). -/
def latency (x : LXfer) : Nat :=
  if x.head.op = opHand then 24
  else
    match remoteOf (xfRemote x.head.desc) with
    | .tile _ _ => 24
    | .cluster _ _ => 16
    | .snap _ _ => 20
    | .lpddr _ => 32

def xferTimes (b : Bytes) (e : Nat) (x : LXfer) : Bool :=
  let n := x.issue + ceilDiv x.bytes 32
  if x.lpddr then
    let l := ownSlots b e x
    let bl := slotBlocks e l
    decide (n ≤ x.done) && decide (slotsEnd e l + 32 ≤ x.done) &&
      l.all (fun s => decide (x.issue + (if x.out then 8 else 4) ≤ s.first)) &&
      (!(x.coded && x.out) || ((List.range bl.length).zip bl).all fun (j, s) => decide (x.issue + 28 + 16 * (j / 2) ≤ s.2))
  else decide (n + (if x.coded && x.out then 44 else latency x) ≤ x.done)

def fillTimes (b : Bytes) (e : Nat) : List Fill → Bool
  | [] => true
  | [f] => decide (f.issue + lFill e + ceilDiv f.length (bSlab (imgCode b) e) ≤ f.done)
  | f :: g :: r =>
    decide (f.issue + lFill e + ceilDiv f.length (bSlab (imgCode b) e) ≤ f.done) && decide (f.done ≤ g.issue) &&
      fillTimes b e (g :: r)

def doneShort (b : Bytes) : Bool :=
  !everyStream b fun e t l => (xfersOf l).all (xferTimes b e) && fillTimes b e (imgFills b e t)

/-! ### 0x09 MERGE (R162) -/

def mergePair (x y : LCmd) : Bool :=
  x.op == opXfer && u8 x.desc 1 == u8 y.desc 1 && [x, y].all (fun z => u16 z.desc 16 == 1 && u16 z.desc 18 == 1) &&
    xfRemote y.desc == xfRemote x.desc + xfRow x.desc && xfLocal y.desc == xfLocal x.desc + xfRow x.desc / 16 &&
    y.issue == x.issue + 2

def mergeGo : List LCmd → Bool
  | [] => true
  | [_] => true
  | x :: y :: r => (!y.merged || mergePair x y) && mergeGo (y :: r)

def mergeBad (b : Bytes) : Bool :=
  !everyStream b fun _ _ l => !(l.head?.any LCmd.merged) && mergeGo l &&
    (xfersOf l).all fun x => decide (x.members.length ≤ 16) && decide (x.bytes ≤ 0x100000 ∨ x.members.length = 1)

/-! ### 0x0A ADDRESS -/

/-- What the checks take from the device: dies, usable LPDDR and its form, and the pool's addresses. -/
structure LoadCtx where
  np : Nat
  usable : Nat
  compat : Bool
  poolLo : Nat
  poolHi : Nat
  deriving DecidableEq, Repr

/-- Range entries of the program (R293, R294, R296, R299). -/
def rangesOk (c : LoadCtx) (b : Bytes) : Bool :=
  let rs := imgMemRanges b
  let pages := fun (r : MemRange) => if r.size = 0 then []
    else (List.range ((r.base + r.size - 1) / frameBytes - r.base / frameBytes + 1)).map (r.base / frameBytes + ·)
  noRepeats (rs.map (·.num)) && everyEnv b (fun e => imgRangesOf b e == rs &&
      !((imgEntries b tyLpddrSlots e secAll).dropWhile fun x => u8 x 0 = 1).any fun x => u8 x 0 = 1) &&
    rs.all (fun r => r.pool == (imgClass b == 3) && r.base % 256 == 0 &&
      (if r.pool then decide (r.base + r.size ≤ 0x100000000)
       else decide (r.base + r.size ≤ c.usable) && !overlap r.base (r.base + r.size) c.poolLo c.poolHi)) &&
    noRepeats ((rs.filter (·.pool)).flatMap pages)

/-- Part of [lo, hi) lies in no range entry. -/
def uncovered (b : Bytes) (lo hi : Nat) : Bool :=
  !((imgMemRanges b).foldl (fun l r =>
    let base := if r.pool then poolWindow + r.base else r.base
    cutRange l base (base + r.size)) (if lo < hi then [(lo, hi)] else [])).isEmpty

/-- Words of a tile's store outside its staging buffer. -/
def plainRun (b : Bytes) (t : Nat) : Run := { tile := t, lo := 0, hi := stageBase (imgStage b t) }

/-- The packed copies of a cluster lie outside the byte range, which lies in declared segments (R135). -/
def clusterOk (b : Bytes) (cl lo hi : Nat) : Bool :=
  let g := imgSegments b cl
  (blocks64 lo hi).all (fun s => g.testBit s) &&
    !(packWords b cl).any fun p => decide (lo < 16 * p.1 + 16) && decide (16 * p.1 < hi)
where blocks64 (lo hi : Nat) : List Nat :=
  if hi ≤ lo then [] else (List.range ((hi - 1) / 65536 - lo / 65536 + 1)).map fun k => lo / 65536 + k

/-- A run of remote bytes lies in one region that the tile may reach; so does the address of a run of no bytes (R158). -/
def remoteOk (c : LoadCtx) (b : Bytes) (t lo end_ : Nat) : Bool :=
  let hi := max end_ (lo + 1)
  let n := hi - lo
  if lo < 0x1000000000 then
    decide (hi ≤ 0x1000000000) && (if poolWindow ≤ lo then imgClass b == 3 else decide (hi ≤ c.usable)) &&
      !uncovered b lo hi
  else if 0x1000000000 ≤ lo && lo < 0x1004000000 then
    let o := (lo - 0x1000000000) / 0x100000
    let w := lo % 0x100000 / 16
    o != t && (imgTiles b).contains o && Run.inside ⟨o, w, w + (n + 15) / 16⟩ (plainRun b o)
  else if lo < 0xF000000000 then
    let base := 0x1040000000 + t / 8 * 0x400000
    decide (base ≤ lo) && decide (hi ≤ base + 0x400000) && clusterOk b (t / 8) (lo - base) (hi - base)
  else
    decide (lo < 2 ^ 40) &&
      match imgSnap b (lo / 2 ^ 28 % 256) with
      | some s => decide (lo % 2 ^ 28 + n ≤ snapBytes s)
      | none => false

/-- A snapshot of the Worham link. -/
def snapWorham (b : Bytes) (a : Nat) : Bool :=
  (imgSnap b (a / 2 ^ 28 % 256)).any fun s => snapKind s = kindTensorIn || snapKind s = kindTensorOut

/-- An address in an input snapshot. -/
def snapIsInput (b : Bytes) (a : Nat) : Bool :=
  decide (0xF000000000 ≤ a) && (imgSnap b (a / 2 ^ 28 % 256)).any fun s => kindIsInput (snapKind s)

/-- Addresses of a transfer, gather or hand-over. The rows of a transfer lie in one tile store when its REMOTE does; rows of
other kinds of remote are each checked alone (DESIGN CHOICE, log 206). -/
def moveOk (c : LoadCtx) (b : Bytes) (x : LCmd) : Bool :=
  let d := x.desc
  if x.op = opHand then
    (handLocal x).inside (plainRun b x.tile) && (handSlots d).all fun r => r.inside (plainRun b r.tile)
  else
    let rb := remoteBytes x
    (localRun x).inside (plainRun b x.tile) && remoteOk c b x.tile (xfRemote d) (xfRemote d) &&
      rb.all (fun r => r.1 % 16 == 0 && remoteOk c b x.tile r.1 r.2) &&
      rb.all (fun r => remoteTile r.1 == remoteTile (xfRemote d)) && xfRemote d % 16 == 0 &&
      !(x.op == opXfer && xfOut d && rb.any fun r => snapIsInput b r.1) &&
      (x.op != opGather || ((indexRun x).inside (plainRun b x.tile) && u32 d 20 % 16 == 0)) &&
      (!(x.op == opXfer && xfCode d) || (rb.all (fun r => r.1 % 512 == 0) &&
        (isLpddr (xfRemote d) || (decide (0xF000000000 ≤ xfRemote d) && snapWorham b (xfRemote d)))))

/-- Addresses of an LKA: ports A, C, W and V (R84, R86, R141). -/
def lkaAddrOk (b : Bytes) (known : List Run) (x : LCmd) : Bool :=
  let n := u16 x.cmd 12 * (u16 x.cmd 10 * 64)
  let half := halfWords (imgStage b x.tile)
  let acts := if bitsOf (u8 x.cmd 1) 3 2 = 2 then n / 2 else n
  (lkaBlocks x).all (fun k => decide (u16 x.cmd 14 + k * u16 x.cmd 16 + acts ≤ 65536)) &&
    (lkaScales x).all (fun w => Run.inside (((scaleInit b x w).filter known.contains).getD ⟨x.tile, w, w + scaleMax⟩)
      (plainRun b x.tile)) &&
    (u8 x.desc 1 == 0 || (decide (u16 x.desc 8 + 16 * u8 x.desc 1 ≤ stageBase (imgStage b x.tile)) &&
      (lkaBlocks x).all fun k =>
        decide (u16 x.desc 4 + k * u16 x.desc 6 + 2 * u8 x.desc 1 ≤ stageBase (imgStage b x.tile)))) &&
    (lkaOuts b known x).all (fun r => r.inside (plainRun b x.tile)) &&
    ((u8 x.cmd 1).testBit 1 || decide (u16 x.cmd 18 + 4 * n ≤ half)) &&
    (bitsOf (u8 x.cmd 1) 3 2 != 0 || decide (u16 x.desc 2 + ceilDiv n 64 ≤ half))

/-- Operands and result of VEC: outside the staging buffer, the result equal to an operand range or clear of it (R149). -/
def vecAddrOk (b : Bytes) (x : LCmd) : Bool :=
  let w := vecWrite x
  w.inside (plainRun b x.tile) && (vecReads x).all fun r => r.inside (plainRun b x.tile) && (r == w || !r.meets w)

def addrOk (c : LoadCtx) (b : Bytes) (known : List Run) (l : List LCmd) (x : LCmd) : Bool :=
  if x.op = opLka then lkaAddrOk b known x
  else if x.op = opVec then vecAddrOk b x
  else if x.op = opFtab then Run.inside ⟨x.tile, u16 x.cmd 10, u16 x.cmd 10 + 66⟩ (plainRun b x.tile)
  else if x.op = opRange then (rangeRecs b l x).all fun r => r.inside (plainRun b x.tile)
  else if x.moves then moveOk c b x
  else if x.op = opSlabFill then decide (u32 x.desc 4 + u32 x.desc 8 ≤ c.np * 0x8000000)
  else true

/-- The slot entries of a schedule (R294). -/
def slotsOk (compat : Bool) (b : Bytes) (e : Nat) : Bool :=
  let ss := imgLSlots b e
  let xs := (allXfers b e).filter (·.lpddr)
  ss.all (fun s => s.first % slotCycles e == 0 && xs.any fun x => x.head.tile = s.tile && x.head.index = s.cmd) &&
    xs.all (fun x =>
      let own := ownSlots b e x
      own.all (fun s => s.write == x.out) && some ((slotBlocks e own).map (·.1)) == xferChans compat x) &&
    disjointSlots e ss
where disjointSlots (e : Nat) : List LSlot → Bool
  | [] => true
  | s :: r => r.all (fun t => s.ch != t.ch || decide (s.stop e ≤ t.first) || decide (t.stop e ≤ s.first)) && disjointSlots e r

/-- The cluster-store reservation (R135). -/
def reserveOk (b : Bytes) : Bool :=
  (imgEntries b tyCsReserve secAll secAll).map (fun x => u8 x 0) == insertAll ((imgTiles b).map (· / 8)) &&
    ((imgTiles b).map (· / 8)).eraseDups.all fun cl => decide (packSize b cl ≤ 65536 * popCount 64 (imgSegments b cl))

def addressBad (c : LoadCtx) (b : Bytes) : Bool :=
  let known := knownScales b
  !(reserveOk b && rangesOk c b && everyEnv b (slotsOk c.compat b) &&
    (imgTiles b).all (fun t => decide ((initRun b t).hi ≤ 65536)) &&
    everyStream b fun _ _ l => l.all (addrOk c b known l))

/-! ### 0x0B HELD_WRITE (R31) -/

def heldWrite (b : Bytes) : Bool :=
  !everyStream b fun _ _ l => l.all fun x =>
    !((x.op = opXfer || x.op = opGather) && xfOut x.desc && (remoteBytes x).any fun r => snapIsInput b r.1)

/-! ### 0x0C FTAB (R82, R151) -/

def ftabOk (t : Bytes) : Bool :=
  decide (u8 t 16 < 2) && decide (u8 t 17 < 3) && (u8 t 16 == 0 || decide (u8 t 18 < 3)) && zeroAt t 19 13

def ftabBad (b : Bytes) : Bool :=
  let writes := allWrites b (knownScales b)
  !everyStream b fun _ _ l => l.all fun x =>
    if x.op = opFtab then
      let r : Run := ⟨x.tile, u16 x.cmd 10, u16 x.cmd 10 + 66⟩
      r.inside (initRun b x.tile) && !writes.any r.meets && ftabOk (initAt b x.tile r.lo 32)
    else if x.op = opVec && vecSub x.cmd = 7 then
      l.any fun y => decide (y.index < x.index) && y.op == opFtab && u8 y.cmd 8 == u8 x.cmd 3
    else true

/-! ### 0x0D STAGING (R144, R145, R167, R169, R170, R276) -/

/-- The lanes of DRONE_ORDER that D names. -/
def droneOrder (d : Bytes) : List Nat := (List.range (u8 d 1)).map fun m => bitsOf (u64 d 24) (4 * m + 3) (4 * m)

def lkaStageOk (x : LCmd) : Bool :=
  let span := u16 x.cmd 10 * 64
  let lanes := u8 x.desc 1
  let f := u8 x.cmd 1
  decide (8 * lanes ≤ span) && noRepeats (droneOrder x.desc) && (f.testBit 4 || lanes == 0) &&
    (bitsOf f 3 2 != 2 || span % 128 == 0) && (!f.testBit 1 || u16 x.cmd 8 == 1)

/-- The half that feeds as each command of a stream issues, after its own swap. -/
def feedGo : Bool → List LCmd → List (LCmd × Bool)
  | _, [] => []
  | h, x :: r =>
    let h' := if x.op = opLka && (u8 x.cmd 1).testBit 0 then !h else h
    (x, h') :: feedGo h' r

/-- A read of a word of a half by a streamed LKA: the fill that it reads from, the word and the cycle. -/
structure RingRead where
  fill : Option Nat
  word : Nat
  cycle : Nat

/-- What the streamed LKAs fed from a half read. An LKA reads what the last fill of the half before it in the stream brings
(DESIGN CHOICE, log 207). -/
def ringReads (b : Bytes) (e half : Nat) (fs : List Fill) (l : List (LCmd × Bool)) (half1 : Bool) : List RingRead :=
  l.flatMap fun (x, h) => if x.op = opLka && (u8 x.cmd 1).testBit 1 && h == half1 then
      let from_ := ((fs.filter fun f => f.index < x.index).getLast?).map (·.index)
      (List.range (u16 x.cmd 12 * (u16 x.cmd 10 * 64))).flatMap fun j => (List.range 4).map fun q =>
        { fill := from_, word := (u16 x.cmd 18 + 4 * j + q) % max 1 half,
          cycle := x.issue + 16 + 64 * j / bSlab (imgCode b) e }
    else []

/-- The reads of one word, in order, against the writes of the word by fill: read m from a fill goes with the fill's m-th
write of the word, comes no earlier, and comes before the word's next write (log 207). -/
def wordOk (ws : List (Nat × Nat)) : List RingRead → List RingRead → Bool
  | _, [] => true
  | seen, r :: q =>
    let mine := match r.fill with
      | none => []
      | some f => ws.filter fun (x : Nat × Nat) => x.1 = f
    let m := (seen.filter fun y => y.fill = r.fill).length
    let later := mine.drop (m + 1) ++ (ws.filter fun (x : Nat × Nat) => r.fill.all fun f => decide (f < x.1))
    mine[m]?.all (fun x => decide (x.2 ≤ r.cycle)) && later.head?.all (fun x => decide (r.cycle < x.2)) &&
      wordOk ws (r :: seen) q

/-- Every word that a streamed LKA reads is read after it is written and before it is written over (R169). -/
def ringOk (b : Bytes) (e : Nat) (fs : List Fill) (rs : List RingRead) : Bool :=
  ((rs.map (·.word)).eraseDups).all fun w =>
    wordOk (fs.flatMap fun f => (f.writesAt b e w).map fun c => (f.index, c)) [] (rs.filter fun r => r.word = w)

/-- A word that is read from one cycle to another, by an LKA that issues while a ring is filled, stands from its ISSUE, or from the
word's first write where that comes before the first read, to the last read (R169; log 207). -/
def rowStands (ws : List Nat) (issue first last : Nat) : Bool :=
  match ws.filter fun c => decide (issue < c) && decide (c ≤ last) with
  | [] => true
  | [c] => ws.head? == some c && decide (c ≤ first)
  | _ => false

/-- No fill in flight writes over a staged code row or a codebook between the ISSUE of its LKA and the step that reads it last. -/
def stagedOk (b : Bytes) (e half : Nat) (before : List Fill) (x : LCmd) : Bool :=
  (before.filter fun f => x.issue < f.done).all fun f => (List.range (f.words.2 - f.words.1)).all fun k =>
    let w := f.words.1 + k
    ((if lkaStreams x.cmd then [] else rowReads b e half x.cmd w) ++ bookReads b e x.cmd x.desc w).all fun r =>
      rowStands (f.writesAt b e w) x.issue r.1 r.2

def stagingOk (np : Nat) (b : Bytes) (e t : Nat) (l : List LCmd) : Bool :=
  let fs := imgFills b e t
  let feeds := feedGo false l
  let half := halfWords (imgStage b t)
  let swaps := imgSwaps b e t
  l.all (fun x => x.op != opLka || lkaStageOk x) &&
    fs.all (fun f =>
      decide (f.words.2 ≤ half) &&
        (f.ring || (feeds.filter fun y => y.1.index = f.index).all fun y => y.2 != f.half1) &&
        swaps.all fun s => !(decide (f.issue < s.1) && decide (s.1 < f.done) && s.2 == f.half1)) &&
    [false, true].all (fun h =>
      let mine := fs.filter fun f => f.half1 == h
      ringOk b e mine (ringReads b e half mine feeds h)) &&
    feeds.all (fun (x, h) => x.op != opLka ||
      (let mine := fs.filter fun f => f.half1 == h
       stagedOk b e half (mine.filter fun f => f.index < x.index) x && (lkaStaged x.cmd x.desc half).all fun r =>
         (mine.foldl (fun ws f => cutRange ws f.words.1 f.words.2) [r]).all fun y => decide (y.2 ≤ y.1))) &&
    (imgEntries b tySlabReads e t).map (fun r => (u8 r 0, u16 r 2, u32 r 4, u32 r 8)) ==
      fs.map (fun f => (t, bankMask np f.offset f.length, f.issue, fillDeadline b e t f)) &&
    decide (carryBytes (carrySet b e t) ≤ 196608)

def stagingBad (np : Nat) (b : Bytes) : Bool := !everyStream b (stagingOk np b)

/-! ### 0x0E RANGE (R154, R155, R195) -/

def rangeEntryOk (e : Bytes) : Bool :=
  decide (u8 e 0 < 2) && decide (u8 e 1 < 2) && decide (u8 e 2 < 2) && decide (u8 e 3 ≤ 8) && decide (1 ≤ u8 e 12) &&
    decide (u8 e 12 ≤ 64) && decide (u8 e 13 < 4)

/-- The instance at which each ranged arrival of a stream takes place (R195): the command and the instance. -/
def rangeArrivals (b : Bytes) (e t : Nat) : List (Nat × Nat) → List LCmd → List (LCmd × Nat × Option Nat)
  | _, [] => []
  | last, x :: r =>
    if x.op = opBar && u8 x.cmd 9 ≤ 1 then
      rangeArrivals b e t (Tab.put last (u8 x.cmd 8) (u16 x.cmd 10 + 1)) r
    else if x.op = opRange then
      match (imgRanges b)[u8 x.cmd 8]? with
      | none => rangeArrivals b e t last r
      | some d =>
        if d.tiles ≤ 1 then rangeArrivals b e t last r
        else
          let from_ := Tab.lookD last d.network 0
          let inst := ((imgEntries b tyBarrierPlan e secAll).filter fun p =>
            u8 p 0 = d.network && (u64 p 4).testBit t && decide (from_ ≤ u16 p 2)).foldl
              (fun (o : Option Nat) p => some (o.elim (u16 p 2) (min (u16 p 2)))) none
          (x, d.network, inst) :: rangeArrivals b e t (inst.elim last fun i => Tab.put last d.network (i + 1)) r
    else rangeArrivals b e t last r

def rangeBad (b : Bytes) : Bool :=
  let n := (imgRanges b).length
  !((imgEntries b tyRangeTable secAll secAll).all rangeEntryOk &&
    imgHistBytes b == 48 * (imgRanges b).foldl (fun a r => a + r.units) 0 &&
    everyStream b fun e t l =>
      l.all (fun x =>
        if x.op = opLka then !(u8 x.cmd 1).testBit 5 || decide (u8 x.desc 14 < n)
        else if x.op = opRange then decide (u8 x.cmd 8 < n) && (rangeLka l x).isSome else true) &&
      (rangeArrivals b e t [] l).all fun (x, nw, inst) =>
        match inst.bind (barPlan b e nw) with
        | none => false
        | some p => u8 p 1 == 1 && decide (u32 p 12 ≤ x.issue + 96))

/-! ### 0x0F FABRIC: slot tables (R177, R186, R187) -/

/-- The routes of a tile-to-tile transfer: where the flits leave, where they arrive, and the bytes that go there. -/
def LXfer.ends (x : LXfer) : List (Nat × Nat × Nat) :=
  x.peers.map fun p => if x.out then (x.head.tile, p, x.bytesOf p) else (p, x.head.tile, x.bytesOf p)

/-- An entry belongs to a transfer, on a route from and to two tiles. -/
def SlotEntry.owns (s : SlotEntry) (b : Bytes) (e : Nat) (x : LXfer) (src dst : Nat) : Bool :=
  s.owner == x.head.index && s.src == src && s.dst == dst && s.issuer b e == x.head.tile &&
    (s.kind == 1) == (x.head.op == opHand)

/-- Two entries reserve a common slot (R185). -/
def SlotEntry.clash (a b : SlotEntry) : Bool :=
  ((List.range 14).zip (route a.src a.dst)).any fun (h, x) => ((List.range 14).zip (route b.src b.dst)).any fun (g, y) =>
    x == y && decide (a.first + h ≤ b.last + g) && decide (b.first + g ≤ a.last + h)

def noClash : List SlotEntry → Bool
  | [] => true
  | s :: r => r.all (fun t => !s.clash t) && noClash r

/-- R186 for one route of a transfer. -/
def entriesOk (own : List SlotEntry) (x : LXfer) (bytes : Nat) : Bool :=
  !own.isEmpty && decide (ceilDiv bytes 32 ≤ own.foldl (fun n s => n + (s.last + 1 - s.first)) 0) &&
    own.all (fun s => decide (x.issue + 4 ≤ s.first) && decide (s.last + 21 ≤ x.done))

def slotTableOk (b : Bytes) (e : Nat) : Bool :=
  let l := imgSlotTable b e
  let xs := (allXfers b e).filter fun x => !x.ends.isEmpty
  noClash l && l.all (fun s => decide (s.first ≤ s.last) && (imgTiles b).contains s.src && (imgTiles b).contains s.dst &&
      xs.any fun x => x.ends.any fun r => s.owns b e x r.1 r.2.1) &&
    xs.all fun x => x.ends.all fun r => entriesOk (l.filter fun s => s.owns b e x r.1 r.2.1) x r.2.2

/-! ### Barrier plans (R193), event lines (R196), semaphores (R198) -/

/-- Arrivals of a tile at instances: network, instance, and the ISSUE of the arriving command (R193). -/
def arrivalsOf (b : Bytes) (e t : Nat) (l : List LCmd) : List (Nat × Nat × Nat) :=
  l.filterMap (fun x => if x.op = opBar && u8 x.cmd 9 ≤ 1 then some (u8 x.cmd 8, u16 x.cmd 10, x.issue) else none) ++
    (rangeArrivals b e t [] l).filterMap fun (x, nw, inst) => inst.map fun i => (nw, i, x.issue)

def plansOk (b : Bytes) (e : Nat) : Bool :=
  let ps := imgEntries b tyBarrierPlan e secAll
  let as := fun (t : Nat) => arrivalsOf b e t (imgStream b e t)
  noRepeats (ps.map fun p => (u8 p 0, u16 p 2)) &&
    (imgTiles b).all (fun t => (as t).all fun a =>
      (barPlan b e a.1 a.2.1).any fun p => (u64 p 4).testBit t) &&
    (imgTiles b).all (fun t => (imgStream b e t).all fun x =>
      x.op != opBar || ((imgBarriers b).testBit (u8 x.cmd 8) && (barPlan b e (u8 x.cmd 8) (u16 x.cmd 10)).isSome)) &&
    ps.all fun p =>
      let nw := u8 p 0
      let inst := u16 p 2
      (imgBarriers b).testBit nw && (bitList 64 (u64 p 4)).all fun t => (imgTiles b).contains t &&
        (match (as t).filter fun a => a.1 = nw && a.2.1 = inst with
         | [a] => decide (a.2.2 + 12 ≤ u32 p 12) &&
             ps.all fun q => !(u8 q 0 == nw && decide (u16 q 2 < inst)) || decide (u32 q 12 ≤ a.2.2)
         | _ => false)

def linesOk (b : Bytes) (e : Nat) : Bool :=
  (imgTiles b).all fun t =>
    let l := (imgStream b e t).filter fun x => x.op = opEvt
    l.all (fun x => u8 x.cmd 9 == 0 || (imgTiles b).contains (u16 x.cmd 10)) &&
      (List.range 4).all fun k => decide ((l.filter fun x => u8 x.cmd 9 = 0 && u8 x.cmd 8 = k).length ≤ 65535)

def semsOk (b : Bytes) (e : Nat) : Bool :=
  (imgTiles b).all fun t =>
    let l := (imgStream b e t).filter fun x => x.op = opSem
    l.all (fun x => (neighbour t (u8 x.cmd 8)).any fun n => (imgTiles b).contains n) &&
      (List.range 4).all fun dir =>
        match neighbour t dir with
        | none => true
        | some n =>
          let sig := (l.filter fun x => u8 x.cmd 9 = 0 && u8 x.cmd 8 = dir).map fun x => x.issue + 4
          let wait := ((imgStream b e n).filter fun x => x.op = opSem && u8 x.cmd 9 = 1 && u8 x.cmd 8 = (dir + 2) % 4).map
            fun x => max x.issue (u32 x.cmd 12)
          sig.all fun c => decide ((sig.filter (· ≤ c)).length ≤ 15 + (wait.filter (· ≤ c)).length)

/-! ### Hand-overs (R172, R175) -/

/-- The hand-overs directed at a consumer's counter, by the cycle at which they complete: the HAND, and its number among
those of its descriptor. -/
def handsOn (b : Bytes) (e t counter : Nat) : List (LCmd × Nat) :=
  ((imgTiles b).flatMap fun p =>
    let l := (imgStream b e p).filter fun x => x.op = opHand
    l.filterMap fun x => if u8 x.desc 4 = t && bitsOf (u8 x.desc 1) 3 2 = counter then
        some (x, (l.filter fun y => y.index < x.index && cmdDesc y.cmd = cmdDesc x.cmd).length) else none).foldl
    (fun l x => insertHand x l) []
where insertHand (x : LCmd × Nat) : List (LCmd × Nat) → List (LCmd × Nat)
  | [] => [x]
  | y :: r => if x.1.done < y.1.done then x :: y :: r else y :: insertHand x r

/-- A hand-over as the load check sees it: its HAND, the slot it writes and the STAGE that takes it, if there is one. -/
structure LHand where
  cmd : LCmd
  slot : Run
  stage : Option LCmd
  deriving DecidableEq, Repr

/-- The STAGE commands of a counter in a stream. -/
def stagesOn (l : List LCmd) (counter : Nat) : List LCmd := l.filter fun x => x.op = opStage && u8 x.cmd 8 = counter

/-- Every hand-over directed at a tile. The STAGEs of a counter take its hand-overs in the order in which these
complete. -/
def handsAt (b : Bytes) (e t : Nat) : List LHand :=
  (List.range 4).flatMap fun counter =>
    let hs := handsOn b e t counter
    let st := stagesOn (imgStream b e t) counter
    ((List.range hs.length).zip hs).map fun (i, x, k) =>
      { cmd := x, slot := handSlot x.desc (k % (if (u8 x.desc 1).testBit 0 then 2 else 1)), stage := st[i]? }

/-- A hand-over writes its slot only after every command that reads what the slot held: every command of the consumer before the
STAGE that takes the hand-over, and every transfer of another tile that issues before the hand-over is complete (R175). -/
def handClear (b : Bytes) (e t : Nat) (known : List Run) (x : LHand) : Bool :=
  let l := imgStream b e t
  let late := fun (l : List LCmd) (r : LCmd) =>
    (cmdReads b known l r).any (fun w => w.meets x.slot) && decide (x.cmd.issue < moveEnd b e l r)
  match x.stage with
  | some sx =>
    l.all (fun r => !(decide (r.index < sx.index) && late l r)) &&
      ((imgTiles b).filter (· != t)).all fun o =>
        let m := imgStream b e o
        m.all fun r => !(decide (r.issue < x.cmd.done) && late m r)
  | none => false

/-- A hand-over writes its slot only after the STAGE that released an earlier one to the same words (R175). -/
def handAfter (y x : LHand) : Bool := y.stage.any fun sy => decide (sy.issue ≤ x.cmd.issue)

/-- R172 and R175. A hand-over from a tile to itself is refused (DESIGN CHOICE, log 208). -/
def handsOk (b : Bytes) (e : Nat) : Bool :=
  let known := knownScales b
  (imgTiles b).all fun t =>
    let l := imgStream b e t
    let hs := handsAt b e t
    l.all (fun x => x.op != opHand || ((imgTiles b).contains (u8 x.desc 4) && u8 x.desc 4 != t)) &&
      (List.range 4).all (fun counter => (handsOn b e t counter).length == (stagesOn l counter).length) &&
      hs.all fun x => handClear b e t known x && hs.all fun y =>
        x.cmd == y.cmd || !(decide (y.cmd.done ≤ x.cmd.done) && y.slot.meets x.slot) || handAfter y x

/-! ### Reduction trees (R200 to R206) -/

/-- A tree: its header, leaves and nodes. -/
structure Tree where
  head : Bytes
  leaves : List Bytes
  nodes : List Bytes
  deriving DecidableEq, Repr

/-- The numbers of a list never fall. -/
def rising : List Nat → Bool
  | a :: b :: r => decide (a ≤ b) && rising (b :: r)
  | _ => true

/-- Splits the records of a section into trees; none where the records are out of order (R200). -/
def treesGo : Nat → List Bytes → Option (List Tree)
  | 0, l => if l.isEmpty then some [] else none
  | k + 1, l =>
    match l with
    | [] => some []
    | h :: r =>
      let n := u16 h 6
      let m := u16 h 12
      let lv := r.take n
      let nd := (r.drop n).take m
      if u8 h 0 = 1 && lv.length = n && nd.length = m && lv.all (fun x => u8 x 0 = 2) && nd.all (fun x => u8 x 0 = 3) &&
          lv.map (fun x => u16 x 2) = List.range n && rising (nd.map fun x => u8 x 1) then
        (treesGo k (r.drop (n + m))).map ({ head := h, leaves := lv, nodes := nd } :: ·)
      else none

def imgTrees (b : Bytes) (e : Nat) : Option (List Tree) :=
  let l := imgEntries b tyTrees e secAll
  treesGo l.length l

def Tree.elements (t : Tree) : Nat := u32 t.head 8
def Tree.words (t : Tree) : Nat := ceilDiv t.elements 4
def noCmd : Nat := 0xFFFFFF

/-- Where an operand's value lies: a tile's words with the commands that write it, or a member's value in a snapshot. -/
inductive OpPlace where
  | here (tile word : Nat) (by_ : Option LCmd)
  | member (snap word : Nat)
  deriving DecidableEq, Repr

def cmdAt (b : Bytes) (e t i : Nat) : Option LCmd := (imgStream b e t)[i]?

/-- The value of leaves [lo, hi). -/
def Tree.place (tr : Tree) (b : Bytes) (e lo hi : Nat) : Option OpPlace :=
  match tr.nodes.find? fun n => u16 n 2 = lo && u16 n 6 = hi with
  | some n =>
    let v := cmdAt b e (u8 n 8) (u24 n 10)
    some (.here (u8 n 8) (v.elim 0 fun x => u16 x.cmd 14) v)
  | none =>
    match tr.leaves[lo]? with
    | none => none
    | some f =>
      if (slice tr.leaves lo (hi - lo)).all fun x => u8 x 4 = 0xFF then some (.member (u8 f 5) (u16 f 6))
      else if hi = lo + 1 then some (.here (u8 f 4) (u16 f 6) (cmdAt b e (u8 f 4) (u24 f 8)))
      else none

/-- The words of a run hold at a cycle the operand that a command wrote: every command that writes one of them and issues
before the cycle has ended by it, and none of them comes after that command (R201). -/
def heldUntil (b : Bytes) (e : Nat) (known : List Run) (r : Run) (by_ : LCmd) (until_ : Nat) : Bool :=
  let end_ := fun (x : LCmd) => decide (moveEnd b e (imgStream b e x.tile) x ≤ until_)
  end_ by_ && (imgAll b e).all fun x =>
    !(decide (x.issue < until_) && (cmdWrites b known (imgStream b e x.tile) x).any r.meets) ||
      ((decide (x.issue ≤ by_.issue) || (x.tile == by_.tile && x.index == by_.index)) && end_ x)

/-- The rows of a transfer are one run of bytes. -/
def xfDense (d : Bytes) : Bool := xfRows d == (List.range (xfRows d).length).map fun k => xfRemote d + k * xfRow d

/-- An XFER moves the elements of an operand, all of them and no others (R201; DESIGN CHOICE, log 252). -/
def movesOperand (tr : Tree) (x : LCmd) (loc remote : Nat) : Bool :=
  x.op == opXfer && xfDense x.desc && xfBytes x.desc == 4 * tr.elements && xfLocal x.desc == loc && xfRemote x.desc == remote

/-- One operand of a node: the words of the VEC at `w` hold the value of a place, which its command writes whole. -/
def operandOk (b : Bytes) (e : Nat) (known : List Run) (tr : Tree) (n : Bytes) (v : LCmd) (w : Nat) (p : OpPlace) : Bool :=
  let dst := u8 n 8
  let here : Run := ⟨dst, w, w + tr.words⟩
  let x := cmdAt b e (if u8 n 9 = 0xFF then dst else u8 n 9) (u24 n 13)
  match p with
  | .here t word (some c) =>
    if !Run.coveredBy ⟨t, word, word + tr.words⟩ (cmdWrites b known (imgStream b e t) c) then false
    else if t = dst then w == word && heldUntil b e known here c v.issue
    else
      match x with
      | none => false
      | some x =>
        u8 n 9 == t && xfOut x.desc && movesOperand tr x word (0x1000000000 + dst * 0x100000 + 16 * w) &&
          heldUntil b e known ⟨t, word, word + tr.words⟩ c x.issue && heldUntil b e known here x v.issue
  | .here _ _ none => false
  | .member snap word =>
    match x with
    | none => false
    | some x =>
      u8 n 9 == 0xFF && !xfOut x.desc && movesOperand tr x w (0xF000000000 + snap * 2 ^ 28 + 16 * word) &&
        heldUntil b e known here x v.issue

/-- The operand lies on the tile that combines. -/
def OpPlace.onTile (p : OpPlace) (dst : Nat) : Bool :=
  match p with
  | .here t _ _ => t == dst
  | .member _ _ => false

/-- A node: one operand moves where SRC is not DST, and none where it is (R200, R201). -/
def nodeOk (b : Bytes) (e : Nat) (known : List Run) (tr : Tree) (n : Bytes) : Bool :=
  let ty := if u8 tr.head 2 = 0 then tyInt32 else tyFp32
  let lo := u16 n 2
  let mid := u16 n 4
  let hi := u16 n 6
  decide (lo < mid) && decide (mid < hi) && decide (hi ≤ u16 tr.head 6) && (u8 n 9 != u8 n 8 || u24 n 13 == noCmd) &&
    match cmdAt b e (u8 n 8) (u24 n 10), tr.place b e lo mid, tr.place b e mid hi with
    | some v, some p, some q =>
      v.op == opVec && vecSub v.cmd == (if u8 tr.head 1 = 0 then 0 else 4) && vecIn v.cmd == ty && vecOut v.cmd == ty &&
        vecCount v.cmd == tr.elements && !(u8 v.cmd 2).testBit 4 &&
        b2n (p.onTile (u8 n 8)) + b2n (q.onTile (u8 n 8)) == (if u8 n 9 = u8 n 8 then 2 else 1) &&
        ((operandOk b e known tr n v (u16 v.cmd 8) p && operandOk b e known tr n v (u16 v.cmd 10) q) ||
          (operandOk b e known tr n v (u16 v.cmd 8) q && operandOk b e known tr n v (u16 v.cmd 10) p))
    | _, _, _ => false

/-- The nodes of the canonical tree over n leaves (R203): level, first, split, end. -/
def canonPass (level : Nat) : List (Nat × Nat) → List (Nat × Nat × Nat × Nat) × List (Nat × Nat)
  | a :: b :: r =>
    let q := canonPass level r
    ((level, a.1, b.1, b.2) :: q.1, (a.1, b.2) :: q.2)
  | [a] => ([], [a])
  | [] => ([], [])

def canonGo : Nat → Nat → List (Nat × Nat) → List (Nat × Nat × Nat × Nat)
  | 0, _, _ => []
  | k + 1, level, l => if l.length ≤ 1 then [] else let q := canonPass level l; q.1 ++ canonGo k (level + 1) q.2

def canonTree (n : Nat) : List (Nat × Nat × Nat × Nat) := canonGo n 1 ((List.range n).map fun j => (j, j + 1))

/-- The runs of the nodes: each operand is one leaf, a member's run or another node, used once, and one node is the root. -/
def runsOk (tr : Tree) : Bool :=
  let n := u16 tr.head 6
  let runs := tr.nodes.map fun x => (u16 x 2, u16 x 6)
  let uses := tr.nodes.flatMap fun x => [(u16 x 2, u16 x 4), (u16 x 4, u16 x 6)]
  noRepeats runs && noRepeats uses && runs.contains (0, n) && runs.all fun r => r == (0, n) || uses.contains r

/-- A leaf of a FORM 1 tree (R204, R584). Its value is the whole output of its LKA, which lies in one run of words. -/
def leafOk (b : Bytes) (e : Nat) (known : List Run) (tr : Tree) (f : Bytes) : Bool :=
  u8 f 4 == 0xFF ||
    match cmdAt b e (u8 f 4) (u24 f 8) with
    | none => false
    | some x =>
      x.op == opLka && u16 f 6 == u16 x.cmd 24 && tr.words == 512 * u16 x.cmd 8 &&
        (u16 x.cmd 8 == 1 || u16 x.cmd 26 == 512) && u16 x.cmd 12 == 1 && u16 x.cmd 10 * 64 == (if bitsOf (u8 x.cmd 1) 3 2 = 2 then 128 else 64) &&
        (scaleHead b known x (u16 x.cmd 20)).all fun h =>
          u8 h 13 % 4 == 3 && (if lkaFloat b x h then decide (3 ≤ u8 h 12) && u8 tr.head 2 == 1
            else decide (4 ≤ u8 h 12) && u8 tr.head 2 == 0)

def treeOk (b : Bytes) (e : Nat) (known : List Run) (tr : Tree) : Bool :=
  let far := fun (lo hi : Nat) => (slice tr.leaves lo (hi - lo)).all fun x => u8 x 4 = 0xFF
  runsOk tr && tr.nodes.all (nodeOk b e known tr) &&
    (if u8 tr.head 3 = 1 then
      tr.leaves.all (leafOk b e known tr) &&
        (let has := tr.nodes.map fun x => (u8 x 1, u16 x 2, u16 x 4, u16 x 6)
         let want := (canonTree (u16 tr.head 6)).filter fun x => !far x.2.1 x.2.2.2
         has.length == want.length && want.all has.contains)
     else imgClass b != 1)

/-- An entry of KIND 2 is that of a transfer that a node names (R177, R185; log 209). -/
def reduceOk (l : List Tree) (s : SlotEntry) (issuer : Nat) : Bool :=
  s.kind != 2 || l.any fun t => t.nodes.any fun n => u8 n 9 == issuer && u8 n 9 != u8 n 8 && u24 n 13 == s.owner

def treesOk (b : Bytes) (e : Nat) : Bool :=
  match imgTrees b e with
  | none => false
  | some l => noRepeats (l.map fun t => u16 t.head 4) && l.all (treeOk b e (knownScales b)) &&
      (imgSlotTable b e).all fun s => reduceOk l s (s.issuer b e)

def fabricBad (b : Bytes) : Bool :=
  !everyEnv b fun e => slotTableOk b e && handsOk b e && plansOk b e && linesOk b e && semsOk b e && treesOk b e

/-! ### R179 -/

def State.loadCtx (s : State) : LoadCtx := { np := s.np, usable := s.t3Bytes, compat := s.compat, poolLo := s.poolLo, poolHi := s.poolHi }

/-- The first failed check of an image, in the order of R179. -/
def loadCode (c : LoadCtx) (b : Bytes) : Option Nat :=
  if badImage b then some 0x01
  else if codeMismatch c.np b then some 0x02
  else if noSchedule b then some 0x03
  else if badField b then some 0x04
  else if issueOrder b then some 0x05
  else if phaseBad b then some 0x06
  else if dmaLimit b then some 0x07
  else if doneShort b then some 0x08
  else if mergeBad b then some 0x09
  else if addressBad c b then some 0x0A
  else if heldWrite b then some 0x0B
  else if ftabBad b then some 0x0C
  else if stagingBad c.np b then some 0x0D
  else if rangeBad b then some 0x0E
  else if fabricBad b then some 0x0F
  else none

/-! ### The checks that START_SERVICE repeats (R179, R289, R296, R335, R340) -/

/-- The coding-table slots that a program's CODE descriptors name. -/
def imgTableSlots (b : Bytes) : List Nat := ((imgCoded b).map xfSlot).eraseDups

/-- The rows of a coded LPDDR transfer, of every member of a merged chain, do not all lie in one enabled region (R163, R340). -/
def State.codedBad (s : State) (b : Bytes) : Bool :=
  (imgEnvList b).any fun e => (allXfers b e).any fun x => x.coded && x.lpddr &&
    !(List.range 8).any fun k => x.members.all fun y => (remoteBytes y).all fun r => s.inRegion k r.1 r.2

/-- First failed load check of START_SERVICE. -/
def State.startCode (s : State) (b : Bytes) : Option Nat :=
  if codeMismatch s.np b then some 0x02
  else if !(if imgClass b = 1 then [0, 1, 2].all (imgHasEnv b) else imgHasEnv b s.env) then some 0x03
  else if (imgTableSlots b).any fun k => (Tab.look s.mem.tables k).isNone || s.mem.tableOp.any (·.1 = k) then some 0x04
  else if !rangesOk s.loadCtx b || s.codedBad b then some 0x0A
  else none

end Sys2Proof.Machine
end

