-- ==== Sys2Proof/Machine/Chain.lean ====
section
/-! DEFINITION. The leader's side of chained distribution (R283, R284, R432 to R434). -/

namespace Sys2Proof.Machine

/-- The member to which a chain frame goes on: the lowest known number above this one's (R432). -/
def State.chainNext (s : State) : Option Nat :=
  (List.range 16).find? fun m => s.cnsMember < m && (s.fld CNS_MASK_KNOWN).testBit m

/-- Sends a chain frame down the chain towards a target. -/
def State.chainSend (s : State) (type dst : Nat) (data : Bytes) : State :=
  match s.chainNext.bind s.peerMac with
  | some mac => s.cnsSendMac type mac (s.cnsBody type dst data)
  | none => s

def State.setSession (s : State) (x : Session) : State :=
  s.setCns { s.consort with
    sessions := s.consort.sessions.map fun y => if y.id = x.id && y.leads = x.leads then x else y }

def State.dropSession (s : State) (x : Session) : State :=
  s.setCns { s.consort with sessions := s.consort.sessions.filter fun y => !(y.id = x.id && y.leads = x.leads) }

/-- Data bytes of a CHAIN_DATA frame. -/
def chainMax : Nat := 1440

/-- The leader sends what lies below LIMIT (R433). -/
def State.pumpGo : Nat → State → Session → State
  | 0, s, x => s.setSession x
  | n + 1, s, x =>
    let hi := min x.limit x.data.length
    if hi ≤ x.sent then s.setSession x
    else
      let len := min chainMax (hi - x.sent)
      let body := leBytes 8 x.id ++ leBytes 8 x.sent ++ leBytes 8 len ++ slice x.data x.sent len
      State.pumpGo n (s.chainSend tyChainData x.peer body) { x with sent := x.sent + len }

def State.pump (s : State) (x : Session) : State := State.pumpGo (x.data.length + 1) s x

/-- The command names another member, which must perform it (R283, R434). -/
def HostCmd.member (c : HostCmd) : Nat := u8 c.bytes 11
def State.chained (s : State) (c : HostCmd) : Bool := c.member != thisMember && !(s.cnsLeader && c.member == 0)
where thisMember : Nat := 0xFF

/-- A session of the leader with a target is open. -/
def State.chainBusy (s : State) (m : Nat) : Bool := s.consort.sessions.any fun x => x.leads && x.peer = m

/-- Opens a session for a command: `data` is the image that the chain carries. -/
def State.chainOpen (s : State) (c : HostCmd) (data : Bytes) : State :=
  let id := s.consort.nextSession
  let x : Session :=
    { id := id, leads := true, peer := c.member, cmd := c.id, bytes := c.bytes, next := 0, limit := 0, sent := 0,
      data := data, lastHeard := s.now, lastAdvance := s.now, lastCredit := s.now }
  let s := s.setCns { s.consort with sessions := s.consort.sessions ++ [x], nextSession := (id + 1) % 2 ^ 32 }
  s.chainSend tyChainCmd c.member (leBytes 8 id ++ c.bytes.take 11 ++ [0xFF] ++ c.bytes.drop 12)

end Sys2Proof.Machine
end

