-- ==== Sys2Proof/Machine/Sec.lean ====
section
/-! DEFINITION. The keys of SEC and what it verifies (R440 to R442, R505 to R515), and the state of the firmware cores
(R438, R459). -/

namespace Sys2Proof.Machine

/-! ### Derived keys (R506, R507) -/

def devicePrk : Bytes := hkdfExtract (ascii "KORDIROS HERINDORE") (leBytes 32 Config.dus.toNat)
def idkSeed : Bytes := hkdfExpand devicePrk (ascii "identity") 32
def idkPub : Bytes := edPublic idkSeed
def mukScalar : Bytes := hkdfExpand devicePrk (ascii "model-unwrap") 32
def mukPub : Bytes := x25519Base mukScalar
/-- The device identifier, and the 64-bit device value. -/
def deviceId : Bytes := sha512_256 idkPub
def deviceValue : Nat := u64 deviceId 0

/-! ### The device certificate (R4, R508) -/

/-- The value of ID_PART. -/
def Fuses.idPart (f : Fuses) : Nat := 0x08640000 + f.grade * 4096 + f.dies * 256 + f.step * 16 + f.minor

/-- The certificate that the factory writes. -/
def Fuses.certificate (f : Fuses) : Bytes :=
  ascii "KDCT" ++ leBytes 2 1 ++ leBytes 2 0 ++ leBytes 4 f.idPart ++ leBytes 4 0 ++ idkPub ++ mukPub ++ deviceId ++
    List.replicate 16 0 ++ sliceZ Config.certSig 0 64

/-- A certificate's keys match the derived keys. -/
def certFits (b : Bytes) : Bool := slice b 16 32 == idkPub && slice b 48 32 == mukPub

def Boot.copyA (b : Boot) : Bytes := b.certA.getD b.fuses.certificate
def Boot.copyB (b : Boot) : Bytes := b.certB.getD b.fuses.certificate

/-- The certificate that SEC_DEVCERT shows: a copy whose keys match, where there is one. -/
def Boot.cert (b : Boot) : Bytes := if certFits b.copyA || !certFits b.copyB then b.copyA else b.copyB

/-- SEC's check of the certificate when it starts. -/
def State.checkCert (s : State) : State :=
  s.whenB (!certFits s.boot.copyA && !certFits s.boot.copyB) fun s => s.flag SEC_STATUS_CERT_BAD

/-! ### Roles and signatures (R509, R510) -/

def roleFirmware : Nat := 0
def roleModel : Nat := 1
def roleXo : Nat := 2
def roleSoundpost : Nat := 3

/-- SIGNER identifier of a public key. -/
def signerId (pub : Bytes) : Bytes := (sha512_256 pub).take 8

/-- A signature verifies under a key of the table that holds the role and that SIGNER names. -/
def State.verifies (s : State) (role : Nat) (signer msg sig : Bytes) : Bool :=
  s.boot.keys.any fun k =>
    match k with
    | none => false
    | some k => k.roles.testBit role && signerId k.pub == signer && edVerify k.pub msg sig

/-! ### The key block of a weight image (R514, R515) -/

/-- The image key of a key block for an image identifier. -/
def unwrapKey (kb imageId : Bytes) : Option Bytes :=
  let ephemeral := slice kb 32 32
  if slice kb 0 4 != ascii "KWKB" || u16 kb 4 != 1 || u64 kb 8 != deviceValue || slice kb 16 16 != imageId then none
  else
    let z := x25519 mukScalar ephemeral
    if allZero z then none
    else
      let prk := hkdfExtract (ephemeral ++ mukPub) z
      let kek := hkdfExpand prk (ascii "KWKB" ++ slice kb 16 16 ++ slice kb 8 8) 32
      match kwUnwrap kek (slice kb 64 72) with
      | none => none
      | some key => if key.take 32 == slice key 32 32 then none else some key

/-! ### Firmware cores (R438, R459) -/

def coreSec : Nat := 0
def corePmc : Nat := 1
def coreSch : Nat := 2
def coreCcc : Nat := 3

/-- Bytes of a core's code bank. -/
def bankBytes (core : Nat) : Nat :=
  1024 * (if core = coreSec then 128 else if core = corePmc then 64 else if core = coreSch then 256 else 48)

def fwFld (f : Fld) (core : Nat) : Fld := f.at (4 * core)
def State.fwState (s : State) (core : Nat) : Nat := s.fld (fwFld SEC_FW_CORE_STATE core)

/-- SEC_FW_CORE.STATE values. -/
def fwNone : Nat := 0
def fwRunning : Nat := 1
def fwQuiescing : Nat := 2
def fwRestarting : Nat := 3
def fwHalted : Nat := 4

/-- The core executes. -/
def State.fwUp (s : State) (core : Nat) : Bool := s.fwState core == fwRunning || s.fwState core == fwQuiescing
def State.secUp (s : State) : Bool := s.fwUp coreSec
def State.pmcUp (s : State) : Bool := s.fwUp corePmc

/-- SEC_FW_CORE.OTHER values. -/
def bankEmpty : Nat := 0
def bankStaged : Nat := 1
def bankPrevious : Nat := 2
def State.fwOther (s : State) (core : Nat) : Nat := s.fld (fwFld SEC_FW_CORE_OTHER core)

/-- Bytes of a core's data memory. -/
def dataBytes (core : Nat) : Nat :=
  1024 * (if core = coreSec then 64 else if core = corePmc then 32 else if core = coreSch then 256 else 4)

/-- A bank that holds an image. The word index of the fold is that of the word in its bank (R309, R438; log 241). -/
def FwBank.ofImage (img : Bytes) : FwBank :=
  { header := img.take 256, code := (words128 (img.drop 256)).mapIdx fun i w => CWord.enc i ⟨w, false⟩ }

/-- The image in a bank, as it is read. -/
def FwBank.image (b : FwBank) : Bytes := b.header ++ (b.code.mapIdx fun i c => (c.dec i).2.data).flatMap bytes128

/-- The active and the other bank of a core. -/
def State.activeBank (s : State) (core : Nat) : FwBank :=
  if s.bit (fwFld SEC_FW_CORE_BANK core) then (s.core core).bank1 else (s.core core).bank0
def State.otherBank (s : State) (core : Nat) : FwBank :=
  if s.bit (fwFld SEC_FW_CORE_BANK core) then (s.core core).bank0 else (s.core core).bank1

/-- Images in a core's active and other bank. -/
def State.fwActive (s : State) (core : Nat) : Bytes := (s.activeBank core).image
def State.fwSpare (s : State) (core : Nat) : Bytes := (s.otherBank core).image

def State.setActiveBank (s : State) (core : Nat) (b : FwBank) : State :=
  let one := s.bit (fwFld SEC_FW_CORE_BANK core)
  s.modCore core fun x => if one then { x with bank1 := b } else { x with bank0 := b }
def State.setSpare (s : State) (core : Nat) (img : Bytes) : State :=
  let one := s.bit (fwFld SEC_FW_CORE_BANK core)
  let b := FwBank.ofImage img
  s.modCore core fun x => if one then { x with bank0 := b } else { x with bank1 := b }

/-- Inverts stored bits of a word: bits 0 to 127 of the mask are the data bits, the 9 above them the check bits. -/
def CWord.invert (c : CWord) (flips : Nat) : CWord :=
  { data := c.data ^^^ BitVec.ofNat 128 flips, chk := c.chk ^^^ BitVec.ofNat 9 (flips / 2 ^ 128), found := false }

/-- Inverts stored bits of a word of a core's active code bank or of its data memory, whose words read zero before they are
written. -/
def State.flipCore (s : State) (core : Nat) (data : Bool) (w flips : Nat) : State :=
  if data then
    if w < dataBytes core / 16 then
      s.modCore core fun x => { x with
        data := Tab.put x.data w (((Tab.look x.data w).getD (CWord.enc w MWord.zero)).invert flips) }
    else s
  else
    let b := s.activeBank core
    s.setActiveBank core { b with code := b.code.modify w fun c => c.invert flips }

/-- What the code finds in that word. -/
def State.coreWord (s : State) (core : Nat) (data : Bool) (w : Nat) : KKind :=
  let c := if data then Tab.look (s.core core).data w else (s.activeBank core).code[w]?
  c.elim .clean fun c => (c.dec w).1

/-- The image kind of a core: the CORE field (R440). -/
def fwKind (core : Nat) : Nat := min core coreCcc

/-- The cores of a CORE operand. -/
def fwCores (kind : Nat) : List Nat := if kind = coreCcc then (List.range 8).map (coreCcc + ·) else [kind]

def imgBuild (b : Bytes) : Nat := u32 b 20
def imgSvn (b : Bytes) : Nat := u32 b 16

/-- Image digest (R442). -/
def imageDigest (b : Bytes) : Bytes := sha512_256 (sliceZ b 0 128)

/-- FW_HASH (R442). -/
def State.fwHash (s : State) : Bytes := sha512_256 ((List.range 11).flatMap fun c => imageDigest (s.fwActive c))

/-- What R441 finds of an image for a core kind: the status, and whether a signature or digest check failed. -/
def State.checkFw (s : State) (kind : Nat) (b : Bytes) : Nat × Bool :=
  let n := u32 b 8
  let formatOk := decide (256 ≤ b.length) && slice b 0 4 == ascii "KFWI" && u16 b 4 == 1 && u8 b 6 == kind &&
    u8 b 7 == 0 && n % 16 == 0 && decide (16 ≤ n) && decide (n ≤ bankBytes kind) && decide (u32 b 12 < n) &&
    allZero (slice b 96 32) && allZero (slice b 192 64) && b.length == 256 + n
  if !formatOk then (stBadImage, false)
  else if sha512 (b.drop 256) != slice b 32 64 then (stBadImage, true)
  else if !s.verifies roleFirmware (slice b 24 8) (b.take 128) (slice b 128 64) then (stBadSignature, true)
  else if imgSvn b < s.boot.fuses.minSvn then (stBadSignature, true)
  else (stOk, false)

/-- The check, with its failure recorded. -/
def State.verifyFw (s : State) (kind : Nat) (b : Bytes) : State × Nat :=
  let r := s.checkFw kind b
  (s.whenB r.2 State.verifyFail, r.1)

/-- SCH is down, or up: HIF_STATUS.SCH_DOWN follows its state, and so does the servicing of BAR2 (R395, R407). -/
def State.showSch (s : State) : State :=
  let down := !s.fwUp coreSch
  (s.setFld HIF_STATUS_SCH_DOWN (b2n down)).setFld HIF_EMU_CTL_ACTIVE (b2n (s.bit HIF_EMU_CTL_EN && !down))

def State.setFw (s : State) (core v : Nat) : State := (s.setFld (fwFld SEC_FW_CORE_STATE core) v).showSch

/-- A core that quiesces for an activation that is withdrawn resumes its duties (R457). -/
def State.resume (s : State) (core : Nat) : State :=
  (s.whenB (s.fwState core = fwQuiescing) fun s => s.setFw core fwRunning).modCore core fun x => { x with quiesceAt := none }

end Sys2Proof.Machine
end

