-- ==== Sys2Proof/Machine/Tick.lean ====
section
/-! DEFINITION. What services require of the tick (R36 to R41, R460), and writes of the TCK settings (R60 to R62, R412). -/

namespace Sys2Proof.Machine

/-! ### Services by class and state -/

def clA : Nat := 1
def clB : Nat := 2
def clC : Nat := 3

/-- Class of a service's program: 1 A, 2 B, 3 C; 0 when none is loaded (R402). -/
def Service.cls (v : Service) : Nat := if v.phase = .none then 0 else imgClass v.image

/-- The service is past its start: running, or waiting or on standby for it (R300, R419). The rules that speak of a running
service (R39, R61) do not say whether one that waits for residency or stands by counts; it does (DESIGN CHOICE, log 196). -/
def SvcPhase.active (p : SvcPhase) : Bool := p = .running || p = .waiting || p = .standby

/-- The service has started and has not stopped: it is admitted. -/
def SvcPhase.admitted (p : SvcPhase) : Bool := p.active || p = .suspended

/-- A class A service is running. -/
def State.runningA (s : State) : Bool := s.services.any fun e => e.2.cls = clA && e.2.phase.active
/-- A class A service is running or staged. -/
def State.stagedA (s : State) : Bool := s.services.any fun e => e.2.cls = clA && e.2.phase.holds

/-- W / f ≤ 0.95 × (P − 20 µs) in an envelope, at a period in µs (R38, R39). -/
def envFits (img : Bytes) (env period : Nat) : Bool :=
  imgHasEnv img env && decide (100 * imgW img env ≤ 95 * (period - 20) * envMHz env)

/-- The check of R39 at a period: every envelope for class A, otherwise one. -/
def fitsAt (img : Bytes) (env period : Nat) : Bool :=
  if imgClass img = clA then (List.range 3).all fun e => envFits img e period else envFits img env period

/-- The check of R39 is made of a service at a change of period: of one that runs, and of a class A service that is admitted
and has not started, which no rule suspends (DESIGN CHOICE, log 197). -/
def Service.checked (v : Service) : Bool := v.phase.active || (v.cls = clA && v.phase.holds)

/-- Every service that is checked passes at a period. -/
def State.periodFits (s : State) (period : Nat) : Bool :=
  s.services.all fun e => !e.2.checked || fitsAt e.2.image s.env period

/-! ### Writes of the TCK settings -/

/-- Host writes of the tick settings are refused (R61, R412). -/
def State.tickLocked (s : State) : Bool := s.runningA || s.inEpoch

/-- A period that R61 and R62 allow. -/
def State.periodOk (s : State) (p : Nat) : Bool := decide (10000 ≤ p) && decide (p ≤ 100000) && s.periodFits p

/-- A host write of TCK_PERIOD. -/
def State.tckPeriod (s : State) (v : Nat) : State :=
  let p := bitsOf v 16 0
  if s.tickLocked || !s.periodOk p then s.flag TCK_STATUS_PER_REJ else s.setFld TCK_PERIOD_PERIOD_US p

/-- TCK_CTL's fields other than SRC. -/
def State.tckCtlRest (s : State) (v : Nat) : State :=
  let s := s.setFlds [(TCK_CTL_HOLD_LIMIT, bitsOf v 15 8), (TCK_CTL_OUT_EN, bitsOf v 6 6)]
  if v.testBit 7 then s.setFld TCK_SLACK_MIN_SLACK_US 0x1FFFF else s

/-- SRC takes a value. A change of source is due at the next boundary where the source in force is another (R58, R60); the
last value written before the boundary counts. -/
def State.takeSrc (s : State) (src : Nat) : State :=
  { s.setFld TCK_CTL_SRC src with srcWritten := decide (src ≠ s.fld TCK_CTL_SRC_ACTIVE) }

/-- A write of TCK_CTL with this SRC would change the requested source or the source in force; a write with any other is no
write to SRC (log 19). -/
def State.srcMoves (s : State) (src : Nat) : Bool := src != s.fld TCK_CTL_SRC || src != s.fld TCK_CTL_SRC_ACTIVE

/-- A host write of TCK_CTL. -/
def State.tckCtl (s : State) (v : Nat) : State :=
  let src := bitsOf v 1 0
  let s := s.tckCtlRest v
  if src = 3 || (s.tickLocked && s.srcMoves src) then s.flag TCK_STATUS_SRC_REJ
  else if s.tickLocked then s
  else s.takeSrc src

/-- A host write of TCK_PHASE or TCK_TICKIN. -/
def State.tckPhase (s : State) (v : Nat) : State :=
  if s.tickLocked then s.flag TCK_STATUS_SRC_REJ else s.setFld TCK_PHASE_PHASE_US (bitsOf v 16 0)

def State.tckTickin (s : State) (v : Nat) : State :=
  if s.tickLocked then s.flag TCK_STATUS_SRC_REJ
  else s.setFlds [(TCK_TICKIN_EDGE, bitsOf v 16 16), (TCK_TICKIN_TOL_US, bitsOf v 9 0)]

def execSlackRst (value : Word) (s : State) : Host.Outcome State Fault Refusal := hostAct TCK_CTL.off s fun s => s.tckCtl value.toNat

def execTckPeriodWrite (value : Word) (s : State) : Host.Outcome State Fault Refusal :=
  hostAct TCK_PERIOD.off s fun s => s.tckPeriod value.toNat

def execTckSrcWrite (value : Word) (s : State) : Host.Outcome State Fault Refusal := hostAct TCK_CTL.off s fun s => s.tckCtl value.toNat

def execTckPhaseWrite (value : Word) (s : State) : Host.Outcome State Fault Refusal :=
  hostAct TCK_PHASE.off s fun s => s.tckPhase value.toNat

def execTckTickinWrite (value : Word) (s : State) : Host.Outcome State Fault Refusal :=
  hostAct TCK_TICKIN.off s fun s => s.tckTickin value.toNat

end Sys2Proof.Machine
end

