-- ==== Sys2Proof/Machine/Stage.lean ====
section
/-! DEFINITION. Staged changes: commit sets (R22 to R25), their withdrawal (R398), the tiles and stores that a staged or
stopped service gives back (R97, R287), and the agreement of changes in a consort (R282, R428). -/

namespace Sys2Proof.Machine

/-! ### Consort plans (R418, R437) -/

/-- The plan byte of a service: bit 7 CONSORT, bit 6 SOLO_EN, bits 5:0 PARTNER. -/
def State.planByte (s : State) (n : Nat) : Nat := bitsOf (s.fld (CNS_PLAN_DATA.at (n / 4 * 4))) (8 * (n % 4) + 7) (8 * (n % 4))
def State.isConsort (s : State) (n : Nat) : Bool := (s.planByte n).testBit 7
/-- The partner that runs in place of a consort service. -/
def State.partner (s : State) (n : Nat) : Option Nat :=
  if s.isConsort n && (s.planByte n).testBit 6 then some (s.planByte n % 64) else none
/-- The consort service, staged or admitted, of which a service is the partner. -/
def State.partnerOf (s : State) (n : Nat) : Option Nat :=
  (List.range 64).find? fun k => s.partner k = some n && (s.svc k).phase.holds

/-! ### Bindings and slots (R252, R253) -/

def State.bindUp (s : State) (n : Nat) : State :=
  s.modSlot n fun v => { v with binds := v.binds + 1, state := if v.state = slValid then slBound else v.state }
def State.bindDown (s : State) (n : Nat) : State :=
  s.modSlot n fun v =>
    { v with binds := v.binds - 1, state := if v.state = slBound && v.binds ≤ 1 then slValid else v.state }

/-! ### What a service gives back -/

/-- Its SUBMIT_INPUT commands end (R400). -/
def State.dropInputs (s : State) (svc : Nat) : State :=
  let l := (s.intake.inputDma ++ s.intake.inputReady).filter fun e => e.2.1 = svc
  let s := l.foldl (fun s e => s.finish e.1 stSuperseded 0 0) s
  s.setIntake { s.intake with inputDma := s.intake.inputDma.filter fun e => e.2.1 != svc,
                              inputReady := s.intake.inputReady.filter fun e => e.2.1 != svc }

/-- Its cluster-store segments are invalid (R287). -/
def State.clearSegments (s : State) (img : Bytes) : State :=
  (List.range 8).foldl (fun s c =>
    let x := s.clusterOf c
    let m := BitVec.ofNat 64 (imgSegments img c)
    if m = 0 then s else s.setCluster c { x with segs := x.segs &&& ~~~m }) s

/-- Its tiles return to FREE after the bulk invalidate that R85 and R97 give every tile of a stopped service; those of a
start that is taken back do so at once where no write has reached the store (R97). -/
def State.freeTiles (s : State) (img : Bytes) (stopped : Bool) : State :=
  (imgTiles img).foldl (fun s t => if stopped || (s.tileOf t).dirty then s.beginInvalidate t else s.freeTile t) s

/-- A bulk invalidate ends: the store is empty. One that the release of a tile started makes the tile FREE; one that the
host requested leaves the state of a tile that a service has taken meanwhile (R97, R98). -/
def State.invalidateDone (s : State) (t : Nat) : State :=
  if (s.tileOf t).invalidating then
    let taken := s.services.any fun e => e.2.phase.holds && (imgTiles e.2.image).contains t
    let s := ((s.invalidate t).modTile t fun x => { x with invalidating := false }).setFld (TIL_MEM_CTL_BUSY.tile t) 0
    if taken then s else s.freeTile t
  else s

def execBulkInvalidateDone (tile : Nat) (s : State) : Host.Outcome State Fault Refusal :=
  act s fun s => s.invalidateDone tile

/-- The history record as the last step 6 has committed it, or as that of this boundary is to commit it (R43, R129). -/
def Service.committed (v : Service) : List RangeEntry :=
  if v.log.ran && !v.log.flags.testBit rfOverrun then v.histNext else v.hist

/-- A service as it is when it is loaded and no more. It keeps its committed history record (R402), and what the next tick that it
runs is to say of its pool ranges (R303). -/
def Service.loaded (v : Service) : Service :=
  { Service.reset with phase := .loaded, image := v.image, xoSlot := v.xoSlot, imageAt := v.imageAt, slot := v.slot,
                       lastTick := v.lastTick, hist := v.committed, histNext := v.committed, poolDiscard := v.poolDiscard,
                       poolTaint := v.poolTaint }

/-- A staged or stopped service gives back its tiles, segments and inputs. -/
def State.release (s : State) (svc : Nat) (stopped : Bool) : State :=
  let img := (s.svc svc).image
  (((s.dropInputs svc).freeTiles img stopped).clearSegments img).modSvc svc Service.loaded

/-- Step 6 of a boundary ends the bulk invalidates of the services that it stopped (R19, R85). -/
def State.invalidateStopped (s : State) (stops : List Nat) : State :=
  stops.foldl (fun s n => (imgTiles (s.svc n).image).foldl State.invalidateDone s) s

/-- A staged service is withdrawn; kept pool ranges stay (R304). -/
def State.unstage (s : State) (svc : Nat) : State :=
  let s := if (s.svc svc).phase = .staged then s.release svc false else s
  s.setPool (s.mem.pool.filter fun r => r.svc != svc || r.wherein != .never)

/-! ### Commit sets -/

/-- Two changes have the same object, for R24: an opcode on one service, the device configuration, one core. -/
def ChangeKind.same (a b : ChangeKind) : Bool :=
  match a, b with
  | .start x, .start y => x == y
  | .stop x, .stop y => x == y
  | .bind x _, .bind y _ => x == y
  | .bind x _, .swap y _ => x == y
  | .swap x _, .bind y _ => x == y
  | .swap x _, .swap y _ => x == y
  | .config _, .config _ => true
  | .activate x, .activate y => x == y
  | .rollback x, .rollback y => x == y
  | .consort, .consort => true
  | _, _ => false

/-- The boundary at which a staged change is due: its target, or the next one where that has passed (R23, R24). -/
def State.dueAt (s : State) (c : Change) : Nat := max c.target (s.tick + 1)

/-- A change is part of a commit set: it does not wait for its consort. -/
def Change.inSet (c : Change) : Bool := c.armed || c.agreed.isNone

/-- Changes due at the present boundary. -/
def State.dueNow (s : State) : List Change := s.staged.filter fun c => c.inSet && decide (c.target ≤ s.tick)

/-- A start of the service, or of the service of which it is the partner, is due at the present boundary. -/
def State.startsNow (s : State) (n : Nat) : Bool :=
  s.dueNow.any fun c => match c.kind with
    | .start k => k == n || s.partner k == some n
    | _ => false

/-- A change of this object is staged for the boundary. -/
def State.duplicate (s : State) (k : ChangeKind) (target : Nat) (agreed : Option Nat) : Bool :=
  s.staged.any fun c => c.kind.same k &&
    (if agreed.isSome then c.agreed = agreed && !c.armed else c.inSet && s.dueAt c = max target (s.tick + 1))

def State.addChange (s : State) (c : Change) : State := { s with staged := s.staged ++ [c] }
def State.dropChange (s : State) (c : Change) : State := { s with staged := s.staged.filter fun d => d != c }

/-- Takes a staged change back; its command, where it has one, completes with a status. -/
def State.withdraw (s : State) (c : Change) (status : Nat) : State :=
  let s := s.dropChange c
  let s := match c.kind with
    | .start n => (match s.partner n with
      | some p => s.unstage p
      | none => s).unstage n
    | .bind _ (some sl) => s.bindDown sl
    | .swap _ sl => s.bindDown sl
    | .activate k => (s.setFlds [(fwFld SEC_FW_CORE_PENDING k, 0), (fwFld SEC_FW_CORE_DEFERRED k, 0)]).resume k
    | .consort => s.setCns { s.consort with staged := none }
    | _ => s
  match c.cmd with
  | some id => s.finish id status 0 0
  | none => s

/-- Changes that a command staged, and those of the commit sets that hold them; a rollback stays (log 20). -/
def State.setsOf (s : State) (l : List Change) : List Change :=
  s.staged.filter fun c => (match c.kind with | .rollback _ => false | _ => true) &&
    (l.contains c || l.any fun d => d.inSet && c.inSet && s.dueAt c = s.dueAt d)

/-! ### Agreement (R282, R411, R428) -/

/-- The consort tick of the present boundary (R411). -/
def State.ctick (s : State) : Int :=
  let p : Int := 1000 * s.fld TCK_PERIOD_ACT_PERIOD_US
  let x : Int := s.fld TCK_BOUNDARY_TS_TIME_NS - 1000 * s.phaseUs
  if p = 0 then 0 else (2 * x + p).fdiv (2 * p)

/-- The local tick whose boundary has a consort tick, as the two count now (R411). -/
def State.localTick (s : State) (n : Int) : Nat := ((s.tick : Int) + n - s.ctick).toNat

/-- Bytes of a consort tick. -/
def ctickBytes (c : Int) : Bytes := leBytes 8 (trunc 64 c)

def agBind : Nat := 0
def agConfig : Nat := 1
def agFirmware : Nat := 2

def State.agreement (s : State) (k : Nat) : Agreement :=
  if k = agBind then s.consort.bind else if k = agConfig then s.consort.config else s.consort.firmware
def State.setAgreement (s : State) (k : Nat) (a : Agreement) : State :=
  s.setCns (if k = agBind then { s.consort with bind := a }
    else if k = agConfig then { s.consort with config := a } else { s.consort with firmware := a })

/-- Changes of a kind of agreement. -/
def State.agreedChanges (s : State) (k : Nat) : List Change := s.staged.filter fun c => c.agreed = some k

/-- The consort tick of an APPLY is known: armed changes wait for its boundary. -/
def State.agreeApply (s : State) (k : Nat) (n : Int) : State :=
  let target := s.localTick n
  { s with staged := s.staged.map fun c =>
      if c.agreed = some k && !c.armed then { c with armed := true, target := target, ctick := some n } else c }

/-- The changes that a consort tick makes due find their local boundary anew after a step of the clock or a change of period; a
consort tick that is passed over is due at once (DESIGN CHOICE, log 239). -/
def State.alignChanges (s : State) : State :=
  { s with staged := s.staged.map fun (c : Change) =>
      match c.ctick with
      | some n => if c.target < s.tick then c else { c with target := s.localTick n }
      | none => c }

/-- Changes of a kind of agreement that meet a test complete with CONSORT_CANCELLED, and its agreement is open no more. -/
def State.agreeDrop (s : State) (k : Nat) (p : Change → Bool) : State :=
  let s := ((s.agreedChanges k).filter p).foldl (fun s c => s.withdraw c stConsortCancelled) s
  s.setAgreement k { s.agreement k with armedAt := none, armed := [] }

/-- The open agreement of a kind is cancelled: changes that an APPLY has given their boundary stay (R282, R428). -/
def State.agreeCancel (s : State) (k : Nat) : State := s.agreeDrop k fun c => !c.armed

def State.sendApply (s : State) (k : Nat) (n : Int) : State :=
  s.cnsGroup tyApply (leBytes 1 k ++ List.replicate 7 0 ++ ctickBytes n)
def State.sendCancel (s : State) (k : Nat) : State := s.cnsGroup tyCancel (leBytes 1 k ++ List.replicate 7 0)

/-- The leader cancels an agreement. -/
def State.leaderCancel (s : State) (k : Nat) : State :=
  let s := (s.agreeCancel k).sendCancel k
  let a := s.agreement k
  s.setAgreement k { a with sends := a.sends ++ [(none, 2)] }

/-- The leader chooses the boundary once every member has armed. -/
def State.agreeSettle (s : State) (k : Nat) : State :=
  let a := s.agreement k
  if s.cnsLeader && a.armedAt.isSome && (bitList 16 (s.fld CNS_MASK_MEMBERS)).all (fun m => a.armed.contains m) then
    let n := s.ctick + 8
    ((s.agreeApply k n).sendApply k n).setAgreement k
      { armedAt := none, armed := [], applied := a.applied ++ [n], sends := a.sends ++ [(some n, 2)] }
  else s

/-- This member reports a change of the agreement to the leader: armed, or a failed check. -/
def State.agreeReport (s : State) (k : Nat) (ok : Bool) : State :=
  let a := s.agreement k
  let count := ((s.agreedChanges k).filter fun c => !c.armed).length
  if s.cnsLeader then
    if ok then (s.setAgreement k { a with armedAt := a.armedAt <|> some s.tick, armed := insertNat 0 a.armed }).agreeSettle k
    else s.leaderCancel k
  else
    let s := if ok then s.setAgreement k { a with armedAt := a.armedAt <|> some s.tick } else s
    s.cnsTo tyArm 0 (leBytes 1 k ++ leBytes 1 (b2n !ok) ++ leBytes 2 count ++ leBytes 4 0)

/-- Stages the change of a host command. -/
def State.submit (s : State) (c : HostCmd) (k : ChangeKind) (target : Nat) (agreed : Option Nat) : State :=
  let s := s.addChange { kind := k, target := max target (s.tick + 1), cmd := some c.id, armed := agreed.isNone,
                         agreed := agreed, ctick := none }
  match agreed with
  | none => s
  | some a => s.agreeReport a true

/-! ### CANCEL (R398) -/

/-- The staged change that a CANCEL of an opcode names. -/
def cancelNames (op : Nat) (b : Bytes) (k : ChangeKind) : Bool :=
  match k with
  | .start n => op == opStartService && n == u8 b 8
  | .stop n => op == opStopService && n == u8 b 8
  | .bind n _ => op == opBindModel && n == u8 b 8
  | .swap n _ => op == opModelSwap && n == u8 b 8
  | .config _ => op == opConfigEpoch
  | .activate n => op == opFwActivate && fwKind n == u8 b 8
  | _ => false

def State.cancelWork (s : State) (c : HostCmd) : State :=
  let l := s.staged.filter fun d => d.cmd.isSome && cancelNames c.opcode c.bytes d.kind
  if l.isEmpty then s.finish c.id stNotPending 0 0
  else ((s.setsOf l).foldl (fun s d => s.withdraw d stCancelled) s).finish c.id stOk 0 0

/-- A staging command with CANCEL set. -/
def execCancel (s : State) : Host.Outcome State Fault Refusal :=
  act s fun s =>
    if s.schUp then
      match s.hif.accepted.find? fun c => c.cancels && stages c.opcode && !c.started && c.result = none with
      | none => s
      | some c => (s.begin c.id).cancelWork c
    else s

end Sys2Proof.Machine
end

