-- ==== Sys2Proof/Machine/Admit.lean ====
section
/-! DEFINITION. Admission of a service: what services and soundpost reservations hold (R39, R40, R135, R188, R294, R296,
R361, R369, R373, R461 to R463, R531). -/

namespace Sys2Proof.Machine

/-! ### What a program uses -/

/-- Clusters of a program's tiles. -/
def imgClusters (b : Bytes) : List Nat := (List.range 8).filter fun c => (imgTiles b).any fun t => t / 8 = c

/-- Fixed ranges as byte ranges. -/
def imgFixed (b : Bytes) : List (Nat × Nat) :=
  ((imgMemRanges b).filter fun r => !r.pool).map fun r => (r.base, r.base + r.size)

/-- Intake SRAM that a program's snapshot buffers take (R369). -/
def snapCost (b : Bytes) : Nat :=
  (imgSnaps b).foldl (fun n e => n + (if kindIsInput (snapKind e) then 3 else 2) * snapBytes e) 0

/-- Tiles that the hops of a program's routes leave. -/
def imgHops (b : Bytes) : List Nat :=
  (imgEnvList b).flatMap fun e => (imgSlotTable b e).flatMap fun x => (route x.src x.dst).map (·.1)

/-- First slot number of an LPDDR entry, and how many slots it takes. -/
def LSlot.firstSlot (x : LSlot) (e : Nat) : Nat := x.first / slotCycles e
def LSlot.slots (x : LSlot) : Nat := x.count * (if x.write then 2 else 1)
/-- Phases k mod 16 of the slots that an entry takes (R461). -/
def LSlot.phases (x : LSlot) (e : Nat) : List Nat :=
  (List.range (min 16 x.slots)).map fun i => (x.firstSlot e + i) % 16
/-- Two entries of an envelope share a slot. -/
def LSlot.meets (x y : LSlot) (e : Nat) : Bool := x.ch == y.ch && decide (x.first < y.stop e) && decide (y.first < x.stop e)

/-- Channel and phases of every LPDDR entry. -/
def imgPhases (b : Bytes) : List (Nat × List Nat) :=
  (imgEnvList b).flatMap fun e => (imgLSlots b e).map fun x => (x.ch, x.phases e)

/-- Egress profiles of the event outputs. -/
def imgProfiles (b : Bytes) : List Nat := ((imgSnaps b).filter fun e => snapKind e = kindEvents).map snapSource

/-- Byte ranges of two lists meet. -/
def rangesMeet (a b : List (Nat × Nat)) : Bool := a.any fun x => b.any fun y => overlap x.1 x.2 y.1 y.2

/-- Two programs need a resource in common (R40, R135, R188, R294, R296). -/
def imagesMeet (a b : Bytes) : Bool :=
  imgTileMask a &&& imgTileMask b != 0 || imgBarriers a &&& imgBarriers b != 0 ||
    (List.range 8).any (fun c => imgSegments a c &&& imgSegments b c != 0) ||
    (imgEnvList a).any (fun e => imgHasEnv b e &&
      ((imgSlotTable a e).any (fun x => (imgSlotTable b e).any x.clash) ||
        (imgLSlots a e).any fun x => (imgLSlots b e).any fun y => x.meets y e)) ||
    rangesMeet (imgFixed a) (imgFixed b)

/-! ### Soundpost reservations (R461 to R463) -/

/-- A reservation as the registers hold it. -/
structure Resv where
  valid : Bool
  service : Nat
  tiles : Nat
  cs : Nat
  networks : Nat
  base : Nat
  frames : Nat
  channels : Nat
  phases : Nat
  egr : Nat
  digest : Bytes
  deriving DecidableEq, Repr

def State.resv (s : State) (k : Nat) : Resv :=
  { valid := s.bit (SPP_RES_CTL_VALID.bank k), service := s.fld (SPP_RES_CTL_SERVICE.bank k),
    tiles := s.fld (SPP_RES_TILES_TILES.bank k), cs := s.fld (SPP_RES_CS_CS.bank k),
    networks := s.fld (SPP_RES_CTL_NETWORKS.bank k), base := s.fld (SPP_RES_T3_BASE.bank k),
    frames := s.fld (SPP_RES_T3_FRAMES.bank k), channels := s.fld (SPP_RES_LPDDR_CHANNELS.bank k),
    phases := s.fld (SPP_RES_LPDDR_PHASES.bank k), egr := s.fld (SPP_RES_EGR_EGR.bank k),
    digest := (List.range 8).flatMap fun i => leBytes 4 (s.fld ((SPP_RES_DIGEST_DATA.bank k).at (4 * i))) }

/-- The valid reservations. -/
def State.resvs (s : State) : List Resv := ((List.range 8).map s.resv).filter (·.valid)

def Resv.window (r : Resv) : Nat × Nat := (r.base * frameBytes, (r.base + r.frames) * frameBytes)
/-- Clusters that contain a tile of the mask. -/
def Resv.clusters (r : Resv) : List Nat := (List.range 8).filter fun c => r.tiles / 2 ^ (8 * c) % 256 != 0

/-- A program keeps inside a reservation (R462). -/
def Resv.admits (r : Resv) (b : Bytes) : Bool :=
  imgTileMask b &&& r.tiles == imgTileMask b && imgBarriers b &&& r.networks == imgBarriers b &&
    (allZero r.digest || r.digest == sha512_256 b) && (imgHops b).all r.tiles.testBit &&
    (imgPhases b).all (fun x => r.channels.testBit x.1 && x.2.all r.phases.testBit) &&
    (imgFixed b).all (fun x => decide (r.window.1 ≤ x.1) && decide (x.2 ≤ r.window.2)) &&
    (imgClusters b).all (fun c => imgSegments b c &&& r.cs == imgSegments b c) && (imgProfiles b).all r.egr.testBit

/-- A program of class B or C meets a reservation (R463). -/
def Resv.meets (r : Resv) (b : Bytes) : Bool :=
  imgTileMask b &&& r.tiles != 0 || imgBarriers b &&& r.networks != 0 || (imgHops b).any r.tiles.testBit ||
    (imgPhases b).any (fun x => r.channels.testBit x.1 && x.2.any r.phases.testBit) ||
    rangesMeet (imgFixed b) [r.window] ||
    (imgClusters b).any (fun c => r.clusters.contains c && imgSegments b c &&& r.cs != 0) ||
    (imgProfiles b).any r.egr.testBit

/-- A class A program has its reservation (R399, R462). -/
def State.soundpostOk (s : State) (n : Nat) (b : Bytes) : Bool :=
  s.sppOn && s.resvs.any fun r => r.service = n && r.admits b

/-! ### Admission (R39, R40) -/

/-- Programs of the services that hold tiles. -/
def State.heldImages (s : State) : List Bytes := (s.services.filter fun e => e.2.phase.holds).map fun e => e.2.image

/-- The video region (R361). -/
def State.vidRegion (s : State) : Nat × Nat :=
  (s.fld VID_MEM_BASE_FRAME * frameBytes, (s.fld VID_MEM_BASE_FRAME + s.fld VID_MEM_SIZE_FRAMES) * frameBytes)

/-- The whole video region lies in usable T3; a burst to any other address is an address fault (R288, R361; log 249). -/
def State.vidUsable (s : State) : Bool := s.inUsable s.vidRegion.1 (s.vidRegion.2 - s.vidRegion.1)

/-- Intake SRAM for snapshot buffers. -/
def snapSram : Nat := 0x500000
/-- What the services that hold tiles leave of it (R369). -/
def State.snapFree (s : State) : Nat := snapSram - s.heldImages.foldl (fun n b => n + snapCost b) 0

/-- The encoder of each overlay output names this service and a stream that one of its camera inputs uses (R373). -/
def State.overlaysOk (s : State) (n : Nat) (b : Bytes) : Bool :=
  (imgSnaps b).all fun e => snapKind e != kindOverlay ||
    (s.fld (VID_ENC_CTL_SERVICE.bank (snapSource e)) == n &&
      (imgSnaps b).any fun i => snapKind i = kindCamera && snapSource i = s.fld (VID_ENC_CTL_STREAM.bank (snapSource e)))

/-- A program passes the check of R39 at the period in force, and one of class A, which no rule suspends, at the requested period
too (DESIGN CHOICE, log 197). -/
def State.periodMeets (s : State) (b : Bytes) : Bool :=
  fitsAt b s.env (s.fld TCK_PERIOD_ACT_PERIOD_US) && (imgClass b != clA || fitsAt b s.env (s.fld TCK_PERIOD_PERIOD_US))

/-- A service passes admission beside the programs listed. -/
def State.admits (s : State) (n : Nat) (b : Bytes) (others : List Bytes) (sram : Nat) : Bool :=
  s.periodMeets b && (imgTiles b).all (fun t => s.tileState t == tsFree) &&
    others.all (fun o => !imagesMeet b o) && !rangesMeet (imgFixed b) [(s.progLo, s.progHi), s.vidRegion] &&
    decide (snapCost b ≤ sram) && s.overlaysOk n b && (imgClass b == clA || !s.resvs.any fun r => r.meets b)

/-! ### Consort plans (R418) -/

/-- A program has a snapshot of the Worham link, or a leaf that another member supplies. -/
def imgWorham (b : Bytes) : Bool :=
  (imgSnaps b).any (fun e => snapKind e = kindTensorIn || snapKind e = kindTensorOut) ||
    (imgEnvList b).any fun e => ((imgTrees b e).getD []).any fun t => t.leaves.any fun f => u8 f 4 = 0xFF

/-- A service names a partner directly: CNS_PLAN gives it to a consort service. -/
def State.isPartner (s : State) (n : Nat) : Bool := (List.range 64).any fun k => s.partner k = some n

/-- The checks of R418 on a program of service n. -/
def State.planOk (s : State) (n : Nat) (b : Bytes) : Bool :=
  (!imgWorham b || s.isConsort n) &&
    match (if (s.planByte n).testBit 6 then some (s.planByte n % 64) else none) with
    | none => true
    | some p =>
      let v := s.svc p
      p != n && v.phase == .loaded && v.cls == imgClass b && !s.isConsort p && !imgWorham v.image

end Sys2Proof.Machine
end

