-- ==== Sys2Proof/Machine/Scrub.lean ====
section
/-! DEFINITION. The fill engine and scrub (R317, R320, R321). -/

namespace Sys2Proof.Machine

/-! ### FILL (R317) -/

/-- A byte range meets a range, in T3, of a service in a phase that meets a test. -/
def State.rangeHeld (s : State) (p : SvcPhase → Bool) (lo hi : Nat) : Bool :=
  s.services.any fun e => p e.2.phase &&
    ((imgMemRanges e.2.image).any (fun r => !r.pool && overlap lo hi r.base (r.base + r.size)) ||
      (s.poolOf e.1).any fun r => r.frames.any fun f => overlap lo hi (f * frameBytes) ((f + 1) * frameBytes))

/-- A byte range meets a range of a service that holds its tiles. -/
def State.serviceRange (s : State) (lo hi : Nat) : Bool := s.rangeHeld SvcPhase.holds lo hi

/-- The coded blocks that bytes [a, a + n) touch are open from now on (R341). -/
def State.openBlocks (s : State) (a n : Nat) : State :=
  if n = 0 then s
  else (List.range ((a + n + 511) / 512 - a / 512)).foldl (fun s k => s.setOpen (512 * (a / 512 + k)) true) s

def State.fillWork (s : State) (c : HostCmd) : State :=
  let a := leNat (slice c.bytes 16 5)
  let n := u64 c.bytes 24
  let p := sliceZ c.bytes 32 4
  if a % 256 != 0 || n % 256 != 0 || !s.inUsable a n then s.finish c.id stBadField 0 0
  else if s.serviceRange a (a + n) then s.finish c.id stRangeBusy 0 0
  else
    let word := MWord.mk (BitVec.ofNat 128 (leNat (p ++ p ++ p ++ p))) false
    ((s.memWrite a (List.replicate (n / 16) word)).openBlocks a n).finish c.id stOk 0 0

def execFill (s : State) : Host.Outcome State Fault Refusal := act s fun s => s.withCmd opFill State.fillWork

/-! ### SCRUB (R320) -/

/-- What a scrub has found so far (R321). -/
structure ScrubSum where
  maxPage : Nat
  warn : Nat
  ce : Nat
  ue : Nat
  first : Option Nat
  deriving DecidableEq, Repr

def ScrubSum.empty : ScrubSum := { maxPage := 0, warn := 0, ce := 0, ue := 0, first := none }

/-- Adds a page: its corrected bits, corrected words, uncorrectable words and the first of these. -/
def ScrubSum.page (x : ScrubSum) (limit bits ce ue : Nat) (first : Option Nat) : ScrubSum :=
  { maxPage := max x.maxPage bits, warn := x.warn + b2n (decide (limit ≤ bits)), ce := x.ce + ce, ue := x.ue + ue,
    first := x.first <|> first }

/-- The summary record; its counts stop at their largest value. -/
def ScrubSum.toBytes (x : ScrubSum) (tier : Nat) : Bytes :=
  leBytes 1 tier ++ leBytes 1 (b2n (decide (0 < x.ue))) ++ leBytes 2 (min x.maxPage 0xFFFF) ++
    leBytes 4 (min x.warn 0xFFFFFFFF) ++ leBytes 8 (min x.ce (2 ^ 64 - 1)) ++ leBytes 8 (min x.ue (2 ^ 64 - 1)) ++
    leBytes 5 (x.first.getD 0xFFFFFFFFFF) ++ [0, 0, 0]

/-- The tier of a range; none where the range lies in no one tier or reaches an unbacked page of a slab (R2, R209). -/
def State.scrubTier (s : State) (a n : Nat) : Option Nat :=
  if 0x1000000000 ≤ a && a + n ≤ 0x1004000000 then some 0
  else if 0x1040000000 ≤ a && a + n ≤ 0x1042000000 then some 1
  else if 0x2000000000 ≤ a && a + n ≤ 0x2800000000 &&
      (s.slabPages * 4096 == 0x20000000 || decide (a % 0x20000000 + n ≤ s.slabPages * 4096)) then some 2
  else if s.inUsable a n then some 3
  else none

/-- Alignment of START and LENGTH by tier. -/
def scrubAlign (tier : Nat) : Nat := if tier ≤ 1 then 16 else if tier = 2 then 4096 else 256

/-- Word w of an SRAM page: what its code finds; none where its valid bit is clear. -/
def State.scrubPeek (s : State) (tier m w : Nat) : Option KKind :=
  if tier = 0 then (Tab.look (s.tileOf m).store w).map fun c => (c.dec w).1
  else
    let x := s.clusterOf m
    if x.segs.getLsbD (w / 4096) then (Tab.look x.store w).map fun c => (c.dec w).1 else none

/-- Scrubs word w of a tile store or cluster store m. -/
def State.scrubWord (s : State) (tier m w : Nat) (rewrite : Bool) : State × Option KKind :=
  match s.scrubPeek tier m w with
  | none => (s, none)
  | some k =>
    let r := if tier = 0 then s.tileRead m w else s.csRead m w
    let dirty := (r.1.tileOf m).dirty
    let put := fun (s : State) =>
      if tier = 0 then (s.tileWrite m w r.2).modTile m fun x => { x with dirty := dirty } else s.csWrite m w r.2
    (r.1.whenB (rewrite && (k = .corrected || k = .uncorrectable)) put, some k)

/-- Scrubs words [lo, hi) of an SRAM of T0 or T1, 256 words a page. -/
def State.scrubSramPage (s : State) (tier m lo hi : Nat) (rewrite : Bool) (x : ScrubSum) : State × ScrubSum :=
  let base := if tier = 0 then 0x1000000000 + m * 0x100000 else csAddr m 0
  let r := ((List.range (hi - lo)).map (lo + ·)).foldl (fun (p : State × Nat × Nat × Option Nat) w =>
    let q := p.1.scrubWord tier m w rewrite
    match q.2 with
    | some .corrected => (q.1, p.2.1 + 1, p.2.2)
    | some .uncorrectable => (q.1, p.2.1, p.2.2.1 + 1, p.2.2.2 <|> some (base + 16 * w))
    | some .poison => (q.1, p.2.1, p.2.2.1 + 1, p.2.2.2 <|> some (base + 16 * w))
    | _ => (q.1, p.2)) (s, 0, 0, none)
  (r.1, x.page s.memWarn r.2.1 r.2.1 r.2.2.1 r.2.2.2)

/-- Pages of a size that a range touches: (first byte, end) of each part. -/
def partsOf (a n size : Nat) : List (Nat × Nat) :=
  if n = 0 then []
  else (List.range ((a + n + size - 1) / size - a / size)).map fun i =>
    (max a ((a / size + i) * size), min (a + n) ((a / size + i + 1) * size))

def State.scrubSram (s : State) (tier a n : Nat) (rewrite : Bool) : State × ScrubSum :=
  let base := if tier = 0 then 0x1000000000 else 0x1040000000
  let size := if tier = 0 then 0x100000 else 0x400000
  (partsOf (a - base) n 4096).foldl (fun (p : State × ScrubSum) (lo, hi) =>
    p.1.scrubSramPage tier (lo / size) (lo % size / 16) (lo % size / 16 + (hi - lo) / 16) rewrite p.2) (s, .empty)

/-- Scrubs a page of a slab: it is read with every round, and its block may be queued for refresh. What a page that is repaired,
fails or is lost adds to the summary is log 220. -/
def State.scrubNvPage (s : State) (senses : Senses) (a : Nat) (x : ScrubSum) : State × ScrubSum :=
  match s.slabAddr a with
  | none => (s, x)
  | some (slab, page) =>
    let pl := s.place slab page
    match s.mapped slab pl.plane pl.lblock with
    | none => (s, x)
    | some bk =>
      let rounds := sensesOf senses (pageKey bk pl.pg)
      let d := decodePage (s.pageAt bk pl.pg) pl (rounds.headD [])
      let r := s.readFull bk pl.pg pl rounds
      if d.blank then (r.1, x)
      else if d.tagOk && tagKind d.tag = 3 then (r.1, x.page s.nvsWarn d.bits 0 256 (some a))
      else
        match r.2 with
        | some _ =>
          let flips := rounds.headD []
          (r.1, x.page s.nvsWarn d.bits ((List.range 256).filter fun i => flips.any (touchesWord i)).length 0 none)
        | none => (r.1, x.page s.nvsWarn d.bits d.bits (max 1 d.ues.length) (some (a + 16 * d.ues.headD 0)))

def State.scrubNv (s : State) (senses : Senses) (a n : Nat) : State × ScrubSum :=
  (partsOf a n 4096).foldl (fun (p : State × ScrubSum) (lo, _) => p.1.scrubNvPage senses lo p.2) (s, .empty)

/-- Scrubs the line of a part [lo, hi) of LPDDR: the whole line is decoded; the words of the part are counted, and the bits corrected
in them, in their quads' parities and in the line code (R321). -/
def State.scrubLine (s : State) (lo hi : Nat) (rewrite : Bool) (x : ScrubSum) : State × ScrubSum :=
  if !s.inited lo then
    ((s.flag MEM_STATUS_UNINIT_READ).memErr 3 lo, x.page s.memWarn 0 0 ((hi - lo) / 16) (some lo))
  else
    let base := lineBase lo
    let l := readLine s.mem s.compat s.chBytes lo
    let r := repairLine l s.compat
    let d := r.1
    let y := l.corrected s.compat r
    let par := (decodeLine l).2
    let words := ((List.range 128).zip (d.zip l.words)).filter fun e =>
      lo ≤ base + 16 * e.1 && base + 16 * e.1 < hi
    let quads := ((List.range 32).zip par).filter fun e => e.2 && lo ≤ base + 64 * e.1 && base + 64 * e.1 < hi
    let ce := words.filter fun e => e.2.1.1 = .corrected
    let ue := words.filter fun e => e.2.1.1 = .uncorrectable || e.2.1.1 = .poison
    let new := ue.filter fun e => e.2.1.1 = .uncorrectable && !s.mem.found.contains (base / 16 + e.1)
    let s := (List.replicate (ce.length + quads.length) ()).foldl (fun s _ => s.noteLpddr base .corrected) s
    let s := new.foldl (fun (s : State) e =>
      ((s.count MEM_UE_COUNT_COUNT 1).flag MEM_STATUS_UE).memErr 0 (base + 16 * e.1)) s
    let s := s.setMem { s.mem with found := new.foldl (fun l e => insertNat (base / 16 + e.1) l) s.mem.found }
    let bits := ce.foldl (fun n e => n + l.wordBits y e.1) (quads.length + l.codeBits y)
    let dirty := par.any id || l.codeBits y != 0 || d.any fun e => e.1 = .corrected || e.1 = .uncorrectable
    (s.whenB (rewrite && dirty) fun s => s.repairAt base,
      x.page s.memWarn bits (ce.length + quads.length) ue.length (ue.head?.map fun e => base + 16 * e.1))

def State.scrubMem (s : State) (a n : Nat) (rewrite : Bool) : State × ScrubSum :=
  (partsOf a n 2048).foldl (fun (p : State × ScrubSum) (lo, hi) => p.1.scrubLine lo hi rewrite p.2) (s, .empty)

/-- A tile of a T0 range is not FREE. -/
def State.scrubBusy (s : State) (a n : Nat) : Bool :=
  (partsOf (a - 0x1000000000) n 0x100000).any fun (lo, _) => s.tileState (lo / 0x100000) != tsFree

def State.scrubWork (s : State) (senses : Senses) (dmaOk : Bool) (c : HostCmd) : State :=
  let a := leNat (slice c.bytes 16 5)
  let n := u64 c.bytes 24
  let summary := u64 c.bytes 32
  let rewrite := (u8 c.bytes 10).testBit 0
  match s.scrubTier a n with
  | none => s.finish c.id stBadField 0 0
  | some tier =>
    if a % scrubAlign tier != 0 || n % scrubAlign tier != 0 || (c.fromList && summary != 0) then s.finish c.id stBadField 0 0
    else if tier = 0 && s.scrubBusy a n then s.finish c.id stRangeBusy 0 0
    else
      let r := if tier = 2 then s.scrubNv senses a n else if tier = 3 then s.scrubMem a n rewrite
        else s.scrubSram tier a n rewrite
      let info := r.2.ue % 2 ^ 48
      if summary = 0 then r.1.finish c.id stOk 0 info
      else if dmaOk then (r.1.dma summary (r.2.toBytes tier)).finish c.id stOk 0 info
      else r.1.finish c.id stHostDma 0 info

/-- SCRUB: the work is done whole at its row. `senses` are what page senses read wrongly; `dmaOk` false is a failed write
of the summary record. -/
def execScrub (senses : Senses) (dmaOk : Bool) (s : State) : Host.Outcome State Fault Refusal :=
  act s fun s => s.withCmd opScrub fun s c => s.scrubWork senses dmaOk c

end Sys2Proof.Machine
end

