-- ==== Sys2Proof/Machine/Weights.lean ====
section
/-! DEFINITION. Weight images and model slots: NV_ERASE, NV_PROGRAM, BIND_MODEL and MODEL_SWAP (R251 to R284). -/

namespace Sys2Proof.Machine

/-! ### Where a command is performed (R283, R434) -/

/-- TARGET_MEMBER names a member that this device cannot make perform the command. -/
def State.badMember (s : State) (c : HostCmd) : Bool := s.chained c && (!s.cnsLeader || 15 < c.member)

/-- A chained command whose target has a session open waits until that ends. -/
def State.chainWaits (s : State) (c : HostCmd) : Bool :=
  s.chained c && !s.badMember c && (s.fld CNS_MASK_KNOWN).testBit c.member && s.chainBusy c.member

/-- Runs the earliest NV_PROGRAM or NV_ERASE that need not wait: both wait while the start-up scan runs (R270). -/
def State.withNv (s : State) (op : Nat) (f : State → HostCmd → State) : State :=
  if !s.schUp || s.nvPhase = nvScanning || (s.secQuiet && needsSec op) then s
  else
    match s.hif.accepted.find? fun c =>
        c.opcode = op && !c.started && c.result = none && !c.cancels && !s.chainWaits c && !s.dmaWaits c with
    | none => s
    | some c => f (s.begin c.id) c

/-- Opens the session of a chained command, or completes it with CHAIN_LOST. -/
def State.chainStart (s : State) (c : HostCmd) (data : Bytes) : State :=
  if (s.fld CNS_MASK_KNOWN).testBit c.member then s.chainOpen c data
  else (s.flag CNS_STATUS_CHAIN_ERR).finish c.id stChainLost 0 (nvInfo noSlab noSector c.member)

/-! ### NV_ERASE (R262, R263, R270) -/

/-- Logical blocks of an extent: (slab × 4 + plane, logical block). -/
def State.extentBlocks (s : State) (first stripes : Nat) (mask : BitVec 64) : List (Nat × Nat) :=
  (bitList 64 mask.toNat).flatMap fun slab => (List.range s.np).flatMap fun plane =>
    (List.range stripes).map fun k => (slab * 4 + plane, first + k)

/-- Two extents share a stripe of a slab. -/
def extentsMeet (f1 n1 : Nat) (m1 : BitVec 64) (f2 n2 : Nat) (m2 : BitVec 64) : Bool :=
  m1 &&& m2 != 0 && decide (f1 < f2 + n2) && decide (f2 < f1 + n1)

/-- An extent meets that of another slot, or one that an erase at work gives it. -/
def State.meetsSlot (s : State) (except_ : Nat) (first stripes : Nat) (mask : BitVec 64) : Bool :=
  ((List.range 16).any fun n =>
    let v := s.slotOf n
    n != except_ && extentsMeet first stripes mask v.firstStripe v.stripes v.slabMask) ||
  s.nv.erases.any fun e => e.slot != some except_ &&
    (e.extent.any fun x => extentsMeet first stripes mask x.1 x.2.1 x.2.2)

/-- A service holds a program loaded from an execute-only slot (R399). -/
def State.xoHeld (s : State) (n : Nat) : Bool := s.services.any fun e => e.2.xoSlot = some n && e.2.phase != .none

/-- A slot state that accepts NV_ERASE (R252, R269). -/
def State.erasable (s : State) (n : Nat) (define_ : Bool) : Bool :=
  let st := (s.slotOf n).state
  (st = slUndefined && define_) || st = slEmpty || st = slProgramming || st = slInterrupted || st = slInvalid ||
    st = slValid || (st = slXo && !s.xoHeld n)

/-- Ends the program at work on a slot with ABORTED (R270). -/
def State.abortProgram (s : State) (n : Nat) : State :=
  match s.nv.programs.find? fun p => p.slot = n with
  | none => s
  | some p =>
    (s.setNv { s.nv with programs := s.nv.programs.filter fun q => q.slot != n
                         copies := s.nv.copies.filter fun c => c.slot != some n }).finishNv p.cmd stAborted noSlab noSector

/-- What an erase of a slot acts on: the blocks of the old extent, and after them those that a Define adds (R262). -/
def State.eraseLists (s : State) (v : Slot) (first stripes : Nat) (mask : BitVec 64) : List (Nat × Nat) × List (Nat × Nat) :=
  (s.extentBlocks v.firstStripe v.stripes v.slabMask, if 1 ≤ stripes then s.extentBlocks first stripes mask else [])

/-- Performs an NV_ERASE on this device for a command or a chained session. -/
def State.eraseStart (s : State) (cmd : Nat) (b : Bytes) : State :=
  let n := u8 b 8
  let release := (u8 b 10).testBit 0
  let first := u16 b 12
  let stripes := u16 b 14
  let mask := BitVec.ofNat 64 (u64 b 16)
  let fail := fun (st : Nat) => s.finishNv cmd st noSlab noSector
  if !(n < 16 || (n = 0xFF && 1 ≤ stripes)) then fail stBadField
  else if s.nvPhase = nvFault then fail stNvFault
  else if n = 0xFF then
    if 256 < first + stripes || s.meetsSlot 16 first stripes mask then fail stOverlap
    else
      let l := s.extentBlocks first stripes mask
      let s := l.foldl (fun s e => s.cancelRefresh e.1 e.2) s
      (s.setNv { s.nv with
        erases := s.nv.erases ++
          [{ cmd := cmd, slot := none, blocks := l, later := [], covers := l, slabs := mask, extent := none, failed := false }] }).settleErases
  else if !s.erasable n (1 ≤ stripes) then fail stSlotState
  else if 1 ≤ stripes && (256 < first + stripes || s.meetsSlot n first stripes mask) then fail stOverlap
  else
    let v := s.slotOf n
    let l := s.eraseLists v first stripes mask
    let extent := if 1 ≤ stripes then some (first, stripes, mask)
      else if release then none else some (v.firstStripe, v.stripes, v.slabMask)
    let s := (s.abortProgram n).modSlot n fun v => { v with state := slErasing, lastOp := 2 }
    let s := (l.1 ++ l.2).foldl (fun s e => s.cancelRefresh e.1 e.2) s
    (s.setNv { s.nv with
      erases := s.nv.erases ++ [{ cmd := cmd, slot := some n, blocks := l.1, later := l.2, covers := l.1 ++ l.2, slabs := v.slabMask ||| mask,
                                  extent := extent, failed := false }] }).settleErases

def execNvErase (s : State) : Host.Outcome State Fault Refusal :=
  act s fun s => s.withNv opNvErase fun s c =>
    if s.badMember c then s.finish c.id stBadField 0 (nvInfo noSlab noSector thisDevice)
    else if s.chained c then s.chainStart c []
    else s.eraseStart c.id c.bytes

/-! ### NV_PROGRAM (R255 to R270) -/

/-- Places of the manifest, the key block and the payload in an image. -/
def imManifest (h : Bytes) : Bytes := sliceZ h (u32 h 32) (u32 h 36)
def imKeyBlock (h : Bytes) : Bytes := sliceZ h (u32 h 40) 160
def imPayload (h : Bytes) : Nat := u64 h 48

/-- Header fields that R255 fixes, of an image of a length. -/
def headerOk (h : Bytes) (length : Nat) : Bool :=
  let mo := u32 h 32
  let mb := u32 h 36
  let ko := u32 h 40
  slice h 0 4 == ascii "KWIG" && u16 h 4 == 1 && allZero (slice h 6 2) && u64 h 8 == length && mo % 16 == 0 &&
    decide (128 ≤ mo) && ko % 16 == 0 && decide (128 ≤ ko) && u32 h 44 == 160 && imPayload h % 4096 == 0 &&
    allZero (slice h 64 64) && (decide (mo + mb ≤ ko) || decide (ko + 160 ≤ mo)) && decide (mo + mb ≤ imPayload h) &&
    decide (ko + 160 ≤ imPayload h) && imPayload h + u64 h 56 == length && decide (192 ≤ mb) && decide (imPayload h ≤ h.length)

/-- The manifest's head and entries are in order (R256). -/
def manifestOk (m : Bytes) : Bool :=
  let n := manSlabs m
  let es := List.range n
  slice m 0 4 == ascii "KWMF" && u16 m 4 == 1 && decide (u8 m 6 < 2) && decide (1 ≤ n) && decide (n ≤ 64) &&
    m.length == 192 + 80 * n &&
    (es.all fun i => decide (manSlab m i < 64) && allZero (slice m (129 + 80 * i) 3) && allZero (slice m (136 + 80 * i) 8) &&
      decide (1 ≤ manSectors m i) && decide (manSectors m i ≤ 131072) &&
      (i == 0 || decide (manSlab m (i - 1) < manSlab m i)))

/-- Header and manifest agree (R255). -/
def imageAgrees (h m : Bytes) : Bool :=
  slice h 16 16 == slice m 16 16 && u64 h 56 == 4096 * (manEntries m).foldl (fun n e => n + e.2) 0

/-- Every entry fits the slot (R261). -/
def State.imageFits (s : State) (v : Slot) (m : Bytes) : Bool :=
  (manEntries m).all fun e => v.slabMask.getLsbD e.1 && decide (e.2 ≤ v.stripes * 128 * s.np)

/-- Step 2 of R265: the image key, or the status of the check that fails and whether SEC records it. -/
def State.checkImage (s : State) (v : Slot) (h : Bytes) (length : Nat) : Nat × Bool × Bytes :=
  let m := imManifest h
  if !headerOk h length || !manifestOk m then (stBadImage, false, [])
  else
    let role := if manXo m then roleXo else roleModel
    let n := 128 + 80 * manSlabs m
    if !s.verifies role (slice m 8 8) (m.take n) (slice m n 64) then (stBadSignature, true, [])
    else if sha512 ((List.range (manSlabs m)).flatMap (manDigest m)) != slice m 64 64 then (stBadImage, true, [])
    else if !imageAgrees h m then (stBadImage, false, [])
    else if !s.imageFits v m then (stFit, false, [])
    else
      match unwrapKey (imKeyBlock h) (slice h 16 16) with
      | none => (stKeyFail, true, [])
      | some key => (stOk, false, key)

/-- Starts a program whose image passes: the slot record is written, and a resumed one erases what is not done (R265,
R269). -/
def State.programRun (s : State) (cmd n source address : Nat) (h key : Bytes) (resume : Bool) : State :=
  let m := imManifest h
  let v := s.slotOf n
  let done : BitVec 64 := if resume then v.slabsDone else 0
  let s := s.setSlot n { v with state := slProgramming, lastOp := 1, imageId := slice m 16 16, slabsDone := done,
                                manifest := m, epochDigest := [] }
  let todo := (manEntries m).filter fun e => !done.getLsbD e.1
  let erase := if resume then
      s.extentBlocks v.firstStripe v.stripes (BitVec.ofNat 64 (ofBits (todo.map (·.1))))
    else []
  let p : NvProgram := { cmd := cmd, slot := n, source := source, address := address, key := key,
                         payload := imPayload h, next := 0, erase := s.stillErase erase, resume := resume,
                         relocated := false, streamed := [] }
  let s := s.setNv { s.nv with programs := s.nv.programs ++ [p] }
  let s := erase.foldl (fun s e => s.cancelRefresh e.1 e.2) s
  s.programEnd p

/-- Performs steps 1 to 3 of an NV_PROGRAM on this device; `h` are the image's bytes from its start. -/
def State.programStart (s : State) (cmd n source address length : Nat) (h : Bytes) (resume : Bool) : State :=
  let fail := fun (s : State) (st : Nat) => s.finishNv cmd st noSlab noSector
  let v := s.slotOf n
  if s.nvPhase = nvFault then fail s stNvFault
  else if !(v.state = slEmpty || (v.state = slInterrupted && resume && v.lastOp = 1 && slice h 16 16 == v.imageId)) then
    fail s stSlotState
  else if !s.secUp then fail s stSecUnavailable
  else
    let r := s.checkImage v h length
    if r.1 != stOk then fail (s.whenB r.2.1 State.verifyFail) r.1
    else s.programRun cmd n source address h r.2.2 resume

/-- The first bytes of an image in LPDDR: its header, and all that lies before the payload. -/
def State.imageHead (s : State) (a length : Nat) : State × Bytes :=
  let r := s.memBytes a (min 128 length)
  let q := r.1.memBytes a (min (imPayload r.2.1) length)
  (q.1, q.2.1)

/-- The source of the image as the command names it: none for a failed DMA. -/
def State.imageSource (s : State) (c : HostCmd) (head : Option Bytes) (whole : Bool) : State × Option Bytes :=
  let a := u64 c.bytes 16
  let n := u64 c.bytes 24
  if u8 c.bytes 9 = 0 then (s, head)
  else if whole then
    let r := s.memBytes a n
    (r.1, some r.2.1)
  else
    let r := s.imageHead a n
    (r.1, some r.2)

def State.nvProgramWork (s : State) (head : Option Bytes) (c : HostCmd) : State :=
  let n := u8 c.bytes 8
  let source := u8 c.bytes 9
  let a := u64 c.bytes 16
  let len := u64 c.bytes 24
  let fail := fun (s : State) (st : Nat) => s.finish c.id st 0 (nvInfo noSlab noSector thisDevice)
  if 16 ≤ n || 1 < source || (source = 1 && !s.inUsable a len) || s.badMember c then fail s stBadField
  else
    let far := s.chained c
    let r := s.imageSource c head far
    match r.2 with
    | none => fail r.1 stHostDma
    | some h =>
      if far then r.1.chainStart c (h.take len)
      else r.1.programStart c.id n source a len h ((u8 c.bytes 10).testBit 0)

/-- NV_PROGRAM: `head` is what reads of the source return from its start, at least to the payload; the whole image where
the command is chained to another member. -/
def execNvProgram (head : Option Bytes) (s : State) : Host.Outcome State Fault Refusal :=
  act s fun s => s.withNv opNvProgram fun s c => s.nvProgramWork head c

/-! ### Binding (R271, R272, R274) -/

/-- The slot holds all that the program's FILLs read. -/
def State.shapeOk (s : State) (n : Nat) (img : Bytes) : Bool :=
  let v := s.slotOf n
  (imgEnvList img).all fun e => (imgTiles img).all fun t => (imgFills img e t).all fun f =>
    v.slabMask.getLsbD t &&
      (manEntry v.manifest t).any fun i => decide (f.offset + f.length ≤ 4096 * manSectors v.manifest i)

/-- The checks that a binding change of a slot passes; the status of the one that fails (log 21). -/
def State.bindCheck (s : State) (n : Nat) (img : Bytes) : Nat :=
  let st := (s.slotOf n).state
  if st != slValid && st != slBound then stSlotState else if s.shapeOk n img then stOk else stShape

/-- A binding change: `ok` is the status that its own checks give. -/
def State.bindWork (s : State) (c : HostCmd) (k : ChangeKind) (target st : Nat) (slot : Option Nat) : State :=
  let consort := (u8 c.bytes 10).testBit 0
  if st = stBadField then s.finish c.id st 0 0
  else if s.inEpoch && !consort then s.finish c.id stConsortActive 0 0
  else if !s.inEpoch && consort then s.finish c.id stConsortCancelled 0 0
  else
    let agreed := if consort then some agBind else none
    if st != stOk then (s.whenB consort fun s => s.agreeReport agBind false).finish c.id st 0 0
    else if s.duplicate k target agreed then s.finish c.id stDuplicate 0 0
    else
      let s := match slot with
        | some n => s.bindUp n
        | none => s
      s.submit c k target agreed

def State.bindModel (s : State) (c : HostCmd) : State :=
  let n := u8 c.bytes 8
  let sl := u8 c.bytes 9
  let v := s.svc n
  let slot := if sl = 0xFF then none else some sl
  let st := if 64 ≤ n || (16 ≤ sl && sl != 0xFF) then stBadField
    else if v.phase != .loaded then stServiceState
    else if sl = 0xFF then stOk else s.bindCheck sl v.image
  s.bindWork c (.bind n slot) 0 st slot

def execBindModel (s : State) : Host.Outcome State Fault Refusal := act s fun s => s.withCmd opBindModel State.bindModel

def State.modelSwap (s : State) (c : HostCmd) : State :=
  let n := u8 c.bytes 8
  let sl := u8 c.bytes 9
  let v := s.svc n
  let st := if 64 ≤ n || 16 ≤ sl then stBadField
    else if !v.phase.admitted || v.slot.isNone then stServiceState
    else s.bindCheck sl v.image
  s.bindWork c (.swap n sl) (u64 c.bytes 16) st (some sl)

def execModelSwap (s : State) : Host.Outcome State Fault Refusal := act s fun s => s.withCmd opModelSwap State.modelSwap

/-- An NVS operation in progress meets a slab-read or carry window that a program has with a slot bound, in the tick of the
present boundary or the next (R223, R274): an operation lasts T_max from its start, an erase after its INTENT. -/
def State.nvMeets (s : State) (img : Bytes) (slot : Nat) : Bool :=
  let ops := s.nv.ops.map fun o => (o.block, o.start + programSpan)
  let batch := s.liveBatch.elim [] fun b => b.entries.map fun e => (e.1, b.start + programSpan + eraseSpan)
  (ops ++ batch).any fun (bk, stop) =>
    [s.boundaryAt, max s.nextEarliest (s.boundaryAt + 1)].any fun base =>
      s.slotMeets img slot (keySlab bk) (s.bankNo bk) s.now stop base

/-- A binding change takes effect (R271, R275, R279). -/
def State.applyBind (s : State) (svc : Nat) (slot : Option Nat) : State :=
  let old := (s.svc svc).slot
  let s := match old with
    | some n => s.bindDown n
    | none => s
  s.modSvc svc fun v => { v with slot := slot, refill := true }

end Sys2Proof.Machine
end

