-- ==== Sys2Proof/Machine/Services.lean ====
section
/-! DEFINITION. LOAD_PROGRAM, START_SERVICE, STOP_SERVICE, SUBMIT_INPUT, QUERY and CONFIG_EPOCH, and what makes a start
fully staged (R22 to R33, R121, R133, R271, R297, R397 to R402, R418). -/

namespace Sys2Proof.Machine

/-! ### LOAD_PROGRAM (R399) -/

/-- The first n bytes of a slab's pages from a slot's base, as SCH fetches an execute-only image (R247); none where a page
holds no execute-only data. Each page is sensed once (R221). -/
def State.xoBytes (s : State) (slot n : Nat) : State × Option Bytes :=
  let slab := manSlab (s.slotOf slot).manifest 0
  let r := s.reads (fun s k =>
    let pl := s.place slab (s.sectorPage slot k)
    match s.mapped slab pl.plane pl.lblock with
    | none => (s, none)
    | some bk =>
      let x := decodePage (s.pageAt bk pl.pg) pl []
      (s.sense bk 1, if x.fine && tagKind x.tag = 2 then some (x.words.flatMap bytes128) else none))
    (List.range ((n + 4095) / 4096))
  (r.1, if r.2.all Option.isSome then some ((r.2.flatMap fun o => o.getD []).take n) else none)

/-- The image that LOAD_PROGRAM names. -/
def State.programSource (s : State) (b : Bytes) (data : Option Bytes) : State × Option Bytes :=
  let n := u32 b 24
  if u8 b 9 = 0 then (s, data.map fun d => sliceZ d 0 n)
  else if u8 b 9 = 1 then
    let r := s.memBytes (u64 b 16) n
    (r.1, some r.2.1)
  else s.xoBytes (u8 b 10) n

/-- Places in the program area that hold images of other services: first byte and end. -/
def State.heldPlaces (s : State) (n : Nat) : List (Nat × Nat) :=
  s.services.filterMap fun e => if e.1 = n then none else e.2.imageAt.map fun a => (a, a + e.2.image.length)

/-- Where LOAD_PROGRAM copies an image of a length: the lowest place of the program area, in steps of 256 bytes, that no other
service's image meets (DESIGN CHOICE, log 230). -/
def State.programPlace (s : State) (n length : Nat) : Option Nat :=
  let held := s.heldPlaces n
  let free := (s.progLo :: held.map fun e => (e.2 + 255) / 256 * 256).filter fun a =>
    decide (a + length ≤ s.progHi) && held.all fun e => decide (a + length ≤ e.1) || decide (e.2 ≤ a)
  free.foldl (fun o a => some (o.elim a (min a))) none

/-- The starting record of HIST_ADDR 0. -/
def defaultHist (b : Bytes) : List RangeEntry :=
  (imgRanges b).flatMap fun r => List.replicate r.units
    { obs := List.replicate 8 0, lastSat := 0, fbCount := 0, head := 0, fill := 0, n := r.n, flags := 0 }

/-- LOAD_PROGRAM. The committed history record of a service that is loaded anew is the one that HIST_ADDR 0 stands for (DESIGN CHOICE, log
247). An execute-only image that the fetch path cannot read fails its checks as a bad image does (DEDUCED, log
231). -/
def State.loadWork (s : State) (data : Option Bytes) (c : HostCmd) : State :=
  let b := c.bytes
  let n := u8 b 8
  let src := u8 b 9
  let slot := u8 b 10
  let v := s.svc n
  let fail := fun (s : State) (st detail : Nat) => s.finish c.id st detail 0
  if 64 ≤ n || 2 < src || (src = 2 && 16 ≤ slot) || (src = 1 && !s.inUsable (u64 b 16) (u32 b 24)) then fail s stBadField 0
  else if v.phase != .none && v.phase != .loaded then fail s stServiceState 0
  else if src != 2 && (s.programPlace n (u32 b 24)).isNone then fail s stDeviceState 0
  else if u32 s.cfgDev 28 = 0 || !s.progArea then fail s stDeviceState 0
  else if src = 2 && (s.slotOf slot).state != slXo then fail s stSlotState 0
  else
    let r := s.programSource b data
    match r.2 with
    | none => if src = 2 then fail r.1 stProgramReject 1 else fail r.1 stHostDma 0
    | some img =>
      match loadCode r.1.loadCtx img with
      | some k => fail r.1 stProgramReject k
      | none =>
        let place := if src = 2 then none else r.1.programPlace n (u32 b 24)
        let t := match place with
          | some a => r.1.memWrite a (cleanWords img)
          | none => r.1
        (t.modSvc n fun v => { v with
          phase := .loaded, image := img, xoSlot := if src = 2 then some slot else none, imageAt := place, hist := defaultHist img,
          histNext := defaultHist img }).finish c.id stOk 0 0

/-- LOAD_PROGRAM: `data` is what host DMA, or flash for a list command, returns. -/
def execLoadProgram (data : Option Bytes) (s : State) : Host.Outcome State Fault Refusal :=
  act s fun s => s.withCmd opLoadProgram fun s c => s.loadWork data c

/-! ### Snapshot buffers (R27, R32, R33, R368, R520) -/

/-- Content of a buffer for the landing digest: times, FLAGS, AGE and DROPPED of a camera header count as zero. -/
def landingContent (kind : Nat) (b : Bytes) : Bytes :=
  if kind = kindCamera then patch (patch b 8 (List.replicate 16 0)) 29 (List.replicate 7 0) else b

def landingDigest (kind : Nat) (b : Bytes) : Bytes := sha512_256 (landingContent kind b)

/-- FLAGS of a camera header (R367). -/
def cfSubst : Nat := 0x01
def cfResync : Nat := 0x02
def cfResChange : Nat := 0x04
def cfIdr : Nat := 0x08
def cfNoFrame : Nat := 0x10
def cfCropClip : Nat := 0x20

/-- The header of a camera buffer that holds no picture. -/
def emptyHeader (stream : Nat) : Bytes :=
  List.replicate 4 0xFF ++ List.replicate 24 0 ++ leBytes 1 stream ++ leBytes 1 cfNoFrame ++ List.replicate 34 0

/-- A zeroed buffer that is HELD. -/
def zeroHeld (kind source bytes : Nat) : Buf :=
  let b := if kind = kindCamera then Buf.empty.ofBytes (emptyHeader source) else Buf.empty
  { b with state := .held, landing := landingDigest kind (b.bytes bytes) }

/-- An input as its service is staged; `lost`: pictures that its stream has lost so far (R367). -/
def newInput (lost : Nat → Nat) (e : Bytes) : Input :=
  let b := zeroHeld (snapKind e) (snapSource e) (snapBytes e)
  { snap := snapSnap e, kind := snapKind e, source := snapSource e, bytes := snapBytes e,
    bufs := [if snapKind e = kindCamera then { b with lost := lost (snapSource e) } else b, Buf.empty, Buf.empty] }

def newOutput (e : Bytes) : Output :=
  { snap := snapSnap e, kind := snapKind e, source := snapSource e, bytes := snapBytes e, writable := Buf.empty,
    egress := Buf.empty, busy := false }

/-! ### START_SERVICE (R399) -/

/-- A starting record is accepted (R121). -/
def histOk (b : Bytes) (h : List RangeEntry) : Bool :=
  h.length == (defaultHist b).length &&
    (h.zip (defaultHist b)).all fun (x, d) => decide (x.head ≤ 7) && decide (x.fill ≤ 8) && x.n == d.n

/-- A staged BIND_MODEL takes effect at a boundary or before it. -/
def Change.bindsBy (c : Change) (at_ : Nat) : Bool := c.inSet && decide (c.target ≤ at_)

/-- The binding that a service will have when it starts at a boundary: a staged BIND_MODEL comes first (R271). -/
def State.bindingAt (s : State) (n at_ : Nat) : Option Nat :=
  s.staged.foldl (fun o c =>
    match c.kind with
    | .bind k slot => if k = n && c.bindsBy at_ then slot else o
    | _ => o) (s.svc n).slot

/-- A program that issues FILLs needs a binding, and no service starts before its staged BIND_MODEL takes effect. -/
def State.bindingOk (s : State) (n : Nat) (b : Bytes) (at_ : Nat) : Bool :=
  ((s.bindingAt n at_).isSome || (imgEnvList b).all fun e => (imgTiles b).all fun t => (imgFills b e t).isEmpty) &&
    !s.staged.any fun c =>
      match c.kind with
      | .bind k _ => k = n && !c.bindsBy at_
      | _ => false

/-- The device is HELD (R477). -/
def State.held (s : State) : Bool := s.dev == stHeld

/-- Operands of START_SERVICE that are in range (R397, R45, R405). -/
def State.startFields (s : State) (b : Bytes) : Bool :=
  let n := u8 b 8
  let ring := u8 b 10
  decide (n < 64) && decide (u8 b 9 < 2) && (decide (ring < 16) || ring == 0xFF) &&
    !(u8 b 9 == 1 && (s.svc n).cls == clA) &&
    (ring == 0xFF || (s.ringOn resType ring && !s.ringHalted resType ring &&
      (!(u8 b 11).testBit 0 || s.ringFld HIF_RING_CFG_AUDIT resType ring == 1)))

/-- The checks that each service of a pair passes for itself: the status and DETAIL of the one that fails. -/
def State.startOne (s : State) (n : Nat) (others : List Bytes) (sram at_ : Nat) : Nat × Nat :=
  let b := (s.svc n).image
  if imgClass b = clC && !s.bit MEM_CTL_POOL_EN then (stAdmission, 0)
  else
    match s.startCode b with
    | some k => (stProgramReject, k)
    | none =>
      if imgClass b = clA && !s.soundpostOk n b then (stSoundpost, 0)
      else if !s.admits n b others sram then (stAdmission, 0)
      else if !s.bindingOk n b at_ then (stShape, 0)
      else (stOk, 0)

/-- Every check of START_SERVICE but that of the history record. -/
def State.startCheck (s : State) (b : Bytes) : Nat × Nat :=
  let n := u8 b 8
  let v := s.svc n
  let img := v.image
  if !s.startFields b then (stBadField, 0)
  else if s.duplicate (.start n) (u64 b 16) none then (stDuplicate, 0)
  else if v.phase != .loaded || s.isPartner n then (stServiceState, 0)
  else if s.held && v.cls != clA then (stDeviceState, 0)
  else if u32 b 32 != imgHistBytes img then (stBadField, 0)
  else if !s.planOk n img then (stAdmission, 0)
  else
    let at_ := max (u64 b 16) (s.tick + 1)
    let r := s.startOne n s.heldImages s.snapFree at_
    match s.partner n with
    | none => r
    | some p =>
      if r.1 != stOk then r
      else s.startOne p (img :: s.heldImages) (s.snapFree - snapCost img) at_

/-- Steps a service to staged: its tiles, buffers and pool ranges are its own from now on, and TIL_CFG.STAGE shows its
staging buffer (R86; DESIGN CHOICE, log 256). -/
def State.stage (s : State) (n : Nat) (stop audit changes : Bool) (ring : Option Nat) (h : List RangeEntry) : State :=
  let v := s.svc n
  let b := v.image
  let ins := ((imgSnaps b).filter fun e => kindIsInput (snapKind e)).map
    (newInput fun k => (Tab.lookD s.intake.streams k Stream.reset).lost)
  let outs := ((imgSnaps b).filter fun e => kindIsOutput (snapKind e)).map newOutput
  let zero := (imgMemRanges b).any (·.zero)
  let s := s.setSvc n { Service.loaded v with
    phase := .staged, policyStop := stop, resultRing := ring, audit := audit, changesOnly := changes, hist := h, histNext := h,
    inputs := ins, outputs := outs, chain := List.replicate 32 0, copied := false, zeroed := !zero }
  let s := s.poolStart n (imgMemRanges b)
  (imgTiles b).foldl (fun s t =>
    (s.modTile t fun x => { x with dirty := false }).setFlds
      [(TIL_STATE_SERVICE.tile t, n), (TIL_STATE_CLASS.tile t, imgClass b), (TIL_STATE_PHASE.tile t, 0),
        (TIL_STATE_STATE.tile t, tsStaged), (TIL_CFG_STAGE.tile t, imgStage b t)]) s

/-- START_SERVICE: `hist` is what host DMA returns of the starting history record, whose FB_COUNT values are counted on
(DESIGN CHOICE, log 204). -/
def State.startWork (s : State) (hist : Option Bytes) (c : HostCmd) : State :=
  let b := c.bytes
  let n := u8 b 8
  let img := (s.svc n).image
  let r := s.startCheck b
  let fail := fun (s : State) (st detail : Nat) => s.finish c.id st detail 0
  if r.1 != stOk then fail s r.1 r.2
  else
    let given := u64 b 24 != 0 && 0 < imgHistBytes img
    match (if given then hist.map fun d => histOf (sliceZ d 0 (imgHistBytes img)) else some (defaultHist img)) with
    | none => fail s stHostDma 0
    | some h =>
      if !histOk img h then fail s stHistory 0
      else
        let ring := if u8 b 10 = 0xFF then none else some (u8 b 10)
        let put := fun (s : State) (k : Nat) (h : List RangeEntry) =>
          s.stage k (u8 b 9 = 1) ((u8 b 11).testBit 0) ((u8 b 11).testBit 1) ring h
        let s := put s n h
        let s := match s.partner n with
          | none => s
          | some p => put s p (defaultHist (s.svc p).image)
        s.submit c (.start n) (u64 b 16) none

def execStartService (hist : Option Bytes) (s : State) : Host.Outcome State Fault Refusal :=
  act s fun s => s.withCmd opStartService fun s c => s.startWork hist c

/-- The program copy of a staged service is complete (R133). -/
def State.copyDone (s : State) (n : Nat) : State :=
  let v := s.svc n
  if v.phase != .staged || v.copied || !s.schUp then s
  else
    let b := v.image
    let s := (imgClusters b).foldl (fun s c => (packWords b c).foldl (fun s e => s.csWrite c e.1 ⟨e.2, false⟩) s) s
    let s := (imgTiles b).foldl (fun s t =>
      (s.tileWrites t (imgInitWord b t) (cleanWords (imgInit b t))).setFld (TIL_CFG_STAGE.tile t) (imgStage b t)) s
    s.modSvc n fun v => { v with copied := true }

def execProgramCopyDone (service : Nat) (s : State) : Host.Outcome State Fault Refusal := act s fun s => s.copyDone service

/-- A kept pool range that is to be zeroed: in its frames, or when it next takes frames. -/
def State.zeroPool (s : State) (r : PoolRange) : State :=
  if r.wherein = .held then
    State.rangeWriteGo (r.pages + 1) (s.putRange { r with tainted := false }) r r.base (List.replicate (r.size / 16) MWord.zero)
  else if r.wherein = .restoring then s.putRange { r with origin := .never, tainted := false }
  else s.putRange { r with wherein := .never, tainted := false }

/-- The zero-fill of a staged service's ZERO_INIT ranges completes (R297); one whose write-back is at work comes first. -/
def State.zeroDone (s : State) (n : Nat) : State :=
  let v := s.svc n
  let rs := (imgMemRanges v.image).filter (·.zero)
  let nums := rs.map (·.num)
  let pool := (s.poolOf n).filter fun r => nums.contains r.range
  if v.phase != .staged || v.zeroed || pool.any (fun r => r.wherein = .writingBack) then s
  else
    let s := (rs.filter fun r => !r.pool).foldl (fun (s : State) r =>
      (s.memWrite r.base (List.replicate (r.size / 16) MWord.zero)).openBlocks r.base r.size) s
    (pool.foldl State.zeroPool s).modSvc n fun v => { v with zeroed := true }

def execZeroInitFillDone (service : Nat) (s : State) : Host.Outcome State Fault Refusal := act s fun s => s.zeroDone service

/-! ### STOP_SERVICE (R398, R418) -/

def State.stopWork (s : State) (c : HostCmd) : State :=
  let n := u8 c.bytes 8
  let target := u64 c.bytes 16
  let fail := fun (st : Nat) => s.finish c.id st 0 0
  if 64 ≤ n then fail stBadField
  else if s.duplicate (.stop n) target none then fail stDuplicate
  else if !(s.svc n).phase.admitted || (s.partnerOf n).isSome then fail stServiceState
  else s.submit c (.stop n) target none

def execStopService (s : State) : Host.Outcome State Fault Refusal := act s fun s => s.withCmd opStopService State.stopWork

/-! ### SUBMIT_INPUT (R28, R400) -/

/-- The input of a service that a SUBMIT_INPUT names. -/
def State.submitInputOf (s : State) (svc source : Nat) : Option Input :=
  (s.svc svc).inputs.find? fun (i : Input) => i.kind = kindSubmit && i.source = source

def State.inputWork (s : State) (c : HostCmd) : State :=
  let n := u8 c.bytes 8
  let fail := fun (st : Nat) => s.finish c.id st 0 0
  if 64 ≤ n || 16 ≤ u8 c.bytes 9 then fail stBadField
  else if !(s.svc n).phase.holds then fail stServiceState
  else
    match s.submitInputOf n (u8 c.bytes 9) with
    | none => fail stBadField
    | some i =>
      if u32 c.bytes 24 != i.bytes then fail stBadField
      else s.setIntake { s.intake with inputDma := s.intake.inputDma ++ [(c.id, n, u8 c.bytes 9)] }

def execSubmitInput (s : State) : Host.Outcome State Fault Refusal := act s fun s => s.withCmd opSubmitInput State.inputWork

/-- A FILL buffer with new content becomes READY; a READY one before it becomes FILL and its content is discarded (R28). -/
def Input.fill (i : Input) (f : Buf → Buf) : Input :=
  match takeFirst (fun (b : Buf) => b.state = .fill) i.bufs with
  | none => i
  | some (b, rest) =>
    let rest := rest.map fun (x : Buf) => if x.state = .ready then Buf.empty else x
    { i with bufs := rest ++ [{ f b with state := .ready }] }

/-- The read of a SUBMIT_INPUT's payload ends: with the payload, or failed. -/
def State.inputEnds (s : State) (e : Nat × Nat × Nat) (data : Option Bytes) : State :=
  let (id, n, src) := e
  let s := s.setIntake { s.intake with inputDma := s.intake.inputDma.filter fun x => x.1 != id }
  match data, s.submitInputOf n src with
  | some d, some i =>
    let d := sliceZ d 0 i.bytes
    let old := s.intake.inputReady.filter fun e => e.2.1 = n && e.2.2 = i.snap
    let s := old.foldl (fun s e => s.finish e.1 stSuperseded 0 0) s
    let s := s.setIntake { s.intake with
      inputReady := (s.intake.inputReady.filter fun e => !(e.2.1 = n && e.2.2 = i.snap)) ++ [(id, n, i.snap)] }
    s.modSvc n fun v => { v with inputs := v.inputs.map fun (x : Input) =>
      if x.snap = i.snap then x.fill fun b => { b.ofBytes d with
        landing := landingDigest kindSubmit d, marked := 0, coded := [], stale := [] } else x }
  | _, _ => s.finish id stHostDma 0 0

/-- The payload of a SUBMIT_INPUT comes by host DMA; that of a command of the start-up list comes from flash (R532). -/
def State.inputHosted (s : State) (e : Nat × Nat × Nat) : Bool := !(s.cmd e.1).any (·.fromList)

/-- INPUT_DMA_DONE: the payload of the earliest SUBMIT_INPUT whose read does not wait has landed (R383, R384, R400). -/
def execInputDmaDone (data : Option Bytes) (s : State) : Host.Outcome State Fault Refusal :=
  act s fun s =>
    match s.intake.inputDma.find? fun e => !(s.dmaHeld && s.inputHosted e) with
    | none => s
    | some e => s.inputEnds e data

/-! ### QUERY (R402) -/

/-- A slot record of R253. -/
def slotBytes (n : Nat) (v : Slot) : Bytes :=
  leBytes 1 n ++ leBytes 1 v.state ++ leBytes 1 v.lastOp ++ leBytes 1 v.binds ++ leBytes 2 v.firstStripe ++
    leBytes 2 v.stripes ++ leBytes 8 v.slabMask.toNat ++ padTo 16 v.imageId ++ leBytes 8 v.slabsDone.toNat ++
    leBytes 8 v.seq ++ padTo 16 v.epochDigest

/-- STATE of a service record; a service on standby counts as suspended (R419). -/
def SvcPhase.code (p : SvcPhase) : Nat :=
  match p with
  | .none => 0
  | .loaded => 1
  | .staged => 2
  | .running => 3
  | .suspended => 4
  | .waiting => 5
  | .standby => 4

/-- Model-epoch digest of a service (R273). -/
def State.svcDigest (s : State) (n : Nat) : Bytes :=
  match (s.svc n).slot with
  | none => List.replicate 32 0
  | some k => epochDigest (s.slotOf k).manifest

def State.serviceRecord (s : State) (n : Nat) : Bytes :=
  let v := s.svc n
  leBytes 1 n ++ leBytes 1 v.phase.code ++ leBytes 1 v.cls ++ leBytes 1 (v.slot.getD 0xFF) ++ leBytes 4 0 ++
    leBytes 8 v.lastTick ++ leBytes 8 (if v.phase.holds then imgTileMask v.image else 0) ++ leBytes 8 0 ++ s.svcDigest n

def State.queryWork (s : State) (dmaOk : Bool) (c : HostCmd) : State :=
  let k := u8 c.bytes 8
  let n := u8 c.bytes 9
  if 2 < k || 64 ≤ n || c.fromList then s.finish c.id stBadField 0 0
  else
    let d := if k = 0 then (List.range 16).flatMap fun i => slotBytes i (s.slotOf i)
      else if k = 1 then s.serviceRecord n else histBytes (s.svc n).hist
    let d := d.take (u32 c.bytes 24)
    if dmaOk then (s.dma (u64 c.bytes 16) d).finish c.id stOk 0 d.length else s.finish c.id stHostDma 0 0

def execQuery (dmaOk : Bool) (s : State) : Host.Outcome State Fault Refusal :=
  act s fun s => s.withCmd opQuery fun s c => s.queryWork dmaOk c

/-! ### CONFIG_EPOCH (R401) -/

/-- A record of a write list: offset, WIDTH 8, value. -/
def listRecord (r : Bytes) : Nat × Bool × Nat := (u32 r 0, u8 r 4 = 8, u64 r 8)
def listRecords (b : Bytes) : List (Nat × Bool × Nat) := (chunks 16 b).map listRecord

/-- Blocks by their 1 MiB windows in BAR0 (R16). -/
def blkTck : Nat := 2
def blkMem : Nat := 3
def blkInt : Nat := 6
def blkVid : Nat := 7
def blkCmp : Nat := 5
def blkCns : Nat := 8
def blkSpp : Nat := 11
def blkPwr : Nat := 9
def blkEvt : Nat := 13

/-- A record is allowed: its offset lies in a block listed, is aligned, and names a register. -/
def recordOk (blocks : List Nat) (r : Bytes) : Bool :=
  (u8 r 4 = 4 || u8 r 4 = 8) && allZero (slice r 5 3) && u32 r 0 % u8 r 4 == 0 && blocks.contains (u32 r 0 / 0x100000) &&
    (findReg (u32 r 0)).isSome

def epochBlocks : List Nat := [blkInt, blkVid, blkCmp, blkMem, blkCns, blkEvt]

def State.epochWork (s : State) (list : Option Bytes) (c : HostCmd) : State :=
  let n := u16 c.bytes 24
  let fail := fun (s : State) (st : Nat) => s.finish c.id st 0 0
  if n < 1 || 256 < n then fail s stBadField
  else
    match list with
    | none => fail s stHostDma
    | some l =>
      let l := sliceZ l 0 (16 * n)
      let agreed := if s.inEpoch then some agConfig else none
      let k := ChangeKind.config l
      if !(chunks 16 l).all (recordOk epochBlocks) then
        fail (s.whenB s.inEpoch fun s => s.agreeReport agConfig false) stBadField
      else if s.duplicate k (u64 c.bytes 32) agreed then fail s stDuplicate
      else s.submit c k (u64 c.bytes 32) agreed

/-- CONFIG_EPOCH: `list` is what host DMA returns of the write list. -/
def execConfigEpoch (list : Option Bytes) (s : State) : Host.Outcome State Fault Refusal :=
  act s fun s => s.withCmd opConfigEpoch fun s c => s.epochWork list c

end Sys2Proof.Machine
end

