-- ==== Sys2Proof/Machine/Power.lean ====
section
/-! DEFINITION. Power: envelopes, clocks, the AVSBus handshake, thermal limits, power failure, and requests for and wakes
from sleep (R479 to R500). -/

namespace Sys2Proof.Machine

/-! ### Emergencies (R457, R492) -/

/-- A power or thermal emergency is in force. -/
def State.emergency (s : State) : Bool := s.bit PWR_EMERG_CLAMP || s.bit PWR_EMERG_PWR_FAIL || s.bit PWR_EMERG_REG_FAULT

/-- Milliseconds left of the second after the last emergency. -/
def State.clearMs (s : State) : Nat :=
  match s.power.clearAt with
  | some t => ceilDiv (t - s.now) 1000000
  | none => s.fld PWR_EMERG_CLEAR_MS

/-- A condition begins: the count of CLEAR_MS stops. -/
def State.emergencyOn (s : State) (f : Fld) : State :=
  let ms := s.clearMs
  ((s.setPower { s.power with clearAt := none }).setFld PWR_EMERG_CLEAR_MS ms).setFld f 1

/-- A condition clears; with the last of them CLEAR_MS starts at 1,000. -/
def State.emergencyOff (s : State) (f : Fld) : State :=
  let s := s.setFld f 0
  if s.emergency then s else s.setPower { s.power with clearAt := some (s.now + 1000000000) }

/-! ### Envelopes and clocks (R480 to R482) -/

/-- V_E of an envelope in mV (R483). -/
def State.vE (s : State) (e : Nat) : Nat :=
  if e = 0 then s.boot.fuses.v30 else if e = 1 then s.boot.fuses.v50 else s.boot.fuses.v75

/-- The envelope requested, within ENV_MAX. -/
def State.envReq (s : State) : Nat := min (min 2 (s.fld PWR_CTL_ENV_REQ)) (s.fld SPP_LIMIT_ENV_MAX)

/-- E30 is in force whatever is requested. -/
def State.envForced (s : State) : Bool :=
  s.bit PWR_EMERG_CLAMP || s.bit PWR_EMERG_REG_FAULT || (s.bit PWR_EMERG_PWR_FAIL && s.bit PWR_CTL_PF_CLAMP) ||
    !s.power.pllHold.isEmpty

/-- The envelope that PMC moves towards. -/
def State.envWanted (s : State) : Nat := if s.envForced then 0 else s.envReq

/-- The PLL that an envelope's clock comes from, and that it is locked. -/
def envPll (e : Nat) : Nat := if e = 1 then 1 else 0
def State.pllLocked (s : State) (p : Nat) : Bool := s.bit (if p = 0 then PWR_CLK_PLL0_LOCK else PWR_CLK_PLL1_LOCK)

/-- An envelope is ready (R484). -/
def State.envReady (s : State) (e : Nat) : Bool :=
  decide (e ≤ s.env) || (s.power.write.isNone && decide (s.vE e ≤ s.power.acked) && s.pllLocked (envPll e))

/-- PMC runs its duties: it is neither down nor quiescing nor starting (R448, R454). -/
def State.pmcFree (s : State) : Bool := s.fwState corePmc == fwRunning

/-- PMC is crashed or halted. -/
def State.pmcDown (s : State) : Bool :=
  (s.fwState corePmc == fwRestarting && (s.core corePmc).readyBy.isNone) || s.fwState corePmc == fwHalted

/-- The envelope of the tick, as decided 4 µs after its boundary. PMC that quiesces, or starts a new image, holds the one in
force (R454); while PMC is down only a lower one takes effect (R486). -/
def State.envDecide (s : State) : Nat :=
  let r := s.envReq
  if s.envForced then 0
  else if s.pmcFree then (if s.envReady r then r else s.env)
  else if s.pmcDown then min r s.env
  else s.env

/-- The arithmetic clock of an envelope; the oscillator or PLL_0 divided by two where the envelope's PLL is not locked. -/
def State.clockFor (s : State) (e : Nat) : ClockSource :=
  if e = 1 && s.pllLocked 1 then .pll1
  else if !s.pllLocked 0 then .osc
  else if 2 ≤ e then .pll0 else .pll0Half

/-- The PLL that feeds a clock. -/
def ClockSource.pll (c : ClockSource) : Option Nat :=
  match c with
  | .pll0 => some 0
  | .pll0Half => some 0
  | .pll1 => some 1
  | .osc => none

/-- The run-window cycle reached at the present time. -/
def State.cycleNow (s : State) : Nat := s.runCycle + (s.now - s.runStart) * s.mhz / 1000

/-- The arithmetic clock switches at once: a breach with source 0x8 on every running tile (R21). -/
def State.clockSwitch (s : State) (c : ClockSource) : State :=
  let cycle := s.cycleNow
  let s : State := { s with runStart := max s.now s.runStart, runCycle := cycle }
  let s := s.setPower { s.power with clock := c }
  let s := (List.range 64).foldl (fun s t => if s.tileState t = tsRunning then s.breach 8 t cycle else s) s
  s.flag PWR_STATUS_PLL_LOSS

/-- PLLs lose lock. -/
def State.pllLost (s : State) (l : List Nat) : State :=
  let lost := l.filter s.pllLocked
  let s := lost.foldl (fun s p => s.setFld (if p = 0 then PWR_CLK_PLL0_LOCK else PWR_CLK_PLL1_LOCK) 0) s
  match s.power.clock.pll with
  | none => s
  | some p =>
    if lost.contains p then
      (s.setPower { s.power with pllHold := s.power.pllHold ++ lost }).clockSwitch
        (if p = 1 && s.pllLocked 0 then .pll0Half else .osc)
    else s

/-- A PLL locks again. -/
def State.pllBack (s : State) (p : Nat) : State :=
  (s.setFld (if p = 0 then PWR_CLK_PLL0_LOCK else PWR_CLK_PLL1_LOCK) 1).setPower
    { s.power with pllHold := s.power.pllHold.filter (· != p) }

/-- A PLL runs: from release on, except in sleep, where a pizzicato cycle powers PLL_0 (R494, R501). -/
def State.pllRuns (s : State) (p : Nat) : Bool :=
  s.boot.releasedAt.isSome && (!s.asleep || (s.power.pzActive && p == 0))

def execPllLockLoss (pll : Nat) (s : State) : Host.Outcome State Fault Refusal :=
  act s fun s => if s.pllRuns pll then s.pllLost [pll] else s

/-! ### The AVSBus handshake (R483 to R486) -/

/-- The voltage that the rail is to move to: that of a sleep, a wake or a pizzicato cycle, of which the always-on controller moves
it in sleep; else, by PMC, that of the requested envelope, before READY of E30, never below V_E of the envelope in force. -/
def State.railWants (s : State) : Option Nat :=
  match s.power.railGoal with
  | some mv => if s.asleep || s.pmcFree then some mv else none
  | none =>
    if s.pmcFree && (s.up || s.dev == stReleased) then some (max (s.vE (if s.up then s.envWanted else 0)) (s.vE s.env)) else none

/-- A write of a target voltage begins, unless one is in progress or a regulator fault lasts (R484, R485); a target outside 500 to 900
mV is not sent (R487). -/
def State.pmcMove (s : State) : State :=
  match s.railWants with
  | none => s
  | some mv =>
    if s.power.write.isSome || s.bit PWR_EMERG_REG_FAULT || mv = s.power.acked || mv < 500 || 900 < mv then s
    else
      ((s.setPower { s.power with write := some (mv, s.now), nacks := 0 }).setFlds
        [(PWR_AVS_VSET, mv), (PWR_AVS_VDONE, 0), (PWR_AVS_BUSY, 1)]).emit (.avs mv)

/-- A sleep, a wake or a cycle asks for a voltage. -/
def State.railTo (s : State) (mv : Nat) : State := (s.setPower { s.power with railGoal := some mv }).pmcMove

/-- The rail stands acknowledged at a voltage. -/
def State.railAt (s : State) (mv : Nat) : Bool := s.power.write.isNone && s.power.acked == mv

/-- The rail has come to V_E30 in a pizzicato cycle: PLL_0 is powered, and the arithmetic clock moves to it (R487, R501). -/
def State.cycleClock (s : State) : State :=
  if s.asleep && s.power.pzActive && s.power.refclk && s.railAt (s.vE 0) then
    (s.setFld PWR_CLK_PLL0_LOCK 1).setPower { s.power with clock := .pll0Half, pllHold := [] }
  else s

/-- A regulator fault. After a write that was not acknowledged the rail counts as standing at the lower of its voltage and
the last one acknowledged, so that no clock is raised on a rail that may have fallen (R484, R487; log 236). -/
def State.regulatorFault (s : State) : State :=
  let mv := s.power.write.elim s.power.acked fun w => min w.1 s.power.acked
  let s := (s.setPower { s.power with write := none, nacks := 0, acked := mv }).setFld PWR_AVS_BUSY 0
  ((s.emergencyOn PWR_EMERG_REG_FAULT).count PWR_REG_FAULT_COUNT_COUNT 1).flag PWR_STATUS_REG_FAULT

/-- Failed transmissions of a transaction that make a regulator fault: the first and three repeats (R485). -/
def nackLimit : Nat := 4

def State.avsPoll (s : State) (ack : Nat) (vdone : Bool) : State :=
  match s.power.write with
  | none => s
  | some (mv, _) =>
    let s := s.setFld PWR_AVS_ACK ack
    if ack % 4 != 0 then
      if nackLimit ≤ s.power.nacks + 1 then s.regulatorFault
      else s.setPower { s.power with nacks := s.power.nacks + 1 }
    else if vdone then
      ((s.setPower { s.power with write := none, nacks := 0, acked := mv }).setFlds
        [(PWR_AVS_VDONE, 1), (PWR_AVS_BUSY, 0)]).cycleClock.pmcMove
    else s.setPower { s.power with nacks := 0 }

/-- AVS_STATUS_POLL: `ack` is SlaveAck and `vdone` the VDone bit of the Status read. -/
def execAvsStatusPoll (ack : Nat) (vdone : Bool) (s : State) : Host.Outcome State Fault Refusal :=
  act s fun s => s.avsPoll ack vdone

def State.avsTimeout (s : State) : State :=
  match s.power.write with
  | none => s
  | some (_, t) => (s.upTo (t + 2000000)).regulatorFault

def execAvsWriteTimeout (s : State) : Host.Outcome State Fault Refusal := act s State.avsTimeout

def State.faultPoll (s : State) (ack millivolts : Nat) : State :=
  if s.bit PWR_EMERG_REG_FAULT && s.pmcUp then
    let s := s.setFld PWR_AVS_ACK ack
    if ack % 4 != 0 then s
    else
      let s := s.setFld PWR_AVS_VREAD millivolts
      if millivolts ≤ s.fld PWR_AVS_VSET + 10 && s.fld PWR_AVS_VSET ≤ millivolts + 10 then
        (s.emergencyOff PWR_EMERG_REG_FAULT).pmcMove
      else s
  else s

/-- REGULATOR_FAULT_POLL: `millivolts` is what the Target Rail Voltage read returns. -/
def execRegulatorFaultPoll (ack millivolts : Nat) (s : State) : Host.Outcome State Fault Refusal :=
  act s fun s => s.faultPoll ack millivolts

def execPllRelock (pll : Nat) (s : State) : Host.Outcome State Fault Refusal :=
  act s fun s => if s.pllRuns pll && s.power.refclk && pll < 2 then (s.pllBack pll).pmcMove else s

/-- A host write of PWR_CTL. While PMC is down, one that leaves ENV_REQ as it is is no write to it. -/
def State.pwrCtl (s : State) (v : Nat) : State :=
  let s := s.setFld PWR_CTL_PF_CLAMP (bitsOf v 7 7)
  if s.pmcDown && bitsOf v 1 0 != s.fld PWR_CTL_ENV_REQ then s.flag PWR_STATUS_ACCESS
  else (s.setFld PWR_CTL_ENV_REQ (bitsOf v 1 0)).pmcMove

def execEnvReqWrite (value : Word) (s : State) : Host.Outcome State Fault Refusal := hostAct PWR_CTL.off s fun s => s.pwrCtl value.toNat

/-! ### Thermal limits (R476, R487, R488) -/

/-- T_clamp in °C. -/
def State.tClamp (s : State) : Int := max 70 (min 110 (s.fld SPP_LIMIT_TCLAMP))

/-- A reading as a register byte. -/
def degByte (t : Int) : Nat := trunc 8 (clampInt (-128) 127 t)

/-- The highest of a list of readings, or another where it is empty. -/
def hottest (d : Int) (l : List Int) : Int :=
  match l with
  | [] => d
  | x :: r => r.foldl max x

/-- The readings of the weight dies as PWR_TEMP_NV holds them; a die whose reading is missing keeps its last. -/
def State.nvBytes (s : State) (weight : List Int) : Nat :=
  leNat ((List.range 4).map fun d =>
    BitVec.ofNat 8 (if s.boot.fuses.dies ≤ d then 0x80
      else match weight[d]? with
        | some t => degByte t
        | none => bitsOf (s.fld PWR_TEMP_NV_TJ_NV) (8 * d + 7) (8 * d)))

/-- Tj of a weight die in °C. -/
def State.nvTemp (s : State) (d : Nat) : Int := sext 8 (bitsOf (s.fld PWR_TEMP_NV_TJ_NV) (8 * d + 7) (8 * d))

/-- A sensor has reached T_clamp: the clamp takes effect at the first boundary from now on (DEDUCED; log 28). -/
def State.clampCrossed (s : State) : State :=
  if s.bit PWR_EMERG_CLAMP then s else s.setPower { s.power with clampDue := true }

/-- The thermal clamp at a boundary: one that is due begins, and one in force sets its bit again (R473). -/
def State.clampTake (s : State) : State :=
  let s := s.whenB s.power.clampDue fun s =>
    (((s.setPower { s.power with clampDue := false }).emergencyOn PWR_EMERG_CLAMP).count PWR_CLAMP_COUNT_COUNT 1).flag
      PWR_STATUS_CLAMP
  s.whenB (s.bit PWR_EMERG_CLAMP) fun s => s.sppNote SPP_STATUS_CLAMP

/-- The thermal trip: NV activity quiesces, every clock stops, THERM_TRIP_N is driven low; nothing of it is logged (R541). -/
def State.trip (s : State) : State :=
  let s := ((s.whenB (s.nvPhase = nvReady) State.nvStop).pin "THERM_TRIP_N" false).setDev stOff
  s.setPower { s.power.draw s.now [] with tripped := true }

/-- The thermal alert is noted when a sensor comes to stand at or above TALERT, be it that the reading rises or that TALERT has
fallen since the last one (R473, R487; DESIGN CHOICE, log 242). -/
def State.alertSensed (s : State) (hot : Bool) : State :=
  let s' := s.setPower { s.power with hot := hot }
  s'.whenB (hot && !s.power.hot) fun s => s.sppNote SPP_STATUS_TALERT

def State.sensors (s : State) (die weight : List Int) : State :=
  let fitted := weight.take s.boot.fuses.dies
  let core := hottest (sext 8 (s.fld PWR_TEMP_TJ_CORE)) (die.take 16)
  let hi := hottest core fitted
  let alert : Int := s.fld SPP_LIMIT_TALERT
  let s := s.setFlds [(PWR_TEMP_TJ_MAX, degByte (max hi core)), (PWR_TEMP_TJ_CORE, degByte core),
    (PWR_TEMP_NV_TJ_NV, s.nvBytes weight)]
  let hi := max hi core
  if 125 ≤ hi then s.trip
  else
    let s := s.alertSensed (decide (alert ≤ hi))
    let s := s.whenB (decide (s.tClamp ≤ hi)) State.clampCrossed
    s.setPower { s.power with coolSince := if hi < s.tClamp - 5 then some (s.power.coolSince.getD s.now) else none }

/-- SENSOR_READING: readings in °C of the 16 sensors of the compute die and of one sensor on each weight die. -/
def execSensorReading (die weight : List Int) (s : State) : Host.Outcome State Fault Refusal :=
  act s fun s => s.sensors die weight

def State.clampOff (s : State) : State :=
  match s.power.coolSince with
  | none => s
  | some t =>
    if s.bit PWR_EMERG_CLAMP then ((s.upTo (t + 1000000000)).emergencyOff PWR_EMERG_CLAMP).pmcMove else s

def execClampRelease (s : State) : Host.Outcome State Fault Refusal := act s State.clampOff

/-! ### Power failure (R231, R268, R491, R499) -/

def State.pwrFail (s : State) : State :=
  if s.bit PWR_EMERG_PWR_FAIL then s
  else
    let s := ((s.emergencyOn PWR_EMERG_PWR_FAIL).flag PWR_STATUS_PF).sppNote SPP_STATUS_PWR_FAIL
    s.whenB (s.nvPhase = nvReady) fun s => s.nvQuiesce.nvPowerFail

def execPwrFailAssert (s : State) : Host.Outcome State Fault Refusal := act s State.pwrFail

/-- PWR_FAIL_DEASSERT: `strictFails` lists a block once for each strict blank check that it fails. A recovery whose re-erases
meet a window waits for NV_SCAN (R222). -/
def execPwrFailDeassert (strictFails : List Nat) (s : State) : Host.Outcome State Fault Refusal :=
  act s fun s =>
    if s.bit PWR_EMERG_PWR_FAIL then
      ((s.emergencyOff PWR_EMERG_PWR_FAIL).nvRecover strictFails).pmcMove
    else s

/-! ### Requests for sleep (R493, R500) -/

/-- PWR_STATE.STATE values. -/
def slActive : Nat := 0
def slEntering : Nat := 1
def slRest : Nat := 2
def slPizzicato : Nat := 3
def slWaking : Nat := 4
def State.sleepState (s : State) : Nat := s.fld PWR_STATE_STATE

/-- IDR_WAIT_MS and PERIOD_MS as they act. -/
def State.idrWaitMs (s : State) : Nat := max 1 (s.fld PWR_PZ_CTL_IDR_WAIT_MS)
def State.pzPeriodMs (s : State) : Nat := min 60000 (max 100 (s.fld PWR_PZ_PERIOD_PERIOD_MS))
def State.sentry (s : State) : Nat := s.fld PWR_PZ_CTL_SERVICE
def State.pzStream (s : State) : Nat := s.fld PWR_PZ_CTL_STREAM

/-- The checks of a request for PIZZICATO. -/
def State.pzOk (s : State) : Bool :=
  let v := s.svc s.sentry
  let b := v.image
  let snaps := imgSnaps b
  v.phase = .loaded && imgHasEnv b 0 && (imgTiles b).all (fun t => decide (t < 8)) &&
    (match snaps.filter fun e => kindIsInput (snapKind e) with
      | [e] => snapKind e == kindCamera && snapSource e == s.pzStream
      | _ => false) &&
    (match snaps.filter fun e => snapKind e == kindPayload with
      | [e] => decide (16 ≤ snapBytes e)
      | _ => false) &&
    (v.slot.isSome || (imgTiles b).all fun t => (imgFills b 0 t).isEmpty) &&
    s.bit (VID_STREAM_CTL_EN.bank s.pzStream) &&
    decide (imgW b 0 + (s.idrWaitMs + 10) * 1000000 ≤ s.pzPeriodMs * 1000000)

/-- The cause for which a request for sleep is refused; 0 for none. -/
def State.sleepCause (s : State) (pizzicato : Bool) : Nat :=
  if s.services.any fun e => e.2.phase.holds then 2
  else if s.inEpoch then 3
  else if !s.pmcUp then 4
  else if pizzicato && !s.pzOk then 5
  else if s.power.sleepReq.isSome || s.sleepState != slActive || !s.up then 6
  else if s.hif.accepted.any fun c => !(c.opcode = opFwActivate && c.started) then 7
  else 0

/-- A write of PWR_SLEEP_CTL.REQ. -/
def State.sleepRequest (s : State) (pizzicato : Bool) : State :=
  let k := s.sleepCause pizzicato
  if k != 0 then (s.setFld PWR_SLEEP_CTL_RESULT k).flag PWR_STATUS_SLEEP_REJ
  else
    (s.setPower { s.power with sleepReq := some pizzicato, lastBoundary := false, wakeCause := none }).setFlds
      [(PWR_SLEEP_CTL_BUSY, 1), (PWR_SLEEP_CTL_RESULT, 0), (PWR_STATE_STATE, slEntering)]

def execSleepReqRest (s : State) : Host.Outcome State Fault Refusal := hostAct PWR_SLEEP_CTL.off s fun s => s.sleepRequest false

def execSleepReqPizzicato (s : State) : Host.Outcome State Fault Refusal := hostAct PWR_SLEEP_CTL.off s fun s => s.sleepRequest true

/-! ### Wake sources (R496, R498, R502, R503) -/

/-- A pizzicato cycle ends without a commit: the sentry's tiles become free. -/
def State.pzStop (s : State) : State :=
  if s.power.pzActive then
    (imgTiles (s.svc s.sentry).image).foldl State.freeTile
      (s.setPower { s.power.draw s.now [] with pzActive := false })
  else s

/-- A wake that has been asked for begins, while the reference clock runs (R497, R574). -/
def State.beginWake (s : State) : State :=
  match s.power.wakeCause with
  | none => s
  | some c =>
    if s.asleep && s.power.refclk && s.sleepState != slWaking then
      s.pzStop.setFlds [(PWR_WAKE_CTL_CAUSE, c), (PWR_STATE_STATE, slWaking)]
    else s

/-- A wake source arrives; one that comes during entry lets entry complete. -/
def State.wakeBy (s : State) (cause : Nat) : State :=
  if (s.asleep || s.sleepState = slEntering) && s.sleepState != slWaking then
    (s.setPower { s.power with wakeCause := some (s.power.wakeCause.getD cause) }).beginWake
  else s

/-- A write of 1 to PWR_WAKE.GO. -/
def State.wakeGo (s : State) : State := s.whenB (s.bit PWR_WAKE_CTL_PCIE_EN) fun s => s.wakeBy 3

def execPwrWakeGo (s : State) : Host.Outcome State Fault Refusal := hostAct PWR_WAKE.off s State.wakeGo

/-- A list begins with another somewhere in a third. -/
def hasRun (pat : Bytes) : Bytes → Bool
  | [] => pat.isEmpty
  | b :: r => pat.isPrefixOf (b :: r) || hasRun pat r

/-- A frame passes a port's wake filter. -/
def State.passesWake (s : State) (port : Nat) (frame : Bytes) : Bool :=
  let mac := s.portMac port
  let m := beBytes 6 mac
  let f := s.fld (if port = 0 then PWR_WAKE_CTL_ETH0 else PWR_WAKE_CTL_ETH1)
  if f = 1 then true
  else if f = 2 then n48 frame 0 == mac
  else if f = 3 then hasRun (List.replicate 6 0xFF ++ (List.replicate 16 m).flatten) frame
  else false

/-- ETH_WAKE_FRAME: a frame arrives at a port in sleep. -/
def execEthWakeFrame (port : Nat) (frame : Bytes) (s : State) : Host.Outcome State Fault Refusal :=
  act s fun s => s.whenB (port < 2 && s.linkUp port && s.passesWake port frame) fun s => s.wakeBy (1 + port)

/-- TICK_IN_WAKE: an edge of TICK_IN. -/
def execTickInWake (falling : Bool) (s : State) : Host.Outcome State Fault Refusal :=
  act s fun s => s.whenB (s.bit PWR_WAKE_CTL_TICKIN_EN && s.bit TCK_TICKIN_EDGE == falling) fun s => s.wakeBy 4

/-! ### The reference clock (R574) -/

def State.refclkLost (s : State) : State :=
  if s.power.refclk then
    let s := s.setPower { s.power with refclk := false }
    let fed := s.power.clock.pll.isSome
    let s := s.pllLost ([0, 1].filter s.pllRuns)
    if fed then s else s.flag PWR_STATUS_PLL_LOSS
  else s

def execRefclkMissing (s : State) : Host.Outcome State Fault Refusal := act s State.refclkLost

def State.refclkBack (s : State) : State :=
  if s.power.refclk then s
  else
    let s := s.setPower { s.power with refclk := true }
    (([0, 1].filter s.pllRuns).foldl State.pllBack s).cycleClock.pmcMove.beginWake

def execRefclkReturn (s : State) : Host.Outcome State Fault Refusal := act s State.refclkBack

/-! ### Pads and the retention clock (R240, R241, R498) -/

/-- Held pads drive their functional values. -/
def State.padRelease (s : State) : State :=
  if s.bit PWR_PAD_CTL_HOLD && s.sleepState = slActive then
    (((((s.setFld PWR_PAD_CTL_HOLD 0).pin "TICK_OUT" false).pin "PPS_OUT" false).showAlerts).pin "HB_OUT" (s.bit SPP_STATE_HB)).showXspi
  else s

def execPadRelease (s : State) : Host.Outcome State Fault Refusal := hostAct PWR_PAD_CTL.off s State.padRelease

/-- The largest age in millionths of a weighted second of any block of a plane that holds programmed pages. -/
def State.planeAge (s : State) (sp : Nat) : Nat :=
  s.nv.blocks.foldl (fun n (k, b) => if keySp k = sp && b.born.isSome then max n (s.blockAge k) else n) 0

/-- A second of every plane's clock. Asleep, a plane whose age passes AGE_DAYS wakes the device; awake, the blocks whose
age has passed it are queued for refresh. -/
def State.retentionTick (s : State) : State :=
  let s := s.clocksTick s.nvTemp
  if s.asleep then
    let due := s.nv.sleepAge.any fun e => 
      decide (s.ageLimit * dayUnits < e.2.1 + (Tab.lookD s.nv.clocks e.1 0 - e.2.2))
    s.whenB (due && s.bit PWR_WAKE_CTL_RETAIN_EN && s.bit NVS_CTL_AGE_REFRESH_EN) fun s => s.wakeBy 7
  else s.queueAges

def execRetentionClockTick (s : State) : Host.Outcome State Fault Refusal := act s State.retentionTick

end Sys2Proof.Machine
end

