-- ==== Sys2Proof/Machine/Firmware.lean ====
section
/-! DEFINITION. The firmware cores: loading, crashes and restarts, live update and rollback (R438 to R458, R486). -/

namespace Sys2Proof.Machine

/-! ### Bundles and loading (R443 to R446) -/

/-- The image of core kind c in a bundle. -/
def bundleImage (b : Bytes) (c : Nat) : Bytes := slice b (u32 b (16 + 8 * c)) (u32 b (20 + 8 * c))

/-- A bundle of a length is in order. -/
def bundleOk (b : Bytes) : Bool :=
  decide (48 ≤ b.length) && slice b 0 4 == ascii "KFWB" && u16 b 4 == 1 && allZero (slice b 6 2) && u64 b 8 == b.length &&
    (List.range 4).all fun c => u32 b (16 + 8 * c) % 256 == 0 &&
      decide (u32 b (16 + 8 * c) + u32 b (20 + 8 * c) ≤ b.length)

/-- Puts an image into code bank 0 of a core and starts it; bank 1 is empty. -/
def State.startCore (s : State) (core : Nat) (img : Bytes) : State :=
  let s := s.modCore core fun _ => { Core.reset with bank0 := FwBank.ofImage img }
  (s.setFlds [(fwFld SEC_FW_CORE_BANK core, 0), (fwFld SEC_FW_CORE_OTHER core, bankEmpty), (fwFld SEC_FW_CORE_PENDING core, 0),
    (fwFld SEC_FW_CORE_DEFERRED core, 0), (fwFld SEC_FW_CORE_CRASHES core, 0),
    (fwFld SEC_FW_CORE_BUILD core, imgBuild img)]).setFw core fwRunning

/-- Status of the first image of a bundle that fails R441, with the failure recorded; OK when all pass. -/
def State.checkBundle (s : State) (b : Bytes) : State × Nat :=
  if bundleOk b then
    (List.range 4).foldl (fun (p : State × Nat) c => if p.2 = stOk then p.1.verifyFw c (bundleImage b c) else p) (s, stOk)
  else (s, stBadImage)

/-- Verifies a bundle and starts every core, or no core (R444). -/
def State.loadBundle (s : State) (b : Bytes) : State × Nat :=
  let r := s.checkBundle b
  if r.2 = stOk then
    let s := (List.range 11).foldl (fun s c => s.startCore c (bundleImage b (fwKind c))) r.1
    let s := (s.setBoot { s.boot with coresUp := true }).whenB s.power.refclk fun s =>
      ((s.pllBack 0).pllBack 1).setFld PWR_CLK_OSC 0
    ((s.checkCert.emit (.avsRate 5)).pmcMove, stOk)
  else r

/-- A standalone load ends; without a bundle it fails. -/
def State.standaloneDone (s : State) (bundle : Option Bytes) : State :=
  if s.dev != stReleased || !s.standalone || s.boot.coresUp || s.boot.bootFailed then s
  else
    let r := match (if u32 s.cfgDev 32 = 0 then none else bundle) with
      | none => (s, stBadImage)
      | some b => s.loadBundle (sliceZ b 0 (u32 s.cfgDev 36))
    (if r.2 = stOk then r.1
      else (r.1.flag SEC_FW_STATUS_BOOT_FAIL).setBoot { r.1.boot with bootFailed := true }).showXspi

/-- STANDALONE_BOOT_DONE: `bundle` is what flash returns at the offset that the configuration image names. -/
def execStandaloneBootDone (bundle : Option Bytes) (s : State) : Host.Outcome State Fault Refusal :=
  act s fun s => s.standaloneDone bundle

/-- A write of SEC_BOOT_CTL.GO. -/
def State.bootGo (s : State) : State :=
  if s.bit SEC_BOOT_CTL_BUSY then s
  else if s.boot.coresUp || s.dev != stReleased || (s.standalone && !s.boot.bootFailed) then s.setFld SEC_BOOT_CTL_RESULT 5
  else s.setFlds [(SEC_BOOT_CTL_BUSY, 1), (SEC_BOOT_CTL_RESULT, 0)]

def execSecBootGo (s : State) : Host.Outcome State Fault Refusal := hostAct SEC_BOOT_CTL.off s State.bootGo

def State.hostedDone (s : State) (bundle : Option Bytes) : State :=
  if !s.bit SEC_BOOT_CTL_BUSY then s
  else
    let s := s.setFld SEC_BOOT_CTL_BUSY 0
    match bundle with
    | none => s.dmaError.setFld SEC_BOOT_CTL_RESULT 4
    | some b =>
      let r := s.loadBundle (sliceZ b 0 (s.fld SEC_BOOT_LEN_BYTES))
      r.1.setFld SEC_BOOT_CTL_RESULT (if r.2 = stOk then 1 else if r.2 = stBadSignature then 3 else 2)

/-- HOSTED_LOAD_DONE: `bundle` is what host DMA returns from SEC_BOOT_ADDR, once it does not wait (R383, R384). -/
def execHostedLoadDone (bundle : Option Bytes) (s : State) : Host.Outcome State Fault Refusal :=
  act s fun s => if s.dmaHeld then s else s.hostedDone bundle

/-! ### FW_STAGE (R452) -/

/-- An activation of a core that FW_ACTIVATE asked for is staged. -/
def State.activating (s : State) (core : Nat) : Bool :=
  s.staged.any fun c => match c.kind with
    | .activate k => k = core
    | _ => false

/-- An activation of a core is staged, be it that of a rollback (R456). -/
def State.exchanging (s : State) (core : Nat) : Bool :=
  s.activating core || s.staged.any fun c => match c.kind with
    | .rollback k => k = core
    | _ => false

/-- Writes the other bank of the cores of a kind. -/
def State.setOther (s : State) (kind mark : Nat) (img : Bytes) : State :=
  (fwCores kind).foldl (fun s c => (s.setSpare c img).setFld (fwFld SEC_FW_CORE_OTHER c) mark) s

def State.fwSource (s : State) (b : Bytes) (data : Option Bytes) : State × Option Bytes :=
  let n := u32 b 24
  if u8 b 9 = 0 then (s, data.map fun d => sliceZ d 0 n)
  else
    let r := s.memBytes (u64 b 16) n
    (r.1, some r.2.1)

def State.fwStageWork (s : State) (data : Option Bytes) (c : HostCmd) : State :=
  let b := c.bytes
  let kind := u8 b 8
  if 3 < kind || 1 < u8 b 9 || (u8 b 9 = 1 && !s.inUsable (u64 b 16) (u32 b 24)) then s.finish c.id stBadField 0 0
  else if (fwCores kind).any s.exchanging then s.finish c.id stDuplicate 0 0
  else if !s.secUp then (s.setOther kind bankEmpty []).finish c.id stSecUnavailable 0 0
  else
    let r := s.fwSource b data
    match r.2 with
    | none => (r.1.setOther kind bankEmpty []).finish c.id stHostDma 0 0
    | some img =>
      let v := r.1.verifyFw kind img
      if v.2 = stOk then (v.1.setOther kind bankStaged img).finish c.id stOk 0 0
      else (v.1.setOther kind bankEmpty []).finish c.id v.2 0 0

/-- FW_STAGE: `data` is what host DMA, or flash for a list command, returns. -/
def execFwStage (data : Option Bytes) (s : State) : Host.Outcome State Fault Refusal :=
  act s fun s => s.withCmd opFwStage fun s c => s.fwStageWork data c

/-! ### Activation (R453 to R457) -/

/-- A change that takes the activation place of its commit set. -/
def ChangeKind.takesPlace (k : ChangeKind) : Bool :=
  match k with
  | .activate _ => true
  | .rollback _ => true
  | _ => false

/-- The first boundary from one on that holds no activation. -/
def State.freePlaceGo (s : State) : Nat → Nat → Nat
  | 0, n => n
  | k + 1, n =>
    if s.staged.any fun c => c.kind.takesPlace && c.inSet && s.dueAt c = n then s.freePlaceGo k (n + 1) else n
def State.freePlace (s : State) (n : Nat) : Nat := s.freePlaceGo (s.staged.length + 1) (max n (s.tick + 1))

/-- Target of a deferred activation: no boundary comes to it. -/
def deferredTarget (core : Nat) : Nat := 2 ^ 64 + core

def State.deferMarks (s : State) (core : Nat) : State :=
  ((s.setFld (fwFld SEC_FW_CORE_DEFERRED core) 1).flag SEC_FW_STATUS_DEFER).resume core

/-- Every tile of the present tick has ended: the slack window runs (R18). -/
def State.inSlack (s : State) : Bool :=
  s.ticking && decide (s.boundaryAt + 20000 ≤ s.now) && (List.range 64).all fun t => s.tileState t != tsRunning

/-- A core writes its hand-over state to its data memory (R455). What it writes, and where, is the firmware's: the first word takes
a value that nothing fixes (log 241). -/
def State.handOver (s : State) (core : Nat) : State :=
  let f := s.freeQs 1
  f.1.modCore core fun x => { x with data := Tab.put x.data 0 (CWord.enc 0 ⟨f.2.headD 0, false⟩) }

/-- Cores due for activation at the next boundary begin to quiesce once the slack window runs (R454). -/
def State.quiesceDue (s : State) : State :=
  if s.inSlack then
    s.staged.foldl (fun s c =>
      let core := match c.kind with
        | .activate k => some k
        | .rollback k => some k
        | _ => none
      match core with
      | some k => if c.inSet && s.dueAt c = s.tick + 1 && s.fwState k = fwRunning then
          (s.handOver k).setFw k fwQuiescing |>.modCore k fun x => { x with quiesceAt := some s.now }
        else s
      | none => s) s
  else s

/-- FW_ACTIVATE. The cores of the kind whose other bank is STAGED are activated, one per boundary. -/
def State.fwActivateWork (s : State) (c : HostCmd) : State :=
  let b := c.bytes
  let kind := u8 b 8
  let fail := fun (s : State) (st : Nat) => s.finish c.id st 0 0
  let cores := (fwCores kind).filter fun k => s.fwOther k = bankStaged
  if 3 < kind then fail s stBadField
  else if (fwCores kind).any s.activating then fail s stDuplicate
  else if cores.isEmpty then fail (s.whenB s.inEpoch fun s => s.agreeReport agFirmware false) stDeviceState
  else
    let s := cores.foldl (fun (s : State) k => s.setFld (fwFld SEC_FW_CORE_PENDING k) 1) s
    let add := fun (s : State) (k target : Nat) (agreed : Option Nat) =>
      s.addChange { kind := .activate k, target := target, cmd := some c.id, armed := agreed.isNone, agreed := agreed, ctick := none }
    if s.inEpoch then (cores.foldl (fun (s : State) k => add s k 0 (some agFirmware)) s).agreeReport agFirmware true
    else if s.emergency then cores.foldl (fun s k => (add s k (deferredTarget k) none).deferMarks k) s
    else (cores.foldl (fun (p : State × Nat) k =>
      let n := p.1.freePlace p.2
      (add p.1 k n none, n + 1)) (s, u64 b 16)).1.quiesceDue

def execFwActivate (s : State) : Host.Outcome State Fault Refusal :=
  act s fun s => s.withCmd opFwActivate State.fwActivateWork

/-- Quiesce time of a core in ns. -/
def quiesceTime (core : Nat) : Nat := if core = coreSec then 200000 else if core = corePmc then 100000 else 250000

/-- Time from the exchange of the banks to the ready time; a cluster control core has until step 7. -/
def readyTime (core : Nat) : Nat := if core = coreSec then 5000000 else if core < coreCcc then 1000000 else 16000

/-- A core can be activated in a step 4 that begins at a time: it has quiesced; or it is PMC or a cluster control core and halted, while a
halted SEC or SCH waits for a reset (R451, R454). -/
def State.fwReady (s : State) (core at_ : Nat) : Bool :=
  (s.fwState core = fwHalted && (core == corePmc || decide (coreCcc ≤ core))) ||
    (s.fwState core = fwQuiescing && (s.core core).quiesceAt.any fun q => decide (q + quiesceTime core ≤ at_))

/-- The banks exchange at a boundary's step 4, and the core starts the image that is now active (R455, R456). -/
def State.exchange (s : State) (core at_ mark : Nat) : State :=
  let s := s.setFld (fwFld SEC_FW_CORE_BANK core) (1 - s.fld (fwFld SEC_FW_CORE_BANK core))
  let s := s.modCore core fun x => { x with
    activatedAt := if mark = bankPrevious then some s.boundaryAt else none,
    readyBy := some (at_ + readyTime core), crashesSince := 0, quiesceAt := none,
    applied := mark = bankPrevious, appliedTick := if mark = bankPrevious then s.tick else x.appliedTick }
  (s.setFlds [(fwFld SEC_FW_CORE_OTHER core, mark), (fwFld SEC_FW_CORE_PENDING core, 0), (fwFld SEC_FW_CORE_DEFERRED core, 0),
    (fwFld SEC_FW_CORE_CRASHES core, 0), (fwFld SEC_FW_CORE_BUILD core, imgBuild (s.fwActive core))]).setFw core fwRestarting

/-- The FW_ACTIVATE at work on a core. -/
def State.fwCmd (s : State) (core : Nat) : Option HostCmd :=
  s.hif.accepted.find? fun c => c.opcode = opFwActivate && c.started && c.result = none && u8 c.bytes 8 = fwKind core

/-- The boundary of the last activation applied to a core of a kind (R453). -/
def State.lastApplied (s : State) (kind : Nat) : Nat := (fwCores kind).foldl (fun n k => max n (s.core k).appliedTick) 0

/-- A core that an activation has started runs: the command ends with the last of its series. -/
def State.activated (s : State) (core : Nat) : State :=
  if !(s.core core).applied then s
  else
    let s := (s.modCore core fun x => { x with applied := false }).flag SEC_FW_STATUS_ACTIVATED
    match s.fwCmd core with
    | none => s
    | some c =>
      if (s.staged.any fun x => x.cmd = some c.id) || (fwCores (fwKind core)).any fun k => (s.core k).applied then s
      else s.finish c.id stOk 0 (s.lastApplied (fwKind core) % 2 ^ 48)

/-! ### Crashes (R447 to R451, R456) -/

/-- A sequencer that enters shadow mode leaves what it waits for or computes (R199); a hand-over that has issued keeps
its data (R176; DESIGN CHOICE, log 250). -/
def State.shadowTile (s : State) (t : Nat) : State :=
  let x := s.tileOf t
  if x.shadow then s
  else
  let s := s.modTile t fun x => { x with shadow := true }
  match x.wait, x.run with
  | some (.range _ _ idx), _ =>
    s.advanceTo t (x.cycle + 96 + ((imgRanges (s.svc (s.tileSvc t)).image)[idx]?).elim 0 (·.window)) true
  | some _, _ => s.advanceTo t x.cycle false
  | none, some _ => s.advanceTo t (x.cycle + lkaSpan (s.fetch t tyCommands x.pc).2 (s.bSlabOf t)) true
  | none, none => s

/-- Services that have a tile in a cluster and run the present tick. -/
def State.clusterSvcs (s : State) (cl : Nat) : List Nat :=
  (s.services.filter fun e => e.2.phase = .running && (imgTiles e.2.image).any fun t => t / 8 = cl).map (·.1)

/-- The tick work of a cluster stops. -/
def State.stopCluster (s : State) (cl : Nat) : State :=
  let s := (s.clusterSvcs cl).foldl (fun s n => s.tickFlag n rfClusterFault) s
  ((List.range 8).map fun k => 8 * cl + k).foldl (fun s t => if s.tileState t = tsRunning then s.shadowTile t else s) s

/-- What lay in SCH itself ends with SCH_RESTART (R395, R448). -/
def State.schLost (s : State) : State :=
  let copying := s.staged.filter fun c => match c.kind with
    | .start n => !(s.svc n).copied || (s.partner n).any fun p => !(s.svc p).copied
    | _ => false
  let s := copying.foldl (fun s c => s.withdraw c stSchRestart) s
  (s.hif.accepted.filter fun c => !c.started && c.result = none).foldl (fun s c => s.finish c.id stSchRestart 0 (noInfo c.opcode)) s

/-- The signed command in check is that of the start-up section (R532). -/
def State.startSet (s : State) : Bool :=
  s.boot.soundpostWait && !s.boot.startDue && s.spp.signedSets.all fun (w : WriteSet) => !w.start

/-- What needed SEC ends as unavailable (R448, R523); with the start-up section's signed command its set is rejected. -/
def State.secLost (s : State) : State :=
  let s := s.boot.attest.foldl (fun s id => s.finish id stSecUnavailable 0 0) s
  let s := s.setBoot { s.boot with attest := [], secOp := none }
  let s := s.whenB (s.bit SEC_CTL_BUSY) fun s => s.setFlds [(SEC_CTL_BUSY, 0), (SEC_CTL_RESULT, 4)]
  s.whenB s.spp.checking.isSome fun s =>
    let s := s.whenB s.startSet fun s => s.setBoot { s.boot with soundpostWait := false }
    (s.setSpp { s.spp with checking := none }).setFlds [(SPP_SCMD_CTL_BUSY, 0), (SPP_SCMD_CTL_RESULT, 8)]

/-- PMC is down: the envelope request is withdrawn, and a write in progress is given up (R486). -/
def State.pmcLost (s : State) : State :=
  let s := s.setPower { s.power with write := none, nacks := 0 }
  ((s.setFld PWR_AVS_BUSY 0).setFld PWR_CTL_ENV_REQ (s.fld PWR_STATE_ENV_ACT)).flag PWR_STATUS_ENV_WITHDRAWN

/-- Cluster control cores that run the failed image and hold the previous one. -/
def State.rollCores (s : State) (core : Nat) : List Nat :=
  if core < coreCcc then [core]
  else (fwCores coreCcc).filter fun k => s.fwOther k = bankPrevious && (s.activeBank k).header == (s.activeBank core).header

/-- Stages a rollback of a core for the next boundary, with its series (R456). -/
def State.rollBack (s : State) (core : Nat) : State :=
  let rest := s.staged.filter fun c => match c.kind with
    | .activate k => fwKind k = fwKind core
    | _ => false
  let s := rest.foldl (fun s c => s.withdraw { c with cmd := none } stCancelled) (
    { s with staged := s.staged.map fun c => if rest.contains c then { c with cmd := none } else c })
  let s := match s.fwCmd core with
    | some c => s.finish c.id stCancelled 0 0
    | none => s
  let s := (s.rollCores core).foldl (fun (s : State) k =>
    if s.staged.any fun c => c.kind = .rollback k then s
    else s.addChange { kind := .rollback k, target := s.tick + 1, cmd := none, armed := true, agreed := none, ctick := none }) s
  { s with staged := (s.staged.foldl (fun (p : List Change × Nat) c => match c.kind with
      | .rollback _ => (p.1 ++ [{ c with target := p.2 }], p.2 + 1)
      | _ => (p.1 ++ [c], p.2)) ([], s.tick + 1)).1 }

/-- A halted core (R451). -/
def State.halt (s : State) (core : Nat) : State := ((s.setFw core fwHalted).flag SEC_FW_STATUS_HALT).sppNote SPP_STATUS_FW_HALT

/-- A core crashes with a cause code. -/
def State.crash (s : State) (core cause : Nat) : State :=
  let build := imgBuild (s.fwActive core) % 65536
  let s := s.quiet SEC_FW_STATUS_CRASH
  let s := s.whenB (s.eventOn SEC_FW_STATUS_CRASH) fun s =>
    s.event 0x0F SEC_FW_STATUS_CRASH.lo (if coreCcc ≤ core then 4 else 5) (leBytes 1 core ++ leBytes 1 cause ++ leBytes 2 build)
  let s := (s.count SEC_FW_CRASH_COUNT_COUNT 1).countUp (fwFld SEC_FW_CORE_CRASHES core)
  let s := s.firstRecord SEC_FW_CRASH_REC_VALID
    [(SEC_FW_CRASH_REC_CORE, core), (SEC_FW_CRASH_REC_CAUSE, cause), (SEC_FW_CRASH_REC_TICK, s.tick),
      (SEC_FW_CRASH_REC_BUILD, build)]
  let x := s.core core
  let fresh := x.activatedAt.any fun t => decide (s.now < t + 10000000000)
  let since := if fresh then x.crashesSince + 1 else x.crashesSince
  let recent := (x.recent.filter fun t => decide (s.now < t + 60000000000)) ++ [s.now]
  let s := s.modCore core fun x => { x with
    crashedAt := s.now, recent := recent, crashesSince := since, readyBy := none, quiesceAt := none }
  let s := s.setFw core fwRestarting
  let roll := fresh && decide (2 ≤ since) && s.fwOther core = bankPrevious
  let s := if roll then s.rollBack core else if 8 ≤ recent.length then s.halt core else s
  if core = coreSch then s.schLost
  else if core = coreSec then s.secLost
  else if core = corePmc then s.pmcLost
  else s.stopCluster (core - coreCcc)

/-- A core executes, or starts to (R447). -/
def State.fwAlive (s : State) (core : Nat) : Bool := s.fwUp core || s.fwState core == fwRestarting

/-- A core's watchdog expires; those of the cluster control cores run while the device ticks. -/
def execWatchdogExpiry (core : Nat) (s : State) : Host.Outcome State Fault Refusal :=
  act s fun s => if s.fwAlive core && (core < coreCcc || s.ticking) then (s.crash core 1).quiesceDue else s

/-- A core meets a fault: a word of its memories whose stored bits have inverted crashes it when it is uncorrectable, and is
delivered corrected otherwise (R314, R447). -/
def State.coreFault (s : State) (core : Nat) (fault : CoreFault) : State :=
  match fault with
  | .exec => if s.fwAlive core then (s.crash core 2).quiesceDue else s
  | .word data w flips =>
    let s := s.flipCore core data w flips
    if s.fwAlive core && s.coreWord core data w == .uncorrectable then (s.crash core 3).quiesceDue else s

def execCoreFault (core : Nat) (fault : CoreFault) (s : State) : Host.Outcome State Fault Refusal :=
  act s fun s => s.coreFault core fault

/-- A newly activated core is not running at its ready time (R455). -/
def execActivationReadyTimeout (core : Nat) (s : State) : Host.Outcome State Fault Refusal :=
  act s fun s =>
    match (s.core core).readyBy with
    | none => s
    | some t => (s.upTo t).crash core 4

/-- A core that restarts, or that an activation has started, runs. SEC verifies its active image first; an image that
comes to run after its ready time has crashed before. -/
def State.coreRuns (s : State) (core : Nat) : State :=
  if s.fwState core != fwRestarting then s
  else
    match (s.core core).readyBy with
    | some t =>
      if t < s.now then s.crash core 4
      else
        ((s.modCore core fun x => { x with readyBy := none }).setFw core fwRunning).activated core
    | none =>
      let v := if core = coreSec then s.verifyFw coreSec (s.fwActive core) else (s, stOk)
      if v.2 != stOk then v.1
      else (v.1.setFw core fwRunning).activated core

def execCoreRestarted (core : Nat) (s : State) : Host.Outcome State Fault Refusal :=
  act s fun s => (s.coreRuns core).programsEnd.quiesceDue.pmcMove

/-- CLEAR_MS reaches 0: deferred activations are staged again, one per boundary (R457, R492). -/
def State.clearExpiry (s : State) : State :=
  match s.power.clearAt with
  | none => s
  | some t =>
    let s := ((s.upTo t).setPower { s.power with clearAt := none }).setFld PWR_EMERG_CLEAR_MS 0
    ((List.range 11).foldl (fun (s : State) k =>
      if s.staged.any (fun (c : Change) => c.kind = .activate k && c.target = deferredTarget k) then
        let n := s.freePlace 0
        ({ s with staged := s.staged.map fun (c : Change) =>
            if c.kind = ChangeKind.activate k && c.target = deferredTarget k then { c with target := n } else c }).setFld
          (fwFld SEC_FW_CORE_DEFERRED k) 0
      else s) s).quiesceDue

def execEmergencyClearExpiry (s : State) : Host.Outcome State Fault Refusal := act s State.clearExpiry

end Sys2Proof.Machine
end

