-- ==== Sys2Proof/Machine/Security.lean ====
section
/-! DEFINITION. Attestation quotes, audit records and the fuse operations of SEC (R416, R512, R513, R517 to R523). -/

namespace Sys2Proof.Machine

/-! ### The settings of a consort (R338, R416) -/

/-- CMP_TCHKn: format and check of a table slot. -/
def State.tchk (s : State) (k : Nat) : Nat :=
  match Tab.look s.mem.tables k with
  | some t => t.format * 65536 + t.tchk
  | none => 0

/-- The consort settings record, with the configuration epoch number in its first bytes or zeros. -/
def State.settingsRecord (s : State) (epoch : Nat) : Bytes :=
  leBytes 4 epoch ++ leBytes 4 (s.fld TCK_PERIOD_ACT_PERIOD_US) ++ leBytes 4 (s.fld TCK_PHASE_PHASE_US) ++
    leBytes 1 (s.fld TCK_CTL_SRC_ACTIVE) ++ leBytes 1 (s.fld INT_PTP_CTL_DOMAIN) ++ leBytes 2 (s.fld CNS_ETHERTYPE_TYPE) ++
    leBytes 4 (s.fld CNS_CONSORT_ID_ID) ++ leBytes 4 (s.regAt CNS_TOL.off) ++ leBytes 4 (s.regAt CNS_TIMING.off) ++
    leBytes 8 (s.regAt CNS_GROUP_MAC.off) ++ (List.range 16).flatMap (fun k => leBytes 4 (s.tchk k)) ++ List.replicate 28 0

/-- CONFIG_HASH, and the settings hash. -/
def State.configHash (s : State) : Bytes := sha512_256 (s.settingsRecord s.configEpoch)
def State.settingsHash (s : State) : Bytes := sha512_256 (s.settingsRecord 0)

/-! ### Audit records (R519 to R522) -/

/-- FLAGS of a result record that an audit record keeps. -/
def auditMask : Nat := 0x1C7F7

/-- The entry of an input whose HELD buffer is as it stands for the tick. -/
def Input.entry (i : Input) : Bytes :=
  let b := i.held
  let head := b.bytes 64
  let camera := i.kind = kindCamera
  padTo 32 b.landing ++ leBytes 1 i.snap ++ leBytes 1 (if camera then u8 head 29 else b2n b.subst) ++
    leBytes 2 (if camera then u16 head 30 else min b.age 0xFFFF) ++ leBytes 4 b.marked

/-- The audit record of a tick of a program. -/
def auditRecord (img prev : Bytes) (l : TickLog) : Bytes :=
  ascii "KAUD" ++ leBytes 2 1 ++ leBytes 1 (imgClass img) ++ [0] ++ leBytes 2 (l.inputs.length / 40) ++ leBytes 2 0 ++
    leBytes 4 (l.flags &&& auditMask) ++ padTo 32 prev ++ sha512_256 img ++ padTo 32 l.epochDigest ++ padTo 32 l.history ++
    l.inputs

/-- The service whose chain a service's ticks continue: a pair shares the consort service's. -/
def State.chainOwner (s : State) (n : Nat) : Nat := (s.partnerOf n).getD n

/-! ### Quotes (R517, R518) -/

def SvcPhase.quoteCode (p : SvcPhase) : Nat := if p = .standby then 6 else p.code

/-- Services that a quote lists: staged, running, suspended or on standby. -/
def State.quoted (s : State) : List Nat := (s.services.filter fun e => e.2.phase.holds).map (·.1)

def State.quoteEntry (s : State) (n : Nat) : Bytes :=
  let v := s.svc n
  let o := s.svc (s.chainOwner n)
  leBytes 1 n ++ leBytes 1 v.phase.quoteCode ++ leBytes 1 v.cls ++ leBytes 1 (v.slot.getD 0xFF) ++ leBytes 4 0 ++
    leBytes 8 o.chainTick ++ sha512_256 v.image ++ s.svcDigest n ++
    (if o.chainTick = 0 then List.replicate 32 0 else padTo 32 o.chain)

/-- The signed part of a quote but for its signature. -/
def State.quoteBody (s : State) (nonce : Bytes) : Bytes :=
  let l := s.quoted
  ascii "KATQ" ++ leBytes 2 1 ++ leBytes 1 l.length ++
    leBytes 1 (b2n s.boot.fuses.ownerHash.isSome + 2 * b2n s.sppOn + 4 * b2n s.inEpoch) ++ leBytes 8 deviceValue ++
    padTo 32 nonce ++ leBytes 8 s.tick ++ leBytes 8 (s.fld TCK_BOUNDARY_TS_TIME_NS) ++ leBytes 4 s.boot.fuses.idPart ++
    leBytes 4 s.modelEpoch ++ leBytes 4 s.configEpoch ++ leBytes 4 (s.fld CNS_EPOCH_EPOCH) ++ s.fwHash ++ s.configHash ++
    padTo 32 (s.boot.fuses.ownerHash.getD []) ++ leBytes 4 s.boot.fuses.minSvn ++ leBytes 4 (s.fld SPP_SEQ_SEQ) ++
    List.replicate 72 0 ++ l.flatMap s.quoteEntry ++ s.boot.cert

def State.quote (s : State) (nonce : Bytes) : Bytes :=
  let b := s.quoteBody nonce
  b ++ edSign idkSeed b

/-- A signed quote is written, and its ATTEST ends. -/
def State.quoteOut (s : State) (dmaOk : Bool) (id : Nat) (q : Bytes) : State :=
  match s.cmd id with
  | none => s
  | some c =>
    if !dmaOk then s.finish id stHostDma 0 0
    else ((s.dma (u64 c.bytes 16) q).count SEC_ATTEST_COUNT_COUNT 1).finish id stOk 0 q.length

/-- SEC signs the quote of one ATTEST, and writes it where host DMA does not wait. -/
def State.quote1 (s : State) (dmaOk : Bool) (id : Nat) : State :=
  match s.cmd id with
  | none => s
  | some c =>
    let n := 512 + 112 * s.quoted.length
    if s.bit SEC_STATUS_CERT_BAD || !s.secUp then s.finish id stSecUnavailable 0 0
    else if u32 c.bytes 24 < n then s.finish id stBadField 0 0
    else
      let q := s.quote (slice c.bytes 32 32)
      if s.dmaHeld then s.setBoot { s.boot with quotesHeld := s.boot.quotesHeld ++ [(id, q)] } else s.quoteOut dmaOk id q

/-- Quotes that have waited for host DMA are written. -/
def State.quotesFlush (s : State) : State :=
  if s.dmaHeld then s
  else s.boot.quotesHeld.foldl (fun s e => s.quoteOut true e.1 e.2) (s.setBoot { s.boot with quotesHeld := [] })

def State.attestWork (s : State) (c : HostCmd) : State :=
  if c.fromList then s.finish c.id stBadField 0 0
  else if !s.secUp || s.bit SEC_STATUS_CERT_BAD then s.finish c.id stSecUnavailable 0 0
  else s.setBoot { s.boot with attest := s.boot.attest ++ [c.id] }

/-- The quotes of a boundary, once its step 3 has ended: those of every ATTEST accepted before. -/
def State.quotes (s : State) (dmaOk : Bool) : State :=
  let due := s.hif.accepted.filter fun c => c.opcode = opAttest && !c.started && c.result = none
  let s := due.foldl (fun (s : State) c => (s.begin c.id).attestWork c) s
  s.boot.attest.foldl (fun s id => s.quote1 dmaOk id) (s.setBoot { s.boot with attest := [] })

def execAttest (s : State) : Host.Outcome State Fault Refusal := act s fun s => s.withCmd opAttest State.attestWork

/-! ### Fuse operations (R512, R513) -/

/-- The key in SEC_PROV_BUF. -/
def State.provBuf (s : State) : Bytes := (List.range 8).flatMap fun i => leBytes 4 (s.fld (SEC_PROV_BUF_DATA.at (4 * i)))

/-- A fuse operation is refused with a RESULT. -/
def State.secRefuse (s : State) (result : Nat) : State := (s.setFld SEC_CTL_RESULT result).flag SEC_STATUS_CMD_REJ

/-- Begins a fuse operation. -/
def State.secBegin (s : State) (op : FuseOp) : State :=
  (s.setBoot { s.boot with secOp := some op }).setFlds [(SEC_CTL_BUSY, 1), (SEC_CTL_RESULT, 0)]

/-- The smallest SVN of the active and PREVIOUS images, at most 63. -/
def State.svnFloor (s : State) : Nat :=
  (List.range 11).foldl (fun m c =>
    let m := min m (imgSvn (s.fwActive c))
    if s.fwOther c = bankPrevious then min m (imgSvn (s.fwSpare c)) else m) 63

/-- A core's other bank is STAGED, or an activation is staged. -/
def State.fwPending (s : State) : Bool := (List.range 11).any fun c => s.fwOther c == bankStaged || s.exchanging c

/-- A write of 1 to SEC_CTL.PROVISION. -/
def State.provisionGo (s : State) : State :=
  if s.bit SEC_CTL_BUSY then s
  else if !s.secUp then s.secRefuse 4
  else if s.boot.fuses.ownerHash.isSome then s.secRefuse 2
  else s.secBegin (.provision s.provBuf)

/-- A write of 1 to SEC_CTL.SVN_COMMIT. -/
def State.svnGo (s : State) : State :=
  if s.bit SEC_CTL_BUSY then s
  else if !s.secUp then s.secRefuse 4
  else if s.fwPending then s.secRefuse 3
  else s.secBegin (.svn s.svnFloor)

def execProvision (s : State) : Host.Outcome State Fault Refusal := hostAct SEC_CTL.off s State.provisionGo

def execSvnCommit (s : State) : Host.Outcome State Fault Refusal := hostAct SEC_CTL.off s State.svnGo

/-- The fuse operation in progress ends. -/
def State.secDone (s : State) (ok : Bool) : State :=
  match s.boot.secOp with
  | none => s
  | some op =>
    let s := (s.setBoot { s.boot with secOp := none }).setFld SEC_CTL_BUSY 0
    let f := s.boot.fuses
    match op with
    | .provision key =>
      if ok then
        ((s.setBoot { s.boot with fuses := { f with ownerHash := some (sha512_256 key) } }).setFld SEC_CTL_RESULT 1).flag
          SEC_STATUS_PROVISIONED
      else s.setFld SEC_CTL_RESULT 5
    | .svn v =>
      if v ≤ f.minSvn then s.setFld SEC_CTL_RESULT 1
      else if ok then
        ((s.setBoot { s.boot with fuses := { f with minSvn := v } }).setFld SEC_CTL_RESULT 1).flag SEC_STATUS_SVN_RAISED
      else s.setFld SEC_CTL_RESULT 5

/-- SEC_OPERATION_DONE: `fuseOk` false is a failed fuse write. -/
def execSecOperationDone (fuseOk : Bool) (s : State) : Host.Outcome State Fault Refusal :=
  act s fun s => s.secDone fuseOk

end Sys2Proof.Machine
end

