-- ==== Sys2Proof/Machine/Consort.lean ====
section
/-! DEFINITION. The consort: Worham frames received, tokens and verdicts, forming and leaving an epoch, agreed changes,
shared tensors, chained sessions, and writes of the CNS registers (R282 to R284, R410 to R437). -/

namespace Sys2Proof.Machine

/-! ### Frames received (R413, R414, R432) -/

def State.cnsOn (s : State) : Bool := s.bit CNS_CTL_EN

/-- Fields of the body of a Worham frame. -/
def cnType (b : Bytes) : Nat := u8 b 1
def cnSrc (b : Bytes) : Nat := u8 b 2
def cnDst (b : Bytes) : Nat := u8 b 3
def cnEpoch (b : Bytes) : Nat := u32 b 8

def cnTypes : List Nat :=
  [tyToken, tyJoin, tyPropose, tyAccept, tyAbort, tyArm, tyApply, tyCancel, tyTensor, tyChainCmd, tyChainData,
    tyChainCredit, tyChainStatus]
def isChain (type : Nat) : Bool := tyChainCmd ≤ type && type ≤ tyChainStatus

/-- A chain frame that this member forwards. -/
def State.forwards (s : State) (b : Bytes) : Bool :=
  isChain (cnType b) && s.cnsMember < cnDst b && cnDst b < 16

/-- A Worham frame is dropped; a token is from a member outside the epoch's mask (R417). -/
def State.cnsDrops (s : State) (b : Bytes) : Bool :=
  (cnType b == tyToken && !(s.fld CNS_MASK_MEMBERS).testBit (cnSrc b)) ||
  u8 b 0 != 1 || !cnTypes.contains (cnType b) || u32 b 4 != s.fld CNS_CONSORT_ID_ID || cnSrc b == s.cnsMember ||
    15 < cnSrc b || !(cnDst b == 0xFF || cnDst b == s.cnsMember || s.forwards b)

/-- A chain frame that another member passed on: it bears that member's address (R432). -/
def State.relayed (s : State) (f : RxFrame) : Bool :=
  (cnType f.body == tyChainCmd || cnType f.body == tyChainData) &&
    s.consort.peers.any fun e => e.1 != cnSrc f.body && e.2.1 == some f.src

/-- The sender is known for 1 s, and its address and port are recorded; a frame that another member passed on gives neither
(DEDUCED, log 149). -/
def State.cnsHeard (s : State) (f : RxFrame) : State :=
  let m := cnSrc f.body
  let p := if s.relayed f then
      let old := Tab.lookD s.consort.peers m (none, f.port, s.now)
      (old.1, old.2.1, s.now)
    else (some f.src, f.port, s.now)
  (s.setCns { s.consort with peers := Tab.put s.consort.peers m p }).setFld CNS_MASK_KNOWN
    (s.fld CNS_MASK_KNOWN ||| 2 ^ m)

/-- A frame of the Worham EtherType arrives: kept for its unit, or dropped. -/
def State.cnsReceive (s : State) (f : RxFrame) : State :=
  if !s.cnsOn then s
  else if s.cnsDrops f.body then s.count CNS_RX_DROP_COUNT_COUNT 1
  else
    let s := s.cnsHeard f
    s.setIntake { s.intake with rx := s.intake.rx ++ [{ f with waited := s.mem.tableOp.map (·.1) }] }

/-- Takes the earliest Worham frame of a type. -/
def State.takeCns (s : State) (type : Nat) (act : State → RxFrame → State) : State :=
  match takeFirst (fun (f : RxFrame) => f.etherType = s.fld CNS_ETHERTYPE_TYPE && cnType f.body = type) s.intake.rx with
  | none => s
  | some (f, rest) => act (s.setIntake { s.intake with rx := rest }) f

/-- Takes a chain frame: forwarded unchanged where it is meant for a member above this one. -/
def State.takeChain (s : State) (type : Nat) (act : State → RxFrame → State) : State :=
  s.takeCns type fun s f =>
    if cnDst f.body = s.cnsMember || cnDst f.body = 0xFF then act s f
    else
      match s.chainNext.bind s.peerMac with
      | none => s
      | some mac =>
        let p := s.fld CNS_CTL_PORT
        s.sendEth p (min 6 (s.fld CNS_CTL_PCP_TENSOR)) mac (s.vlanOf p (s.fld CNS_CTL_VLAN)) f.etherType f.body

def State.memberExpired (s : State) (m : Nat) : State :=
  match Tab.look s.consort.peers m with
  | none => s
  | some (_, _, t) =>
    if (s.fld CNS_MASK_KNOWN).testBit m then
      (s.upTo (t + 1000000000)).setFld CNS_MASK_KNOWN (putBits (s.fld CNS_MASK_KNOWN) m m 0)
    else s

def execKnownExpiry (member : Nat) (s : State) : Host.Outcome State Fault Refusal := act s fun s => s.memberExpired member

/-! ### Tokens (R411, R415, R422) -/

/-- An integer saturated to 32 bits, as bytes. -/
def sat32Bytes (x : Int) : Bytes := leBytes 4 (trunc 32 (clampInt (-2147483648) 2147483647 x))

/-- INT_PTP_OFFSET in ns. -/
def State.ptpOffset (s : State) : Int := sext 64 (s.fld INT_PTP_OFFSET_OFFSET)

/-- The body of this member's TOKEN, as the state stands. -/
def State.tokenNow (s : State) : Bytes :=
  ctickBytes s.ctick ++ leBytes 8 (s.fld TCK_BOUNDARY_TS_TIME_NS) ++ leBytes 4 s.modelEpoch ++ leBytes 4 s.configEpoch ++
    s.configHash ++ s.fwHash ++ sat32Bytes s.ptpOffset ++
    leBytes 1 (s.fld TCK_STATUS_HOLDOVER + 2 * s.fld INT_PTP_STATUS_LOCK) ++ List.replicate 3 0

/-- Fields of a TOKEN or JOIN frame, by their places in its body. -/
def tkTick (b : Bytes) : Bytes := slice b 16 8
def tkTime (b : Bytes) : Nat := u64 b 24
def tkModel (b : Bytes) : Nat := u32 b 32
def tkConfig (b : Bytes) : Nat := u32 b 36
def tkConfigHash (b : Bytes) : Bytes := slice b 40 32
def tkFwHash (b : Bytes) : Bytes := slice b 72 32
def tkOffset (b : Bytes) : Int := sext 32 (u32 b 104)
def jnSettings (b : Bytes) : Bytes := slice b 112 32
def jnLast (b : Bytes) : Nat := u32 b 144

/-- Copies of a token (R436). -/
def State.cnsRepeat (s : State) : Nat := min 4 (max 1 (s.fld CNS_TIMING_REPEAT))

/-- Time of the next copy of the token, and of the verdict. -/
def State.tokenTime (s : State) : Nat := s.boundaryAt + 100000 + 200000 * s.consort.copies
def State.verdictTime (s : State) : Nat := s.boundaryAt + 1000 * s.fld CNS_TIMING_DEADLINE_US

def State.tokenOut (s : State) : State :=
  if !s.ticking || !s.up || !(s.inEpoch || s.cnsOn) || s.cnsRepeat ≤ s.consort.copies then s
  else
    let s := s.upTo s.tokenTime
    let s := s.setCns { s.consort with copies := s.consort.copies + 1 }
    if s.inEpoch then s.cnsGroup tyToken s.consort.token
    else s.cnsGroup tyJoin (s.consort.token ++ s.settingsHash ++ leBytes 4 s.consort.lastEpoch ++ leBytes 4 0)

def execTokenSend (s : State) : Host.Outcome State Fault Refusal := act s State.tokenOut

/-- The first copy of a member's token decides, of each consort tick (R417). -/
def firstCopy (l : List (Nat × Bytes)) (b : Bytes) : List (Nat × Bytes) :=
  if l.any fun e => e.1 = cnSrc b && tkTick e.2 = tkTick b then l else l ++ [(cnSrc b, b)]

def State.tokenIn (s : State) (f : RxFrame) : State :=
  if (s.fld CNS_MASK_MEMBERS).testBit (cnSrc f.body) then
    s.setCns { s.consort with tokens := firstCopy s.consort.tokens f.body }
  else s.count CNS_RX_DROP_COUNT_COUNT 1

def execToken (s : State) : Host.Outcome State Fault Refusal := act s fun s => s.takeCns tyToken State.tokenIn

/-- The leader hears a JOIN. -/
def State.joinIn (s : State) (f : RxFrame) : State :=
  if s.cnsLeader then s.setCns { s.consort with joins := firstCopy s.consort.joins f.body } else s

def execJoin (s : State) : Host.Outcome State Fault Refusal := act s fun s => s.takeCns tyJoin State.joinIn

/-! ### The verdict (R417, R420) -/

/-- Mismatch kinds. -/
def mkEpoch : Nat := 0
def mkConfig : Nat := 1
def mkFirmware : Nat := 2
def mkModel : Nat := 3
def mkTick : Nat := 4
def mkTime : Nat := 5
def mkMissing : Nat := 6

/-- TOL_US in ns. -/
def State.cnsTol (s : State) : Nat := 1000 * max 1 (s.fld CNS_TOL_TOL_US)

/-- A token or JOIN fails the TIME check against this member. -/
def State.timeFails (s : State) (b : Bytes) : Bool :=
  decide (s.cnsTol < (tkOffset b).natAbs) ||
    decide (s.cnsTol < ((tkTime b : Int) - (s.fld TCK_BOUNDARY_TS_TIME_NS : Int)).natAbs)

/-- This member's own state fails the TIME check. -/
def State.ownTimeFails (s : State) : Bool :=
  decide (s.cnsTol < s.ptpOffset.natAbs) ||
    s.consort.holdSince.any fun t => decide (t + 1000000 * max 1 (s.fld CNS_TOL_HOLD_MS) < s.now)

/-- Kinds that a token fails, against this member's own token. -/
def State.tokenKinds (s : State) (b : Bytes) : List Nat :=
  let own := List.replicate 16 0 ++ s.consort.token
  let pick := fun (k : Nat) (c : Bool) => if c then [k] else []
  pick mkEpoch (cnEpoch b != s.fld CNS_EPOCH_EPOCH) ++
    pick mkConfig (tkConfig b != tkConfig own || tkConfigHash b != tkConfigHash own) ++
    pick mkFirmware (tkFwHash b != tkFwHash own) ++ pick mkModel (tkModel b != tkModel own) ++
    pick mkTick (tkTick b != tkTick own) ++ pick mkTime (s.timeFails b)

/-- A token or JOIN is one of the present tick, by this member's count. -/
def State.ofTick (s : State) (b : Bytes) : Bool := tkTick b == tkTick (List.replicate 16 0 ++ s.consort.token)

/-- Members of the epoch's mask other than this one of which no token of the tick has come. -/
def State.missingTokens (s : State) : List Nat :=
  (bitList 16 (s.fld CNS_MASK_MEMBERS)).filter fun m =>
    m != s.cnsMember && !s.consort.tokens.any fun e => e.1 = m && s.ofTick e.2

/-- Every failure of the tick: (member, kind). -/
def State.mismatches (s : State) : List (Nat × Nat) :=
  s.consort.tokens.flatMap (fun e => (s.tokenKinds e.2).map fun k => (e.1, k)) ++
    (s.missingTokens.map fun m => (m, mkMissing)) ++ (if s.ownTimeFails then [(s.cnsMember, mkTime)] else [])

def State.judgeTick (s : State) : State :=
  let l := s.mismatches
  let s := s.count CNS_TOKEN_MISS_COUNT_COUNT s.missingTokens.length
  let s := s.setCns { s.consort with verdict := some l.isEmpty }
  if l.isEmpty then s
  else
    (s.firstRecord CNS_MISMATCH_REC_VALID
      [(CNS_MISMATCH_REC_KINDS, ofBits (l.map (·.2))), (CNS_MISMATCH_REC_MEMBERS, ofBits (l.map (·.1))),
        (CNS_MISMATCH_REC_CTICK, trunc 32 s.ctick)]).flag CNS_STATUS_MISMATCH

/-! ### Forming an epoch (R423 to R426) -/

/-- Ticks from the leader's present consort tick to a boundary that it chooses. -/
def cnsLead : Int := 8

/-- Stages an epoch for consort tick T on this member. -/
def State.stageEpoch (s : State) (epoch mask : Nat) (t : Int) (model config : Nat) : State :=
  let s := { s with staged := s.staged.filter fun (c : Change) => c.kind != ChangeKind.consort }
  (s.setCns { s.consort with staged := some (epoch, mask, t.toNat, model, config) }).addChange
    { kind := ChangeKind.consort, target := s.localTick t, cmd := none, armed := true, agreed := none, ctick := some t }

/-- The staged epoch is withdrawn, and a proposal of this member with it. -/
def State.unstageEpoch (s : State) : State :=
  let s := { s with staged := s.staged.filter fun (c : Change) => c.kind != ChangeKind.consort }
  s.setCns { s.consort with staged := none, proposal := none }

/-- The JOINs allow a proposal. -/
def State.mayPropose (s : State) : Bool :=
  let own := List.replicate 16 0 ++ s.consort.token
  let joins := s.consort.joins.filter fun e => s.ofTick e.2
  s.cnsLeader && s.cnsOn && !s.inEpoch && s.ptpMode && s.consort.proposal.isNone && s.consort.staged.isNone &&
    decide (s.consort.holdOff ≤ s.ctick.toNat) &&
    (bitList 16 (s.fld CNS_EPOCH_CTL_MASK)).all (fun m => m == 0 || joins.any fun e => e.1 = m) &&
    !s.ownTimeFails &&
    joins.all (fun e => !s.timeFails e.2 && jnSettings e.2 == s.settingsHash && tkFwHash e.2 == tkFwHash own) &&
    (s.consort.form || (s.bit CNS_CTL_AUTO_REJOIN && joins.all fun e =>
      tkModel e.2 == tkModel own && tkConfig e.2 == tkConfig own && jnLast e.2 == s.consort.lastEpoch))

def State.proposeOut (s : State) : State :=
  let epoch := (s.consort.joins.foldl (fun n e => max n (jnLast e.2)) s.consort.lastEpoch + 1) % 2 ^ 32
  let mask := s.fld CNS_EPOCH_CTL_MASK
  let t := s.ctick + cnsLead
  let s := s.setCns { s.consort with proposal := some (epoch, mask, t.toNat, [0]) }
  let s := s.whenB (mask.testBit 0) fun s => s.stageEpoch epoch mask t s.modelEpoch s.configEpoch
  s.cnsGroup tyPropose (leBytes 4 epoch ++ leBytes 2 mask ++ leBytes 2 0 ++ ctickBytes t ++ leBytes 4 s.modelEpoch ++
    leBytes 4 s.configEpoch ++ s.configHash ++ s.fwHash)

/-- The verdict of the present tick is formed at its deadline; outside an epoch the leader may propose one. Once EN is cleared
the epoch ends without a mismatch record (R421): nothing is judged (DESIGN CHOICE, log 150). -/
def State.verdictNow (s : State) : State :=
  if !s.ticking || !s.up || s.consort.verdict.isSome then s
  else
    let s := s.upTo s.verdictTime
    if s.inEpoch && s.cnsOn then s.judgeTick
    else if s.inEpoch then s
    else
      let s := s.setCns { s.consort with verdict := some true }
      s.whenB s.mayPropose State.proposeOut

def execVerdict (s : State) : Host.Outcome State Fault Refusal := act s State.verdictNow

/-- The check of a PROPOSE: RESULT of the ACCEPT. -/
def State.proposalResult (s : State) (b : Bytes) : Nat :=
  if slice b 72 32 != s.fwHash then mkFirmware + 1
  else if slice b 40 32 != sha512_256 (s.settingsRecord (u32 b 36)) then mkConfig + 1
  else if sext 64 (u64 b 24) < s.ctick + 4 then mkTick + 1
  else 0

/-- A PROPOSE is checked and answered; a member that does not follow PTP takes no part and answers none (R411; DESIGN CHOICE, log
239). -/
def State.proposeIn (s : State) (f : RxFrame) : State :=
  let b := f.body
  if cnSrc b != 0 || s.inEpoch || !s.ptpMode || !(u16 b 20).testBit s.cnsMember then s
  else
    let r := s.proposalResult b
    let s := s.whenB (r = 0) fun s => s.stageEpoch (u32 b 16) (u16 b 20) (sext 64 (u64 b 24)) (u32 b 32) (u32 b 36)
    s.cnsTo tyAccept 0 (leBytes 4 (u32 b 16) ++ leBytes 1 r ++ List.replicate 3 0)

def execPropose (s : State) : Host.Outcome State Fault Refusal := act s fun s => s.takeCns tyPropose State.proposeIn

def State.acceptIn (s : State) (f : RxFrame) : State :=
  match s.consort.proposal with
  | none => s
  | some (e, mask, t, l) =>
    if u32 f.body 16 = e && u8 f.body 20 = 0 then
      s.setCns { s.consort with proposal := some (e, mask, t, insertNat (cnSrc f.body) l) }
    else s

def execAccept (s : State) : Host.Outcome State Fault Refusal := act s fun s => s.takeCns tyAccept State.acceptIn

/-- Body of an ABORT. -/
def abortBody (epoch kind : Nat) (t : Int) : Bytes := leBytes 4 epoch ++ leBytes 1 kind ++ List.replicate 3 0 ++ ctickBytes t

/-- The deadline of consort tick T − 4 has come without every ACCEPT (R425). -/
def State.proposeLate (s : State) : State :=
  match s.consort.proposal with
  | none => s
  | some (e, mask, t, l) =>
    if s.ctick + 4 < t || (bitList 16 mask).all (fun m => l.contains m) then s
    else
      let s := if s.ctick + 4 = t then s.upTo s.verdictTime else s
      let s := s.cnsGroup tyAbort (abortBody e 0 t)
      let s := s.unstageEpoch
      (s.setCns { s.consort with holdOff := (s.ctick + cnsLead).toNat }).flag CNS_STATUS_PROPOSE_FAIL

def execProposeTimeout (s : State) : Host.Outcome State Fault Refusal := act s State.proposeLate

def State.abortIn (s : State) (f : RxFrame) : State :=
  let b := f.body
  let e := u32 b 16
  if cnSrc b != 0 then s
  else if u8 b 20 = 0 then
    match s.consort.staged with
    | some (x, _) => if x = e then s.unstageEpoch else s
    | none => s
  else if u8 b 20 = 1 && s.inEpoch && e = s.fld CNS_EPOCH_EPOCH then
    s.setCns { s.consort with endAt := some (u64 b 24) }
  else s

def execAbortFrame (s : State) : Host.Outcome State Fault Refusal := act s fun s => s.takeCns tyAbort State.abortIn

/-! ### Agreed changes (R282, R428) -/

/-- KIND of an agreement frame. -/
def agKind (b : Bytes) : Nat := u8 b 16

def State.armIn (s : State) (f : RxFrame) : State :=
  let k := agKind f.body
  if !s.cnsLeader || !s.inEpoch || 2 < k then s
  else if u8 f.body 17 = 0 then
    let a := s.agreement k
    ((s.setAgreement k { a with armed := insertNat (cnSrc f.body) a.armed }).agreeSettle k).quiesceDue
  else s.leaderCancel k

def execArm (s : State) : Host.Outcome State Fault Refusal := act s fun s => s.takeCns tyArm State.armIn

/-- An APPLY comes three times; its copies have no further effect. -/
def State.applyIn (s : State) (f : RxFrame) : State :=
  let k := agKind f.body
  let n := sext 64 (u64 f.body 24)
  if !s.inEpoch || cnSrc f.body != 0 || 2 < k || (s.agreement k).applied.contains n then s
  else
    let s := s.agreeApply k n
    let a := s.agreement k
    (s.setAgreement k { a with armedAt := none, armed := [], applied := a.applied ++ [n] }).quiesceDue

def execApplyFrame (s : State) : Host.Outcome State Fault Refusal := act s fun s => s.takeCns tyApply State.applyIn

def State.cancelIn (s : State) (f : RxFrame) : State :=
  if s.inEpoch && cnSrc f.body = 0 && agKind f.body ≤ 2 then s.agreeCancel (agKind f.body) else s

def execConsortCancel (s : State) : Host.Outcome State Fault Refusal := act s fun s => s.takeCns tyCancel State.cancelIn

/-- Ticks that the leader waits for every member to arm. -/
def agreeTicks : Nat := 250

def execAgreementTimeout (kind : Nat) (s : State) : Host.Outcome State Fault Refusal :=
  act s fun s =>
    match (s.agreement kind).armedAt with
    | none => s
    | some t => if s.cnsLeader && decide (t + agreeTicks ≤ s.tick) then s.leaderCancel kind else s

/-! ### Shared tensors (R429 to R431) -/

/-- Words of a frame of FORM 0. -/
def tensorWords (b : Bytes) : List MWord :=
  (List.range (u16 b 18)).map fun i =>
    ⟨BitVec.ofNat 128 (leNat (sliceZ b (56 + 16 * i) 16)), (leNat (slice b 40 16)).testBit i⟩

/-- Words [a, a + n) of a buffer of `total` words have arrived. -/
def Buf.arrive (x : Buf) (a n total : Nat) : Buf :=
  { x with arrived := (List.range n).foldl (fun l i => if a + i < total then insertNat (a + i) l else l) x.arrived }

/-- A frame's words go into a buffer of `total` words; blocks that name the slot on which an operation waited when the frame
arrived are stale (R336). -/
def Buf.tensor (x : Buf) (b : Bytes) (total : Nat) (waited : Option Nat) : Buf :=
  let off := u32 b 20
  if u8 b 17 = 0 then
    let ws := (tensorWords b).take (total - off)
    let x := (x.writes off ws).arrive off ws.length total
    { x with coded := x.coded.filter fun k => !(off / 32 ≤ k && 32 * k < off + ws.length),
             stale := x.stale.filter fun k => !(off / 32 ≤ k && 32 * k < off + ws.length) }
  else
    (tensorBlocks b).foldl (fun (x : Buf) e =>
      let k := e.1
      let x := (x.writes (32 * k) (e.2.2.take (total - 32 * k))).arrive (32 * k) 32 total
      let coded := x.coded.filter (· != k)
      let stale := x.stale.filter (· != k)
      let slot := (e.2.2.headD MWord.zero).data.toNat % 16
      { x with coded := if e.2.1 then coded else insertNat k coded,
               stale := if !e.2.1 && waited = some slot then insertNat k stale else stale }) x

/-- The buffer that an input fills. -/
def Input.filling (i : Input) : Buf := (i.bufs.find? fun (b : Buf) => b.state = .fill).getD Buf.empty
def Input.setFilling (i : Input) (x : Buf) : Input :=
  match takeFirst (fun (b : Buf) => b.state = .fill) i.bufs with
  | none => i
  | some (_, rest) => { i with bufs := x :: rest }

/-- A frame reaches one input: the input after it, whether the frame is dropped, and whether two members send the
stream. -/
def Input.tensor (i : Input) (b : Bytes) (waited : Option Nat) : Input × Bool × Bool :=
  let tick := u64 b 24
  let total := (i.bytes + 15) / 16
  let cur := i.filling
  let busy := !cur.arrived.isEmpty
  let here := busy && cur.fillTick = tick
  let from_ := if here then some cur.member
    else (i.bufs.find? fun (x : Buf) => x.state = .ready && !x.arrived.isEmpty && x.fillTick = tick).map (·.member)
  let dup := from_.any (· != cnSrc b)
  if u32 b 32 != i.bytes || (busy && tick < cur.fillTick) then (i, true, false)
  else if from_.any (· < cnSrc b) then (i, true, true)
  else
    let start := if here && !dup then cur else { Buf.empty with fillTick := tick, member := cnSrc b }
    let x := start.tensor b total waited
    if x.arrived.length = total then
      ((i.setFilling x).fill fun x => { x with
        landing := landingDigest kindTensorIn (x.bytes i.bytes),
        marked := ((x.slice 0 total).filter (·.poison)).length }, false, dup)
    else (i.setFilling x, false, dup)

/-- Services and inputs that receive a stream. -/
def State.streamInputs (s : State) (k : Nat) : List (Nat × Nat) :=
  s.services.flatMap fun e =>
    (e.2.inputs.filter fun (i : Input) => i.kind = kindTensorIn && i.source = k).map fun (i : Input) => (e.1, i.snap)

def State.tensorDrop (s : State) : State := (s.count CNS_TENSOR_DROP_COUNT_COUNT 1).flag CNS_STATUS_TENSOR_DROP

def State.tensorIn (s : State) (f : RxFrame) : State :=
  let b := f.body
  let l := s.streamInputs (u8 b 16)
  if l.isEmpty then s
  else if !s.inEpoch || cnEpoch b != s.fld CNS_EPOCH_EPOCH then s.tensorDrop
  else
    let r := l.foldl (fun (p : State × Bool × Bool) e =>
      match (p.1.svc e.1).inputs.find? fun (i : Input) => i.snap = e.2 with
      | none => p
      | some i =>
        let q := i.tensor b f.waited
        (p.1.modSvc e.1 fun v =>
          { v with inputs := v.inputs.map fun (x : Input) => if x.snap = e.2 then q.1 else x },
          p.2.1 || q.2.1, p.2.2 || q.2.2)) (s, false, false)
    (r.1.whenB r.2.1 State.tensorDrop).whenB r.2.2 fun s => s.flag CNS_STATUS_DUP_STREAM

def execTensor (s : State) : Host.Outcome State Fault Refusal := act s fun s => s.takeCns tyTensor State.tensorIn

/-- Header of a TENSOR body: FORM, COUNT, OFFSET. -/
def tensorHead (o : Output) (form count off : Nat) : Bytes :=
  leBytes 1 o.source ++ leBytes 1 form ++ leBytes 2 count ++ leBytes 4 off ++ leBytes 8 o.egress.fillTick ++
    leBytes 4 o.bytes ++ leBytes 4 0

/-- A frame of FORM 0 with n words from a. -/
def tensorFrame0 (o : Output) (a n : Nat) : Bytes :=
  let ws := o.egress.slice a n
  tensorHead o 0 n a ++ leBytes 16 (ofBits ((List.range n).filter fun i => (ws.getD i MWord.zero).poison)) ++
    ws.flatMap fun w => bytes128 w.data

/-- Words that block k of an output carries; `fmt` gives the format of a table slot. -/
def Output.blockWords (o : Output) (fmt : Nat → Nat) (k : Nat) : List MWord :=
  let h := (o.egress.read (32 * k)).2.data.toNat
  o.egress.slice (32 * k) (if o.egress.coded.contains k then min 31 (codedWords (fmt (h % 16)) (bitsOf h 15 4)) else 32)

/-- A frame of FORM 1 with n blocks from block k. -/
def tensorFrame1 (o : Output) (fmt : Nat → Nat) (k n : Nat) : Bytes :=
  let bs := (List.range n).map fun i => (k + i, o.blockWords fmt (k + i))
  tensorHead o 1 n (32 * k) ++
    (bs.flatMap fun e => leBytes 1 (b2n !(o.egress.coded.contains e.1)) ++ leBytes 1 e.2.length ++ leBytes 2 0 ++
      leBytes 4 (ofBits ((List.range e.2.length).filter fun i => (e.2.getD i MWord.zero).poison))) ++
    bs.flatMap fun e => e.2.flatMap fun w => bytes128 w.data

/-- The output snapshot is written by coded transfers of the program. -/
def codedOutput (img : Bytes) (snap : Nat) : Bool :=
  (imgCoded img).any fun d => !isLpddr (xfRemote d) && xfRemote d / 2 ^ 28 % 256 = snap

/-- Bodies of the TENSOR frames of an output. -/
def outputFrames (img : Bytes) (fmt : Nat → Nat) (o : Output) : List Bytes :=
  let total := (o.bytes + 15) / 16
  if codedOutput img o.snap then
    let blocks := (total + 31) / 32
    (List.range ((blocks + 1) / 2)).map fun j => tensorFrame1 o fmt (2 * j) (min 2 (blocks - 2 * j))
  else (List.range ((total + 79) / 80)).map fun j => tensorFrame0 o (80 * j) (min 80 (total - 80 * j))

/-- The earliest Worham output that waits is sent. -/
def State.tensorOut (s : State) : State :=
  match s.consort.toSend with
  | [] => s
  | (n, snap) :: rest =>
    let s := s.setCns { s.consort with toSend := rest }
    let v := s.svc n
    match v.outputs.find? fun (o : Output) => o.snap = snap && o.busy with
    | none => s
    | some o =>
      let fmt := fun k => (s.codeTable k).elim 0 (·.format)
      let s := s.noteEgress n o (List.range (o.bytes / 16))
      let s := (outputFrames v.image fmt o).foldl (fun (s : State) b => s.cnsGroup tyTensor b) s
      s.modSvc n fun v => { v with outputs := v.outputs.map fun (x : Output) =>
        if x.snap = snap then { x with busy := false } else x }

def execTensorTx (s : State) : Host.Outcome State Fault Refusal := act s State.tensorOut

/-! ### Chained distribution (R283, R284, R432 to R434) -/

/-- Session number of a chain frame. -/
def chSession (b : Bytes) : Nat := u32 b 16

/-- The session of a number that this device leads, or is the target of. -/
def State.session (s : State) (leads : Bool) (id : Nat) : Option Session :=
  s.consort.sessions.find? fun x => x.id = id && x.leads = leads

/-- The target's NVS works for the session. -/
def State.sessionAtWork (s : State) (id : Nat) : Bool :=
  s.nv.programs.any (fun p => p.cmd = id + sessionBase) || s.nv.erases.any fun e => e.cmd = id + sessionBase

/-- The target begins its command once it can and its SCH runs: an erase at once, a program when all that lies before the payload
has come (R265, R270). -/
def State.sessionTry (s : State) (x : Session) : State :=
  let b := x.bytes
  let op := u8 b 0
  let len := u64 b 24
  let cmd := x.id + sessionBase
  if !s.schUp || s.sessionAtWork x.id || s.nvPhase = nvScanning || (s.secQuiet && needsSec op) then s
  else
    match headerStatus b with
    | some st => s.chainEnd x.id st 0 (nvInfo noSlab noSector thisDevice)
    | none =>
      if op = opNvErase then s.eraseStart cmd b
      else if op != opNvProgram then s.chainEnd x.id stBadOpcode 0 (nvInfo noSlab noSector thisDevice)
      else if 16 ≤ u8 b 8 then s.chainEnd x.id stBadField 0 (nvInfo noSlab noSector thisDevice)
      else if x.data.length < min 128 len || x.data.length < min (imPayload x.data) len then s
      else s.programStart cmd (u8 b 8) 2 0 len (x.data.take (imPayload x.data)) ((u8 b 10).testBit 0)

/-- CHAIN_CREDIT: NEXT and the highest LIMIT that R433 allows. -/
def State.sendCredit (s : State) (x : Session) : State :=
  let limit := (x.next + 0x100000) / 0x10000 * 0x10000
  let s := s.setSession { x with limit := limit, lastCredit := s.now }
  s.cnsTo tyChainCredit x.peer (leBytes 8 x.id ++ leBytes 8 x.next ++ leBytes 8 limit)

def State.chainCmdIn (s : State) (f : RxFrame) : State :=
  let b := f.body
  let id := chSession b
  if (s.session false id).isSome || !s.up then s
  else
    let x : Session :=
      { id := id, leads := false, peer := cnSrc b, cmd := id + sessionBase, bytes := sliceZ b 24 64, next := 0, limit := 0,
        sent := 0, data := [], lastHeard := s.now, lastAdvance := s.now, lastCredit := s.now }
    (s.setCns { s.consort with sessions := s.consort.sessions ++ [x] }).sessionTry x

def execChainCmd (s : State) : Host.Outcome State Fault Refusal := act s fun s => s.takeChain tyChainCmd State.chainCmdIn

def State.chainDataIn (s : State) (f : RxFrame) : State :=
  let b := f.body
  match s.session false (chSession b) with
  | none => s
  | some x =>
    let x := { x with lastHeard := s.now }
    if u64 b 24 != x.next then s.setSession x
    else
      let d := sliceZ b 40 (u16 b 32)
      let y := { x with data := x.data ++ d, next := x.next + d.length, lastAdvance := s.now }
      let s := s.setSession y
      let s := s.whenB (x.next / 0x10000 != y.next / 0x10000) fun s => s.sendCredit y
      s.sessionTry y

def execChainData (s : State) : Host.Outcome State Fault Refusal := act s fun s => s.takeChain tyChainData State.chainDataIn

def State.chainCreditIn (s : State) (f : RxFrame) : State :=
  let b := f.body
  match s.session true (chSession b) with
  | none => s
  | some x =>
    if x.peer != cnSrc b then s
    else
      s.pump { x with next := max x.next (u64 b 24), limit := max x.limit (u64 b 32), lastHeard := s.now,
                      lastAdvance := if x.next < u64 b 24 then s.now else x.lastAdvance }

def execChainCredit (s : State) : Host.Outcome State Fault Refusal :=
  act s fun s => s.takeChain tyChainCredit State.chainCreditIn

/-- INFO of a chained completion, with MEMBER set to the target (R403, R433). -/
def memberInfo (info member : Nat) : Nat := putBits info 47 40 member

def State.chainStatusIn (s : State) (f : RxFrame) : State :=
  let b := f.body
  match s.session true (chSession b) with
  | none => s
  | some x =>
    if x.peer != cnSrc b then s
    else
      let lost := u8 b 20 = stChainLost || u8 b 20 = stPowerFail
      ((s.dropSession x).whenB lost fun s => s.flag CNS_STATUS_CHAIN_ERR).finish x.cmd (u8 b 20) (u8 b 21)
        (memberInfo (u48 b 26) x.peer)

def execChainStatus (s : State) : Host.Outcome State Fault Refusal :=
  act s fun s => s.takeChain tyChainStatus State.chainStatusIn

def execChainCreditTimer (session : Nat) (s : State) : Host.Outcome State Fault Refusal :=
  act s fun s =>
    match s.session false session with
    | none => s
    | some x =>
      let s := s.sendCredit x
      ((s.session false session).map s.sessionTry).getD s

/-- NEXT has stood for 20 ms while data beyond it were sent. -/
def State.chainAgain (s : State) (id : Nat) : State :=
  match s.session true id with
  | none => s
  | some x =>
    if x.next < x.sent then
      let s := s.upTo (x.lastAdvance + 20000000)
      s.pump { x with sent := x.next, lastAdvance := s.now }
    else s

def execChainResend (session : Nat) (s : State) : Host.Outcome State Fault Refusal := act s fun s => s.chainAgain session

/-- 1 s without credit or completion, or without a frame of a started program. -/
def State.chainLate (s : State) (id : Nat) : State :=
  match s.session true id with
  | some x =>
    let s := s.upTo (x.lastHeard + 1000000000)
    ((s.dropSession x).flag CNS_STATUS_CHAIN_ERR).finish x.cmd stChainLost 0 (nvInfo noSlab noSector x.peer)
  | none =>
    match s.session false id with
    | none => s
    | some x =>
      match s.nv.programs.find? fun p => p.cmd = id + sessionBase with
      | none => s
      | some p =>
        let s := s.upTo (x.lastHeard + 1000000000)
        (s.endProgram p slInterrupted stChainLost noSlab noSector).flag CNS_STATUS_CHAIN_ERR

def execChainTimeout (session : Nat) (s : State) : Host.Outcome State Fault Refusal := act s fun s => s.chainLate session

/-! ### Writes of the CNS registers (R421, R423, R427, R436, R437) -/

/-- The epoch ends at the next boundary. -/
def State.leaveEpoch (s : State) : State := s.whenB s.inEpoch fun s => s.setCns { s.consort with leave := true }

/-- A host write of CNS_CTL. While EN is 1, one that leaves PORT as it is is no write to it (log 19). -/
def State.cnsCtl (s : State) (v : Nat) : State :=
  let port := bitsOf v 28 28
  let locked := s.cnsOn && port != s.fld CNS_CTL_PORT
  let was := s.cnsOn
  let s := if locked then s.flag CNS_STATUS_ACCESS else s.setFld CNS_CTL_PORT port
  let s := s.setFlds [(CNS_CTL_EN, bitsOf v 31 31), (CNS_CTL_AUTO_REJOIN, bitsOf v 30 30),
    (CNS_CTL_PCP_TOKEN, bitsOf v 27 25), (CNS_CTL_PCP_TENSOR, bitsOf v 24 22), (CNS_CTL_VLAN, bitsOf v 21 19)]
  let s := s.whenB (was && !v.testBit 31) fun s => s.unstageEpoch.leaveEpoch
  s.whenB (v.testBit 29) State.leaveEpoch

def execCnsLeave (value : Word) (s : State) : Host.Outcome State Fault Refusal := hostAct CNS_CTL.off s fun s => s.cnsCtl value.toNat
def execCnsEnWrite (value : Word) (s : State) : Host.Outcome State Fault Refusal := hostAct CNS_CTL.off s fun s => s.cnsCtl value.toNat

/-- The leader dissolves the epoch. -/
def State.dissolveNow (s : State) : State :=
  if !s.inEpoch then s
  else
    let t := s.ctick + cnsLead
    (s.setCns { s.consort with dissolve := some t.toNat, endAt := some t.toNat }).cnsGroup tyAbort
      (abortBody (s.fld CNS_EPOCH_EPOCH) 1 t)

/-- A host write of CNS_EPOCH_CTL. -/
def State.cnsEpochCtl (s : State) (v : Nat) : State :=
  let s := s.setFld CNS_EPOCH_CTL_MASK (bitsOf v 15 0)
  let go := v.testBit 31 || v.testBit 30
  if !go then s
  else if !s.cnsLeader then s.flag CNS_STATUS_ACCESS
  else
    let s := s.whenB (v.testBit 31) fun s => s.setCns { s.consort with form := true }
    s.whenB (v.testBit 30) State.dissolveNow

def execForm (value : Word) (s : State) : Host.Outcome State Fault Refusal := hostAct CNS_EPOCH_CTL.off s fun s => s.cnsEpochCtl value.toNat
def execDissolve (value : Word) (s : State) : Host.Outcome State Fault Refusal := hostAct CNS_EPOCH_CTL.off s fun s => s.cnsEpochCtl value.toNat

/-- A host write of CNS_PLANk: a byte whose service is staged or running stays, and ACCESS is set, since the write is whole. -/
def State.cnsPlan (s : State) (k v : Nat) : State :=
  let f := CNS_PLAN_DATA.at (4 * k)
  let old := s.fld f
  let r := (List.range 4).foldl (fun (p : Nat × Bool) b =>
    let x := bitsOf v (8 * b + 7) (8 * b)
    if (s.svc (4 * k + b)).phase.holds then (p.1, true)
    else (putBits p.1 (8 * b + 7) (8 * b) x, p.2)) (old, false)
  (s.setFld f r.1).whenB r.2 fun s => s.flag CNS_STATUS_ACCESS

def execCnsPlanWrite (index : Nat) (value : Word) (s : State) : Host.Outcome State Fault Refusal :=
  hostAct (CNS_PLAN.off + 4 * index) s fun s => s.cnsPlan index value.toNat

/-- A host write of CNS_TIMING: a deadline outside its range is ignored. -/
def State.cnsTiming (s : State) (v : Nat) : State :=
  let s := s.setFld CNS_TIMING_REPEAT (bitsOf v 31 28)
  let d := bitsOf v 16 0
  if d < 200 + 200 * (s.cnsRepeat - 1) || s.fld TCK_PERIOD_PERIOD_US < d + 1000 then s.flag CNS_STATUS_ACCESS
  else s.setFld CNS_TIMING_DEADLINE_US d

/-! ### At a boundary (R415, R419 to R421, R426 to R428) -/

/-- The epoch ends at the boundary of the present consort tick: a verdict of DISAGREE, LEAVE or EN cleared, T of an ABORT, or a
source of boundaries other than PTP (R411). -/
def State.epochOver (s : State) : Bool :=
  s.inEpoch && (s.consort.verdict == some false || s.consort.leave || !s.ptpMode ||
    s.consort.endAt.any fun t => decide ((t : Int) ≤ s.ctick))

/-- A consort service and its partner change over. -/
def State.changeOver (s : State) (epoch : Bool) : State :=
  s.services.foldl (fun (s : State) e =>
    let n := e.1
    if s.isConsort n && (s.svc n).phase.admitted then
      let on := fun (s : State) (k : Nat) => s.modSvc k fun v =>
        if v.phase = .standby then { v with phase := .running, refill := true } else v
      let off := fun (s : State) (k : Nat) => s.modSvc k fun v =>
        if v.phase.admitted then { v with phase := .standby } else v
      match s.partner n with
      | some p => if epoch then off (on s n) p else on (off s n) p
      | none => if epoch then on s n else off s n
    else s) s

/-- The epoch ends in step 4 (R420). -/
def State.epochEnd (s : State) : State :=
  let s := [agBind, agConfig, agFirmware].foldl (fun (s : State) k => s.agreeDrop k fun _ => true) s
  let s := s.setCns { s.consort with
    formed := false, leave := false, endAt := none, dissolve := none, proposal := none, bind := Agreement.none,
    config := Agreement.none, firmware := Agreement.none, toSend := [] }
  let s := (s.setFlds [(CNS_EPOCH_EPOCH, 0), (CNS_MASK_MEMBERS, 0)]).changeOver false
  (s.count CNS_FALLBACK_COUNT_COUNT 1).flag CNS_STATUS_FALLBACK

/-- A Worham input is zeroed and held again: its tick reads zeros as a substitution, one tick old (R29, R32, R426). -/
def Input.rezero (i : Input) : Input :=
  if i.kind = kindTensorIn then
    { i with bufs := [{ zeroHeld i.kind i.source i.bytes with subst := true, age := 1 }, Buf.empty, Buf.empty] }
  else i

/-- The staged epoch takes effect; on a member that no longer follows PTP it is dropped (R411; DESIGN CHOICE, log 239). -/
def State.epochStart (s : State) : State :=
  match s.consort.staged with
  | none => s
  | some (epoch, mask, _, model, config) =>
    if !s.ptpMode then s.unstageEpoch else
    let s := (s.setFlds [(CNS_EPOCH_EPOCH, epoch), (CNS_MASK_MEMBERS, mask)]).setCns { s.consort with
      formed := true, staged := none, proposal := none, lastEpoch := epoch, form := false }
    let s := ({ s with modelEpoch := model, configEpoch := config } : State).changeOver true
    let s := { s with services := s.services.map fun (e : Nat × Service) =>
      (e.1, { e.2 with inputs := e.2.inputs.map Input.rezero }) }
    s.flag CNS_STATUS_EPOCH

/-- Copies of APPLY, CANCEL and ABORT that the leader still sends, one at each tick. -/
def State.cnsRepeats (s : State) : State :=
  let s := [agBind, agConfig, agFirmware].foldl (fun (s : State) k =>
    let a := s.agreement k
    let s := s.setAgreement k { a with
      sends := a.sends.filterMap fun e => if e.2 ≤ 1 then none else some (e.1, e.2 - 1) }
    a.sends.foldl (fun (s : State) e => match e.1 with
      | some n => s.sendApply k n
      | none => s.sendCancel k) s) s
  match s.consort.dissolve with
  | some t => if s.ctick < t then s.cnsGroup tyAbort (abortBody (s.fld CNS_EPOCH_EPOCH) 1 t) else s
  | none => s

/-- APPLY frames whose boundary has passed are forgotten. -/
def State.applyOld (s : State) : State :=
  [agBind, agConfig, agFirmware].foldl (fun (s : State) k =>
    let a := s.agreement k
    s.setAgreement k { a with applied := a.applied.filter fun n => decide (s.ctick ≤ n) }) s

/-- The consort tick begins, after step 4. A proposal whose T has come is over, taken up by this member or not. -/
def State.cnsTick (s : State) : State :=
  let s := s.applyOld
  let s := s.setCns { s.consort with
    tokens := [], joins := [], copies := 0, verdict := none,
    token := s.tokenNow, proposal := s.consort.proposal.filter fun p => decide (s.ctick < (p.2.2.1 : Int)) }
  s.whenB s.cnsLeader State.cnsRepeats

end Sys2Proof.Machine
end

