-- ==== Sys2Proof/Machine/Soundpost.lean ====
section
/-! DEFINITION. The soundpost partition: write sets and their checks, signed commands, the tick watchdog and its alerts
(R460 to R478). The SPP_SPI transactions are in Machine/Buses. -/

namespace Sys2Proof.Machine

/-! ### Write sets (R461, R464, R466 to R468) -/

/-- SPP offsets that a reservation bank holds: SPP_RES_CTL to SPP_RES_DIGEST. -/
def inResBank (off : Nat) : Bool := decide (0xB00044 ≤ off) && decide (off < 0xB000A0)

/-- The key of the register at a BAR0 offset, as the partition's writes reach it. -/
def State.sppKey (s : State) (start : Nat) : Nat :=
  if inResBank start then start + s.fld SPP_RES_SEL_RES * 0x100000000 else start

/-- SPP_STATUS bits that a signed command may clear; the others are cleared over SPP_SPI only (R472, R473). -/
def signedClears : Nat := 0xE

/-- A service stands past the stops of a HOLD that is being set, which stop those of class B and C that are admitted and take back
those staged for this boundary (R467, R477). -/
def State.survives (s : State) (hold : Bool) (n : Nat) : Bool :=
  !hold || (s.svc n).cls == clA || !((s.svc n).phase.admitted || s.startsNow n)

/-- The tick settings that a write set may write; none where the write is not allowed. -/
def State.tckPut (s : State) (off v : Nat) (hold : Bool) : Option State :=
  if s.inEpoch then none
  else if off = TCK_CTL.off then
    if without v 0xFFC3 != 0 || v % 4 = 3 then none
    else some ((s.tckCtlRest v).takeSrc (v % 4))
  else if off = TCK_PERIOD.off then
    if without v 0x1FFFF != 0 || v < 10000 || 100000 < v ||
        !(s.services.all fun e => !e.2.checked || !s.survives hold e.1 || fitsAt e.2.image s.env v) then none
    else some (s.setFld TCK_PERIOD_PERIOD_US v)
  else if off = TCK_PHASE.off then if without v 0x1FFFF != 0 then none else some (s.setFld TCK_PHASE_PHASE_US v)
  else if off = TCK_TICKIN.off then
    if without v 0x103FF != 0 then none
    else some (s.setFlds [(TCK_TICKIN_EDGE, bitsOf v 16 16), (TCK_TICKIN_TOL_US, bitsOf v 9 0)])
  else none

/-- One 32-bit write of a write set; none where the offset or a field is not writable. A value with a bit outside the
writable fields writes a field that is not writable; the half of a 64-bit register without one takes a zero (log 235). -/
def State.sppPut (s : State) (spi hold : Bool) (off v : Nat) : Option State :=
  if off % 4 != 0 then none
  else if off / 0x100000 = blkTck then s.tckPut off v hold
  else if off < 0xB00000 || 0xB01000 ≤ off then none
  else
    match findReg off with
    | none => none
    | some (r, start) =>
      let sh := 8 * (off - start)
      let ok := r.maskOf fun a => a == .rw || a == .rw1c
      if ok = 0 || without (v <<< sh) ok != 0 then none
      else
        let v := if start = SPP_STATUS.off && !spi then v &&& signedClears else v
        let key := s.sppKey start
        some (s.setWhole key r.reset (r.written (s.whole key r.reset) (v <<< sh) (0xFFFFFFFF <<< sh)))

/-- The state with every record written in order. -/
def State.putAll (s : State) (spi hold : Bool) : List (Nat × Word) → Option State
  | [] => some s
  | (off, v) :: l =>
    match s.sppPut spi hold off v.toNat with
    | none => none
    | some t => t.putAll spi hold l

/-- HOLD as a set leaves it. -/
def setHold (old : Bool) (l : List (Nat × Word)) : Bool :=
  l.foldl (fun h e => if e.1 = SPP_CTL.off then e.2.toNat.testBit 0 else h) old

/-- Two valid reservations may stand beside each other (R461). -/
def Resv.apart (a b : Resv) : Bool :=
  a.service != b.service && a.tiles &&& b.tiles == 0 && a.networks &&& b.networks == 0 &&
    (a.base + a.frames ≤ b.base || b.base + b.frames ≤ a.base || a.frames = 0 || b.frames = 0) &&
    (a.channels &&& b.channels == 0 || a.phases &&& b.phases == 0) &&
    (a.cs &&& b.cs == 0 || !a.clusters.any fun c => b.clusters.contains c)

def resvsOk : List Resv → Bool
  | [] => true
  | r :: l => l.all r.apart && resvsOk l

/-- Sum of the decoder reservations in Mpixel/s (R464). -/
def State.decoderSum (s : State) : Nat :=
  (List.range 16).foldl (fun n k => n + s.fld (SPP_DEC_RES_ODD.at (4 * k)) + s.fld (SPP_DEC_RES_EVEN.at (4 * k))) 0

/-- The checks of R468 on the state t that a set would leave. -/
def State.setChecks (s t : State) (hold : Bool) : Bool :=
  (List.range 8).all (fun k =>
      !((s.resv k).valid && (s.svc (s.resv k).service).phase.holds && s.survives hold (s.resv k).service) ||
        s.resv k == t.resv k) &&
    resvsOk t.resvs && decide (t.decoderSum ≤ 1600) &&
    s.services.all fun e =>
      !e.2.phase.holds || e.2.cls == clA || !s.survives hold e.1 || !t.resvs.any fun r => r.meets e.2.image

/-- What a set leaves; none where it is rejected. `gone`: HOLD of a set before it has stopped the services of class B and C. -/
def State.trySet (s : State) (spi gone : Bool) (w : WriteSet) : Option State :=
  let hold := gone || setHold (s.bit SPP_CTL_HOLD) w.records
  match s.putAll spi hold w.records with
  | none => none
  | some t => if s.setChecks t hold then some t else none

/-! ### Signed commands (R470) -/

/-- The 2 KiB of SPP_SCMD_BUF. -/
def State.scmdBuf (s : State) : Bytes := (List.range 512).flatMap fun i => leBytes 4 (s.fld (SPP_SCMD_BUF_DATA.at (4 * i)))

/-- Submits a signed command to SEC. -/
def State.scmdSubmit (s : State) (b : Bytes) : State :=
  if s.spp.checking.isSome then s.setFld SPP_SCMD_CTL_RESULT 9
  else if !s.secUp then s.setFld SPP_SCMD_CTL_RESULT 8
  else (s.setSpp { s.spp with checking := some b }).setFlds [(SPP_SCMD_CTL_BUSY, 1), (SPP_SCMD_CTL_RESULT, 0)]

/-- A write of 1 to SPP_SCMD_CTL.GO; refused while the partition is disabled (R475). -/
def State.scmdGo (s : State) : State :=
  if s.sppOn then s.scmdSubmit s.scmdBuf else s.accessError 0x0B 0 SPP_SCMD_CTL.off true false

def execSppScmdGo (s : State) : Host.Outcome State Fault Refusal := hostAct SPP_SCMD_CTL.off s State.scmdGo

def scmdCount (b : Bytes) : Nat := u16 b 6
def scmdSigned (b : Bytes) : Bytes := b.take (32 + 16 * scmdCount b)

/-- The format of a signed command is right. -/
def scmdFormat (b : Bytes) : Bool :=
  slice b 0 4 == ascii "KSPC" && u16 b 4 == 1 && decide (1 ≤ scmdCount b) && decide (scmdCount b ≤ 64) &&
    decide (96 + 16 * scmdCount b ≤ b.length) && allZero (slice b 20 4) &&
    (chunks 16 ((scmdSigned b).drop 32)).all fun r => (u8 r 4 == 4 || u8 r 4 == 8) && allZero (slice r 5 3)

/-- The 32-bit writes of a signed command's records. -/
def scmdRecords (b : Bytes) : List (Nat × Word) :=
  (chunks 16 ((scmdSigned b).drop 32)).flatMap fun r =>
    let lo := (u32 r 0, BitVec.ofNat 32 (u32 r 8))
    if u8 r 4 = 8 then [lo, (u32 r 0 + 4, BitVec.ofNat 32 (u32 r 12))] else [lo]

/-- RESULT of a signed command: 1 when SEC accepts it. -/
def State.scmdResult (s : State) (b : Bytes) : Nat :=
  if !scmdFormat b then 3
  else if !s.verifies roleSoundpost (slice b 24 8) (scmdSigned b) (slice b (32 + 16 * scmdCount b) 64) then 4
  else if u64 b 8 != deviceValue then 5
  else if u32 b 16 ≤ s.fld SPP_SEQ_SEQ then 6
  else 1

/-- At the end of the boundary at READY, SOUNDPOST is submitted: once the host's signed command in check, if there is one, has ended
(DESIGN CHOICE, log 244). A submission that is refused counts as a rejected set. -/
def State.startUp (s : State) : State :=
  if !s.boot.startDue || !s.ticking then s
  else if s.boot.soundpostWait && s.sppOn && s.spp.checking.isSome then s
  else
    let s := s.setBoot { s.boot with startDue := false }
    if !s.boot.soundpostWait then s
    else
      let s := s.whenB s.sppOn fun s => s.scmdSubmit (padTo 2048 ((cfgBody s.boot.config cfgSoundpost).take 2048))
      s.whenB s.spp.checking.isNone fun s => s.setBoot { s.boot with soundpostWait := false }

/-- SEC has checked the signed command. -/
def State.scmdDone (s : State) : State :=
  match s.spp.checking with
  | none => s
  | some b =>
    if !s.secUp || s.secQuiet then s
    else
      let k := s.scmdResult b
      let s := (s.setSpp { s.spp with checking := none }).setFlds [(SPP_SCMD_CTL_BUSY, 0), (SPP_SCMD_CTL_RESULT, k)]
      let s := s.whenB (k = 4) State.verifyFail
      let start := s.startSet
      (if k = 1 then
        (s.setSpp { s.spp with
          signedSets := s.spp.signedSets ++ [{ records := scmdRecords b, since := s.now, start := start }] }).setFld
          SPP_SEQ_SEQ (u32 b 16)
      else (s.whenB start fun s => s.setBoot { s.boot with soundpostWait := false }).sppNote SPP_STATUS_SCMD_REJ).startUp

def execSignedCommandChecked (s : State) : Host.Outcome State Fault Refusal := act s State.scmdDone

/-! ### Tick watchdog, alerts and heartbeat (R471 to R475) -/

/-- ALERT_A is set, with its record. -/
def State.alertA (s : State) (cause svc tick : Nat) : State :=
  let was := s.bit SPP_STATUS_ALERT_A
  let s := (s.flag SPP_STATUS_ALERT_A).firstRecord SPP_ALERT_REC_VALID
    [(SPP_ALERT_REC_TICK, tick), (SPP_ALERT_REC_CAUSE, cause), (SPP_ALERT_REC_SERVICE, svc)]
  (s.setSpp { s.spp with onTime := 0 }).whenB (!was) State.showAlerts

/-- Clears an unlatched ALERT_A after RECOVER judgements on time in a row. -/
def State.recoverA (s : State) : State :=
  if s.bit SPP_STATUS_ALERT_A && !s.bit SPP_CTL_LATCH_A && decide (max 1 (s.fld SPP_WDOG_RECOVER) ≤ s.spp.onTime) then
    (s.setFld SPP_STATUS_ALERT_A 0).showAlerts
  else s

/-- One class A service is judged for a tick. -/
def State.judge1 (s : State) (tick n : Nat) (ok : Bool) : State :=
  if ok then s.modSvc n fun v => { v with misses := 0 }
  else
    let s := (s.modSvc n fun v => { v with misses := v.misses + 1 }).flag SPP_STATUS_MISS
    let s := s.count SPP_MISS_COUNT_COUNT 1
    if max 1 (s.fld SPP_WDOG_MISS_LIMIT) ≤ (s.svc n).misses then
      (s.alertA 1 n tick).setSpp { s.spp with onTime := 0, autoHold := s.spp.autoHold || s.bit SPP_CTL_AUTO_HOLD }
    else s

/-- The watchdog's judgements of a tick, in step 3 of the next boundary, and the heartbeat, which only services that ran the
tick decide (R474). -/
def State.judge (s : State) (tick : Nat) (l : List (Nat × Bool)) : State :=
  if l.isEmpty || !s.sppOn then s
  else
    let all := l.all (·.2)
    let ran := l.filter fun e => (s.svc e.1).log.ran
    let s := l.foldl (fun s e => s.judge1 tick e.1 e.2) s
    let s := s.setSpp { s.spp with onTime := if all then s.spp.onTime + 1 else 0 }
    let s := s.recoverA
    if !ran.isEmpty && ran.all (·.2) && s.bit SPP_CTL_HB_EN then
      let v := !s.bit SPP_STATE_HB
      (s.setFld SPP_STATE_HB (b2n v)).pin "HB_OUT" v
    else s

/-- No boundary has come within two periods of the last one while a class A service runs. -/
def State.gap (s : State) : State :=
  if s.sppOn && s.bit SPP_WDOG_GAP_EN && s.runningA && s.ticking && !s.gapSeen then
    let s := s.upTo (s.boundaryAt + 2000 * s.fld TCK_PERIOD_ACT_PERIOD_US)
    let s := (({ s with gapSeen := true } : State).flag SPP_STATUS_GAP).alertA 2 0 s.tick
    s.whenB (s.bit SPP_CTL_AUTO_HOLD) fun s => s.setFld SPP_CTL_HOLD 1
  else s

def execBoundaryGap (s : State) : Host.Outcome State Fault Refusal := act s State.gap

end Sys2Proof.Machine
end

