-- ==== Sys2Proof/Machine/Ether.lean ====
section
/-! DEFINITION. Frames that the Ethernet ports receive, next hops, ARP, ICMP echo, IGMP, event datagrams leaving, and the
ports themselves (R343 to R348, R372, R378). -/

namespace Sys2Proof.Machine

/-! ### The intake domain -/

/-- The intake domain runs: from release, and in a pizzicato cycle (R495, R501). -/
def State.intakeOn (s : State) : Bool :=
  s.up || s.dev == stReleased || (s.dev == stPizzicato && s.power.pzActive)

/-! ### Next hops (R347) -/

/-- Word k of static entry i of INT_ARP_STATIC. -/
def State.arpWord (s : State) (i k : Nat) : Nat := s.fld (INT_ARP_STATIC_DATA.at (16 * i + 4 * k))

/-- The MAC address of a static entry of an address on a port. -/
def State.arpStatic (s : State) (p ip : Nat) : Option Nat :=
  ((List.range 16).find? fun i =>
    (s.arpWord i 2).testBit 24 && bitsOf (s.arpWord i 2) 23 16 == p && s.arpWord i 0 == ip).map fun i =>
      s.arpWord i 1 + bitsOf (s.arpWord i 2) 15 0 * 2 ^ 32

/-- The MAC address of a next hop. -/
def State.hopMac (s : State) (p ip : Nat) : Option Nat :=
  if isMcast ip then some (mcastMac ip)
  else
    match s.arpStatic p ip with
    | some m => some m
    | none => (s.intake.arp.find? fun (e : ArpEntry) => e.ip = ip && e.port = p).map (·.mac)

/-- The next hop of a destination: itself on the port's own network, otherwise the gateway. -/
def State.nextHop (s : State) (p dst : Nat) : Nat :=
  let k := 32 - min 32 (s.fld (portCtl INT_PORT_CTL_PREFIX p))
  if isMcast dst || (dst >>> k == s.portIp p >>> k) then dst else s.fld (portReg INT_IP_GATEWAY p)

def etArp : Nat := 0x0806
def etIp : Nat := 0x0800
def etPtp : Nat := 0x88F7
def etTag : Nat := 0x8100
def etServiceTag : Nat := 0x88A8
def etPause : Nat := 0x8808
def etIp6 : Nat := 0x86DD
def macAll : Nat := 0xFFFFFFFFFFFF

/-- An ARP packet (RFC 826). -/
def State.arpPacket (s : State) (p oper tha tpa : Nat) : Bytes :=
  beBytes 2 1 ++ beBytes 2 etIp ++ [6, 4] ++ beBytes 2 oper ++ beBytes 6 (s.portMac p) ++ beBytes 4 (s.portIp p) ++
    beBytes 6 tha ++ beBytes 4 tpa

/-- A request for an address. -/
def State.arpAsk (s : State) (p : Nat) (vlan : Option Nat) (ip : Nat) : State :=
  s.sendEth p 0 macAll vlan etArp (s.arpPacket p 1 0 ip)

/-- A datagram has no next hop: a request at most once a second for an address. -/
def State.arpMiss (s : State) (p : Nat) (vlan : Option Nat) (ip : Nat) : State :=
  let s := (s.count INT_ARP_MISS_COUNT_COUNT 1).flag INT_STATUS_ARP_MISS
  let late := match Tab.look s.intake.arpAsked ip with
    | none => true
    | some t => decide (t + 1000000000 ≤ s.now)
  if late then
    (s.setIntake { s.intake with arpAsked := Tab.put s.intake.arpAsked ip s.now }).arpAsk p vlan ip
  else s

/-- Sends an IPv4 packet to an address, or drops and counts it; whether it has left. -/
def State.sendIp (s : State) (p pcp : Nat) (vlan : Option Nat) (dst : Nat) (packet : Bytes) : State × Bool :=
  if !(s.linkUp p && s.portOn p) then ((s.count INT_TX_DROP_COUNT_COUNT 1).flag INT_STATUS_TX_DROP, false)
  else
    match s.hopMac p (s.nextHop p dst) with
    | none => (s.arpMiss p vlan (s.nextHop p dst), false)
    | some mac => (s.sendEth p pcp mac vlan etIp packet, true)

/-- Sends a UDP datagram. -/
def State.sendUdp (s : State) (p pcp : Nat) (vlan : Option Nat) (dscp sport dst dport : Nat) (data : Bytes) : State × Bool :=
  s.sendIp p pcp vlan dst (ipPacket 17 dscp Config.ipTtl (s.portIp p) dst [] (udpBody (s.portIp p) dst sport dport data))

/-! ### The dynamic cache (R346, R347) -/

/-- An entry is learnt; the oldest of 64 makes room. -/
def State.arpPut (s : State) (e : ArpEntry) : State :=
  let others := s.intake.arp.filter fun (x : ArpEntry) => !(x.ip = e.ip && x.port = e.port)
  s.setIntake { s.intake with arp := (if 64 ≤ others.length then others.drop 1 else others) ++ [e] }

/-- What an ARP packet teaches: its sender, when the packet is for this port or the sender is listed (RFC 826). -/
def State.arpLearn (s : State) (f : RxFrame) : State :=
  let b := f.body
  let ip := n32 b 14
  if n32 b 24 = s.portIp f.port || s.intake.arp.any fun (x : ArpEntry) => x.ip = ip && x.port = f.port then
    s.arpPut { ip := ip, mac := n48 b 8, port := f.port, vlan := f.vlan, learnt := s.now, refreshed := false }
  else s

/-- The packet is ARP for IPv4 over Ethernet with an operation. -/
def isArp (b : Bytes) (oper : Nat) : Bool :=
  28 ≤ b.length && n16 b 0 == 1 && n16 b 2 == etIp && slice b 4 2 == [6, 4] && n16 b 6 == oper

/-! ### Frames received (R344 to R346) -/

/-- A frame or packet is dropped on receipt. -/
def State.rxDrop (s : State) : State := (s.count INT_RX_DROP_COUNT_COUNT 1).flag INT_STATUS_RX_DROP

/-- A frame waits for the unit that it concerns. -/
def State.rxKeep (s : State) (f : RxFrame) : State := s.setIntake { s.intake with rx := s.intake.rx ++ [f] }

/-- Takes the earliest waiting frame that meets a test. -/
def State.takeRx (s : State) (p : RxFrame → Bool) (f : State → RxFrame → State) : State :=
  match takeFirst p s.intake.rx with
  | none => s
  | some (x, rest) => f (s.setIntake { s.intake with rx := rest }) x

/-! Fields of an IPv4 packet. -/
def ipHead (b : Bytes) : Nat := 4 * (u8 b 0 % 16)
def ipProto (b : Bytes) : Nat := u8 b 9
def ipSrc (b : Bytes) : Nat := n32 b 12
def ipDst (b : Bytes) : Nat := n32 b 16
def ipBody (b : Bytes) : Bytes := b.drop (ipHead b)

/-- The UDP datagram's checksum fails, or its length does not fit. -/
def udpBad (b : Bytes) : Bool :=
  let u := ipBody b
  u.length < 8 || n16 u 4 < 8 || u.length < n16 u 4 ||
    (n16 u 6 != 0 && inetChecksum (slice b 12 8 ++ beBytes 2 17 ++ beBytes 2 (n16 u 4) ++ u.take (n16 u 4)) != 0)

/-- The packet is an IGMP query with the one option of RFC 3376, the Router Alert: R348 has the device answer it. -/
def alertedQuery (b : Bytes) : Bool :=
  ipProto b == 2 && u8 (ipBody b) 0 == 0x11 && ipHead b == 24 && u8 b 20 == 0x94 && u8 b 21 == 4

/-- An IPv4 packet is dropped: options (but those of an IGMP query of RFC 3376), fragments, a bad header
checksum, a UDP checksum that fails (R346, R348). -/
def ipBad (b : Bytes) : Bool :=
  b.length < 20 || u8 b 0 / 16 != 4 || ipHead b < 20 || b.length < n16 b 2 || n16 b 2 < ipHead b ||
    (20 < ipHead b && !alertedQuery b) || n16 b 6 % 16384 != 0 || inetChecksum (b.take (ipHead b)) != 0 ||
    (ipProto b == 17 && udpBad b)

/-- UDP ports of a datagram, and its data. -/
def udpSport (b : Bytes) : Nat := n16 (ipBody b) 0
def udpDport (b : Bytes) : Nat := n16 (ipBody b) 2
def udpData (b : Bytes) : Bytes := slice (ipBody b) 8 (n16 (ipBody b) 4 - 8)

/-- The stream that a UDP datagram belongs to (R353). -/
def State.streamOf (s : State) (f : RxFrame) : Option Nat :=
  (List.range 32).find? fun k =>
    s.bit (VID_STREAM_CTL_EN.bank k) && (portsOf (s.fld (VID_STREAM_CTL_PORT.bank k))).contains f.port &&
      s.fld (VID_STREAM_ADDR_DST.bank k) == ipDst f.body && (isMcast (ipDst f.body) || ipDst f.body == s.portIp f.port) &&
      s.fld (VID_STREAM_UDP_PORT.bank k) == udpDport f.body &&
      (s.fld (VID_STREAM_ADDR_SRC.bank k) == 0 || s.fld (VID_STREAM_ADDR_SRC.bank k) == ipSrc f.body)

/-- PTP runs on a port (R349). -/
def State.ptpPort (s : State) (p : Nat) : Bool := (s.fld INT_PTP_CTL_PORT).testBit p

/-- The frame carries a PTP message in the transport in use. -/
def State.isPtp (s : State) (f : RxFrame) : Bool :=
  s.ptpPort f.port &&
    (if s.bit INT_PTP_CTL_TRANSPORT then
      f.etherType == etIp && ipProto f.body == 17 && (udpDport f.body == 319 || udpDport f.body == 320) &&
        (isMcast (ipDst f.body) || ipDst f.body == s.portIp f.port)
    else f.etherType == etPtp)

/-- Kinds of the frames that wait. -/
def isEcho (f : RxFrame) : Bool := f.etherType == etIp && ipProto f.body == 1
def isQuery (f : RxFrame) : Bool := f.etherType == etIp && ipProto f.body == 2
def State.isRtp (s : State) (f : RxFrame) : Bool := f.etherType == etIp && ipProto f.body == 17 && !s.isPtp f

/-- An IPv4 packet is accepted, without what follows it in the frame. -/
def State.ipReceive (s : State) (f : RxFrame) : State :=
  if ipBad f.body then s.rxDrop
  else
    let f := { f with body := f.body.take (n16 f.body 2) }
    let b := f.body
    let own := ipDst b == s.portIp f.port
    if s.isPtp f || (ipProto b = 1 && own && u8 (ipBody b) 0 = 8) || (ipProto b = 2 && u8 (ipBody b) 0 = 0x11) ||
      (ipProto b = 17 && (s.streamOf f).isSome) then s.rxKeep f
    else s

/-- An accepted frame goes to the unit it concerns; other frames concern none. In a pizzicato cycle only the receive path of
its stream is powered (R501). -/
def State.rxSort (s : State) (f : RxFrame) : State :=
  if s.dev == stPizzicato && !(s.isRtp f && s.streamOf f == some (s.fld PWR_PZ_CTL_STREAM)) then s else
  if f.etherType = s.fld CNS_ETHERTYPE_TYPE then s.cnsReceive f
  else if f.etherType = etIp then s.ipReceive f
  else if f.etherType = etArp then
    if isArp f.body 2 then s.arpLearn f
    else if isArp f.body 1 && n32 f.body 24 = s.portIp f.port then s.rxKeep f
    else if isArp f.body 1 then s.arpLearn f
    else s
  else if s.isPtp f then s.rxKeep f
  else s

/-- A VLAN identifier is enabled on a port. -/
def State.vlanIn (s : State) (p vid : Nat) : Bool := (List.range 4).any fun k => s.vlanOf p k == some vid

/-- A frame, without its check sequence, arrives at a port. -/
def State.rxFrame (s : State) (p : Nat) (b : Bytes) : State :=
  let make := fun (vlan : Option Nat) (et : Nat) (body : Bytes) =>
    ({ port := p, dst := beNat (b.take 6), src := n48 b 6, vlan := vlan, etherType := et, body := body, ptpTime := s.ptpNs,
       time := s.stamp, waited := none } : RxFrame)
  let et := n16 b 12
  let inner := n16 b 16
  let vid := n16 b 14 % 4096
  if !(s.intakeOn && s.portOn p && s.linkUp p) then s
  else if et = etPause && 14 ≤ b.length then s
  else if b.length < 14 || 1518 < b.length || et = etIp6 || et = etServiceTag then s.rxDrop
  else if et = etTag then
    if b.length < 18 || inner = etTag || inner = etServiceTag || inner = etIp6 then s.rxDrop
    else if vid = 0 then
      if s.bit (portCtl INT_PORT_CTL_UNTAGGED_EN p) then s.rxSort (make none inner (b.drop 18)) else s.rxDrop
    else if s.vlanIn p vid then s.rxSort (make (some vid) inner (b.drop 18))
    else s.rxDrop
  else if s.bit (portCtl INT_PORT_CTL_UNTAGGED_EN p) then s.rxSort (make none et (b.drop 14))
  else s.rxDrop

def execEthFrameRx (port : Nat) (frame : Bytes) (s : State) : Host.Outcome State Fault Refusal :=
  act s fun s => s.rxFrame port frame

/-! ### ARP and ICMP (R346, R347) -/

def execArpRequest (s : State) : Host.Outcome State Fault Refusal :=
  act s fun s => s.takeRx (fun f => f.etherType = etArp) fun s f =>
    (s.arpLearn f).sendEth f.port 0 (n48 f.body 8) f.vlan etArp (s.arpPacket f.port 2 (n48 f.body 8) (n32 f.body 14))

/-- An echo request is answered. -/
def State.echo (s : State) (f : RxFrame) : State :=
  let b := f.body
  let m := ipBody b
  if !s.bit (portCtl INT_PORT_CTL_ICMP_EN f.port) || inetChecksum m != 0 then s
  else
    let r := [0, 0] ++ [0, 0] ++ m.drop 4
    let r := [0, 0] ++ beBytes 2 (inetChecksum r) ++ m.drop 4
    (s.sendIp f.port 0 f.vlan (ipSrc b) (ipPacket 1 0 Config.ipTtl (s.portIp f.port) (ipSrc b) [] r)).1

def execIcmpEcho (s : State) : Host.Outcome State Fault Refusal := act s fun s => s.takeRx isEcho State.echo

/-- Ages of a dynamic entry, in ns. -/
def arpLife : Nat := 300000000000
def arpEarly : Nat := 10000000000

/-- The earliest entry that has not been asked for again is asked for, 10 s before it expires. -/
def State.arpAgain (s : State) : State :=
  match s.intake.arp.find? fun (e : ArpEntry) => !e.refreshed with
  | none => s
  | some e =>
    let s := s.upTo (e.learnt + (arpLife - arpEarly))
    (s.setIntake { s.intake with arp := s.intake.arp.map fun (x : ArpEntry) =>
      if x = e then { x with refreshed := true } else x }).arpAsk e.port e.vlan e.ip

def execArpRefresh (s : State) : Host.Outcome State Fault Refusal := act s State.arpAgain

/-- The earliest entry expires. -/
def State.arpExpire (s : State) : State :=
  match s.intake.arp with
  | [] => s
  | e :: l => (s.upTo (e.learnt + arpLife)).setIntake { s.intake with arp := l }

def execArpExpiry (s : State) : Host.Outcome State Fault Refusal := act s State.arpExpire

/-! ### IGMP (R348) -/

/-- A group's filter on a port: the sources of INCLUDE mode; `none` for EXCLUDE mode with an empty list. -/
abbrev Filter := Option (List Nat)

/-- Streams that are members of a group on a port. -/
def State.members (s : State) (p g : Nat) : List Nat :=
  (List.range 32).filter fun k =>
    s.bit (VID_STREAM_CTL_EN.bank k) && (portsOf (s.fld (VID_STREAM_CTL_PORT.bank k))).contains p &&
      s.fld (VID_STREAM_ADDR_DST.bank k) == g

/-- The groups of a port, in the order of its streams. -/
def State.groups (s : State) (p : Nat) : List Nat :=
  ((List.range 32).filter fun k =>
    s.bit (VID_STREAM_CTL_EN.bank k) && (portsOf (s.fld (VID_STREAM_CTL_PORT.bank k))).contains p &&
      isMcast (s.fld (VID_STREAM_ADDR_DST.bank k))).foldl (fun l k =>
        let g := s.fld (VID_STREAM_ADDR_DST.bank k)
        if l.contains g then l else l ++ [g]) []

/-- The filter of a group; INCLUDE with no source where the port is no member. -/
def State.filterOf (s : State) (p g : Nat) : Filter :=
  let srcs := (s.members p g).map fun k => s.fld (VID_STREAM_ADDR_SRC.bank k)
  if srcs.contains 0 then none else some (srcs.foldl (fun l x => insertNat x l) [])

/-- The records that report a change of filter (RFC 3376 section 5.1). -/
def changeRecords (g : Nat) (old new : Filter) : List GroupRecord :=
  match old, new with
  | none, none => []
  | some _, none => [⟨4, g, []⟩]
  | none, some b => [⟨3, g, b⟩]
  | some a, some b =>
    let more := b.filter fun x => !a.contains x
    let less := a.filter fun x => !b.contains x
    (if more.isEmpty then [] else [⟨5, g, more⟩]) ++ (if less.isEmpty then [] else [⟨6, g, less⟩])

/-- The record that states a filter in answer to a query. -/
def stateRecord (g : Nat) (f : Filter) : GroupRecord :=
  match f with
  | none => ⟨2, g, []⟩
  | some l => ⟨1, g, l⟩

/-- An IGMP message, in a packet with the router-alert option. -/
def State.sendIgmp (s : State) (p dst : Nat) (m : Bytes) : State :=
  let m := m.take 2 ++ beBytes 2 (inetChecksum m) ++ m.drop 4
  s.sendEth p 0 (mcastMac dst) none etIp (ipPacket 2 48 1 (s.portIp p) dst [0x94, 0x04, 0, 0] m)

/-- An IGMPv3 report. -/
def State.sendReport (s : State) (p : Nat) (l : List GroupRecord) : State :=
  if l.isEmpty then s
  else s.sendIgmp p 0xE0000016 ([0x22, 0, 0, 0] ++ beBytes 2 0 ++ beBytes 2 l.length ++ l.flatMap fun r =>
    leBytes 1 r.type ++ [0] ++ beBytes 2 r.sources.length ++ beBytes 4 r.group ++ r.sources.flatMap (beBytes 4))

/-- An IGMPv2 report, or a leave. -/
def State.sendV2 (s : State) (p g : Nat) (joined : Bool) : State :=
  s.sendIgmp p (if joined then g else 0xE0000002) ([if joined then 0x16 else 0x17, 0, 0, 0] ++ beBytes 4 g)

/-- The port is in IGMPv2 compatibility mode. -/
def State.v2Mode (s : State) (p : Nat) : Bool := (Tab.look s.intake.igmpV2 p).isSome

/-- Change records in the port's mode: an IGMPv2 host reports a group that it joins and leaves one that it is no longer a
member of (RFC 3376 section 7.2). -/
def State.sendChanges (s : State) (p : Nat) (l : List GroupRecord) : State :=
  if !s.v2Mode p then s.sendReport p l
  else l.foldl (fun (s : State) r =>
    let member := !(s.members p r.group).isEmpty
    if member && (r.type = 4 || r.type = 5) then s.sendV2 p r.group true
    else if !member && (r.type = 3 || r.type = 6) then s.sendV2 p r.group false
    else s) s

def State.igmpDue (s : State) (p : Nat) : List IgmpDue := if p = 0 then s.intake.igmpDue0 else s.intake.igmpDue1
def State.setIgmpDue (s : State) (p : Nat) (l : List IgmpDue) : State :=
  s.setIntake (if p = 0 then { s.intake with igmpDue0 := l } else { s.intake with igmpDue1 := l })

/-- A change record that waits for its repeat, once newer records have been reported: a newer change of mode takes its place, a
waiting change of mode states the filter as it is now, and a waiting list keeps the sources that the newer lists leave alone
(RFC 3376 section 5.1). -/
def State.afterChange (s : State) (p : Nat) (new : List GroupRecord) (r : GroupRecord) : Option GroupRecord :=
  let l := new.filter fun x => x.group = r.group
  let mode := fun (x : GroupRecord) => x.type == 3 || x.type == 4
  if l.isEmpty then some r
  else if l.any mode then none
  else if mode r then some ((s.filterOf p r.group).elim ⟨4, r.group, []⟩ fun b => ⟨3, r.group, b⟩)
  else
    let left := r.sources.filter fun x => !l.any fun y => y.sources.contains x
    if left.isEmpty then none else some { r with sources := left }

/-- Reports the changes of a port's groups against an earlier state, at once and once more (robustness 2). -/
def State.igmpChanges (s : State) (old : State) (p : Nat) : State :=
  let gs := old.groups p ++ (s.groups p).filter fun g => !(old.groups p).contains g
  let l := gs.flatMap fun g => changeRecords g (old.filterOf p g) (s.filterOf p g)
  let due := (s.igmpDue p).filterMap fun d =>
    match d with
    | .again r =>
      let r := r.filterMap (s.afterChange p l)
      if r.isEmpty then none else some (.again r)
    | d => some d
  if l.isEmpty then s else (s.sendChanges p l).setIgmpDue p (due ++ [.again l])

/-- Membership follows the stream registers, on both ports. -/
def State.igmpFollow (s : State) (old : State) : State := [0, 1].foldl (fun (s : State) p => s.igmpChanges old p) s

/-- An answer to a query is due, together with one to the same group that waits already. -/
def State.igmpAnswer (s : State) (p g : Nat) (srcs : List Nat) : State :=
  let l := s.igmpDue p
  let same := fun (d : IgmpDue) =>
    match d with
    | .again _ => none
    | .answer h x => if h = g then some x else none
  if l.any fun d => d == .answer 0 [] then s
  else
    match l.findSome? same with
    | none => s.setIgmpDue p (l ++ [.answer g srcs])
    | some x =>
      let both := if x.isEmpty || srcs.isEmpty then [] else srcs.foldl (fun l y => insertNat y l) x
      s.setIgmpDue p (l.map fun d => if (same d).isSome then .answer g both else d)

/-- Time from a query of IGMPv2 to the end of compatibility mode (RFC 3376 section 8.12), in ns. -/
def igmpOlder : Nat := 260000000000

/-- A query arrives: of version 3, 2 or 1 by its size and response time (RFC 3376 section 7.1). -/
def State.igmpQuery (s : State) (f : RxFrame) : State :=
  let m := ipBody f.body
  let p := f.port
  let g := n32 m 4
  if inetChecksum m != 0 then s
  else if m.length = 8 then
    if u8 m 1 = 0 then s
    else
      let s := if s.v2Mode p then s else (s.setIgmpDue p []).flag INT_STATUS_IGMP_COMPAT
      let s := s.setIntake { s.intake with igmpV2 := Tab.put s.intake.igmpV2 p (s.now + igmpOlder) }
      if g = 0 || !(s.members p g).isEmpty then s.igmpAnswer p g [] else s
  else if m.length < 12 then s
  else if g = 0 then s.igmpAnswer p 0 []
  else if (s.members p g).isEmpty then s
  else s.igmpAnswer p g ((List.range (n16 m 10)).map fun i => n32 m (12 + 4 * i))

def execIgmpQuery (s : State) : Host.Outcome State Fault Refusal := act s fun s => s.takeRx isQuery State.igmpQuery

/-- The record that answers a query of a group and of sources (RFC 3376 section 5.2). -/
def sourceRecord (g : Nat) (srcs : List Nat) (f : Filter) : List GroupRecord :=
  let b := match f with
    | none => srcs
    | some a => a.filter srcs.contains
  if srcs.isEmpty then [stateRecord g f] else if b.isEmpty then [] else [⟨1, g, b⟩]

/-- The earliest report that waits on a port is sent. -/
def State.igmpTimer (s : State) (p : Nat) : State :=
  match s.igmpDue p with
  | [] => s
  | d :: l =>
    let s := s.setIgmpDue p l
    match d with
    | .again r => s.sendChanges p r
    | .answer g srcs =>
      let gs := if g = 0 then s.groups p else [g].filter fun g => !(s.members p g).isEmpty
      if s.v2Mode p then gs.foldl (fun (s : State) g => s.sendV2 p g true) s
      else s.sendReport p (gs.flatMap fun g => sourceRecord g srcs (s.filterOf p g))

def execIgmpReportTimer (port : Nat) (s : State) : Host.Outcome State Fault Refusal := act s fun s => s.igmpTimer port

/-- A port leaves compatibility mode. -/
def State.igmpTimeout (s : State) (p : Nat) : State :=
  match Tab.look s.intake.igmpV2 p with
  | none => s
  | some t => ((s.upTo t).setIntake { s.intake with igmpV2 := Tab.del s.intake.igmpV2 p }).setIgmpDue p []

def execIgmpCompatTimeout (port : Nat) (s : State) : Host.Outcome State Fault Refusal :=
  act s fun s => s.igmpTimeout port

/-! ### Event datagrams leave (R372) -/

/-- The packet of an event datagram leaves its port, or is dropped for link or next hop; whether it has left. -/
def State.sendEvent (s : State) (p : Nat) (d : Datagram) : State × Bool :=
  let packet := ipPacket 17 d.dscp Config.ipTtl (s.portIp p) d.dst [] (udpBody (s.portIp p) d.dst d.srcPort d.dstPort d.body)
  if !(s.linkUp p && s.portOn p) then ((s.count INT_TX_DROP_COUNT_COUNT 1).flag INT_STATUS_TX_DROP, false)
  else
    let vlan := s.vlanOf p (s.fld (VID_EGR_CTL_VLAN.bank d.profile))
    match s.hopMac p (s.nextHop p d.dst) with
    | none => (s.arpMiss p vlan (s.nextHop p d.dst), false)
    | some mac => (s.sendRaw p d.pcp (ethFrame mac (s.portMac p) vlan d.pcp etIp packet), true)

/-- The event datagram that is next in a port's queues leaves, and the frames that waited behind it. -/
def State.datagramOut (s : State) (p : Nat) : State :=
  let s := s.txFlush p
  match nextDatagram p s.intake.egress with
  | none => s
  | some d =>
    let s := s.setIntake { s.intake with egress := dropOne d s.intake.egress }
    let r := s.sendEvent p d
    (r.1.whenB r.2 fun s => s.count (VID_EGR_TX_COUNT_COUNT.bank d.profile) 1).txFlush p

def execDatagramTx (port : Nat) (s : State) : Host.Outcome State Fault Refusal := act s fun s => s.datagramOut port

/-! ### The ports (R343, R378) -/

def linkFld (p : Nat) : Fld := if p = 0 then INT_PORT_STAT_LINK0 else INT_PORT_STAT_LINK1

/-- A port loses its link. -/
def State.ethDown (s : State) (port : Nat) : State :=
  if s.bit (linkFld port) then
    (s.setFld (linkFld port) 0).flag (if port = 0 then INT_STATUS_LINK0_DOWN else INT_STATUS_LINK1_DOWN)
  else s

def execEthLinkDown (port : Nat) (s : State) : Host.Outcome State Fault Refusal := act s fun s => s.ethDown port

def execEthLinkUp (port : Nat) (s : State) : Host.Outcome State Fault Refusal :=
  act s fun s => if s.portOn port && s.intakeOn then s.setFld (linkFld port) 1 else s

/-- A host write of INT_PORT_CTL. While EN is 1, one that leaves SPEED and FEC as they are is no write to them (log 19). -/
def State.portCtlWrite (s : State) (p v : Nat) : State :=
  let sp := portCtl INT_PORT_CTL_SPEED p
  let fec := portCtl INT_PORT_CTL_FEC p
  let other := bitsOf v 1 1 != s.fld sp || bitsOf v 5 4 != s.fld fec
  let s := if s.portOn p && other then s.flag INT_STATUS_ACCESS else s.setFlds [(sp, bitsOf v 1 1), (fec, bitsOf v 5 4)]
  s.setFlds [(portCtl INT_PORT_CTL_PREFIX p, bitsOf v 13 8), (portCtl INT_PORT_CTL_UNTAGGED_EN p, bitsOf v 7 7),
    (portCtl INT_PORT_CTL_ICMP_EN p, bitsOf v 6 6), (portCtl INT_PORT_CTL_EN p, bitsOf v 0 0)]

def execIntPortCtlWrite (port : Nat) (value : Word) (s : State) : Host.Outcome State Fault Refusal :=
  hostAct (INT_PORT_CTL.off + 4 * port) s fun s => s.portCtlWrite port value.toNat

end Sys2Proof.Machine
end

