-- ==== Sys2Proof/Machine/Video.lean ====
section
/-! DEFINITION. Camera streams: RTP packets, jitter buffers, access units, decoded pictures, the frame shaper, and writes
of the stream and video-memory registers (R353 to R369, R379, R380). -/

namespace Sys2Proof.Machine

def State.cam (s : State) (k : Nat) : Stream := Tab.lookD s.intake.streams k Stream.reset
def State.setStream (s : State) (k : Nat) (v : Stream) : State :=
  s.setIntake { s.intake with streams := Tab.put s.intake.streams k v }
def State.modStream (s : State) (k : Nat) (f : Stream → Stream) : State := s.setStream k (f (s.cam k))
/-- The stream is of H.265. -/
def State.hevc (s : State) (k : Nat) : Bool := s.bit (VID_STREAM_CTL_CODEC.bank k)
def State.streamOn (s : State) (k : Nat) : Bool := s.bit (VID_STREAM_CTL_EN.bank k)

/-! ### RTP (RFC 3550) and payload formats (R353, R355) -/

/-- Bytes of the header with its CSRC list and extension. -/
def rtpHead (b : Bytes) : Nat :=
  let n := 12 + 4 * (u8 b 0 % 16)
  if (u8 b 0).testBit 4 then n + 4 + 4 * n16 b (n + 2) else n

/-- The payload, without padding; none where the packet is not RTP of version 2. -/
def rtpPayload (b : Bytes) : Option Bytes :=
  let pad := if (u8 b 0).testBit 5 then u8 b (b.length - 1) else 0
  if b.length < 12 || u8 b 0 / 64 != 2 || b.length < rtpHead b + pad then none
  else some (slice b (rtpHead b) (b.length - rtpHead b - pad))

/-- The payload is in a format that the device accepts; one without content is. -/
def payloadOk (hevc : Bool) (p : Bytes) : Bool :=
  let t := if hevc then u8 p 0 / 2 % 64 else u8 p 0 % 32
  p.isEmpty || (if hevc then decide (t ≤ 49) else decide (1 ≤ t && t ≤ 24 || t = 28))

/-- Aggregated NAL units, each after its size. -/
def aggregated : Nat → Bytes → List Bytes
  | 0, _ => []
  | n + 1, b => if b.length < 2 then [] else slice b 2 (n16 b 0) :: aggregated n (b.drop (2 + n16 b 0))

/-- NAL units of an access unit from its payloads in order; a fragment that does not start one goes on with the last. -/
def nalUnits (hevc : Bool) (l : List Bytes) : List Bytes :=
  l.foldl (fun (a : List Bytes) p =>
    let t := if hevc then u8 p 0 / 2 % 64 else u8 p 0 % 32
    let more := fun (d : Bytes) =>
      match a.reverse with
      | [] => a
      | x :: r => ((x ++ d) :: r).reverse
    if p.isEmpty then a
    else if hevc && t = 48 then a ++ aggregated p.length (p.drop 2)
    else if hevc && t = 49 then
      if (u8 p 2).testBit 7 then a ++ [leBytes 1 ((u8 p 0 &&& 0x81) + u8 p 2 % 64 * 2) ++ slice p 1 1 ++ p.drop 3]
      else more (p.drop 3)
    else if !hevc && t = 24 then a ++ aggregated p.length (p.drop 1)
    else if !hevc && t = 28 then
      if (u8 p 1).testBit 7 then a ++ [leBytes 1 ((u8 p 0 &&& 0xE0) + u8 p 1 % 32) ++ p.drop 2] else more (p.drop 2)
    else a ++ [p]) []

/-- Types of the NAL units of an access unit. -/
def AccessUnit.types (hevc : Bool) (u : AccessUnit) : List Nat :=
  u.nals.map fun b => if hevc then u8 b 0 / 2 % 64 else u8 b 0 % 32
/-- An IDR (H.264) or IRAP (H.265) access unit, a CRA one, a RASL one (R358). -/
def AccessUnit.entry (hevc : Bool) (u : AccessUnit) : Bool :=
  (u.types hevc).any fun t => if hevc then decide (16 ≤ t && t ≤ 23) else t == 5
def AccessUnit.cra (hevc : Bool) (u : AccessUnit) : Bool := hevc && (u.types hevc).any fun t => t == 21
def AccessUnit.rasl (hevc : Bool) (u : AccessUnit) : Bool := hevc && (u.types hevc).any fun t => t == 8 || t == 9

/-! ### Access units that wait for decode (R356 to R358) -/

/-- An access unit passes to the decoder, or is discarded while the stream waits for a random access point. -/
def Stream.pass (hevc : Bool) (v : Stream) (u : AccessUnit) : Stream :=
  if v.resync then
    if u.entry hevc then { v with resync := false, fault := false, skipRasl := u.cra hevc, queue := v.queue ++ [u] }
    else { v with lost := v.lost + 1 }
  else if v.skipRasl && u.rasl hevc then { v with lost := v.lost + 1 }
  else { v with skipRasl := v.skipRasl && !u.entry hevc, queue := v.queue ++ [u] }

/-- States of VID_STREAM_STAT (R380). -/
def vsOff : Nat := 0
def vsWait : Nat := 1
def vsRunning : Nat := 2
def vsUnsupported : Nat := 3
def vsMemory : Nat := 4

/-- Changes a stream; pictures that this loses are counted. -/
def State.updStream (s : State) (k : Nat) (f : Stream → Stream) : State :=
  let v := s.cam k
  let w := f v
  (s.setStream k w).count (VID_STREAM_LOST_COUNT_COUNT.bank k) (w.lost - v.lost)

/-- The stream enters resync: what waits is discarded up to a random access point. -/
def State.resync (s : State) (k state : Nat) : State :=
  let s := s.setFld (VID_STREAM_STAT_STATE.bank k) state
  let was := (s.cam k).fault
  let h := s.hevc k
  let s := s.updStream k fun (v : Stream) =>
    v.queue.foldl (Stream.pass h)
      { v with ssrc := none, resync := true, fault := true, resyncDue := true, skipRasl := false, queue := [] }
  if was then s else s.flag VID_STATUS_RESYNC

/-- A complete access unit passes on; more than 4 that wait make the stream resync, and the earliest is discarded. -/
def State.passUnit (s : State) (k : Nat) (u : AccessUnit) : State :=
  let h := s.hevc k
  let s := s.updStream k fun (v : Stream) => v.pass h u
  if (s.cam k).queue.length ≤ 4 then s
  else
    (s.updStream k fun (v : Stream) => { v with queue := v.queue.drop 1, lost := v.lost + 1 }).resync k vsWait

/-! ### The jitter buffer (R356) -/

/-- Extended sequence number nearest to a reference. -/
def extendSeq (ref seq : Nat) : Nat :=
  let d := (seq + 65536 - ref % 65536) % 65536
  if d < 32768 then ref + d else ref + d - 65536

/-- A packet put in order. -/
def insertPacket (p : RtpPacket) : List RtpPacket → List RtpPacket
  | [] => [p]
  | q :: l => if p.seq < q.seq then p :: q :: l else q :: insertPacket p l

/-- First packets of the runs, without a gap and of one time stamp, that end in a marker: (first, last). -/
def runs : Option (RtpPacket × RtpPacket) → List RtpPacket → List (RtpPacket × RtpPacket)
  | _, [] => []
  | o, p :: l =>
    let first := match o with
      | some (a, z) => if z.seq + 1 = p.seq && z.ts = p.ts then a else p
      | none => p
    (if p.marker then [(first, p)] else []) ++ runs (some (first, p)) l

/-- The first sequence number of an access unit is known: one follows the last packet of an access unit before it. -/
def Stream.starts (v : Stream) (first : RtpPacket) : Bool :=
  v.ends.contains first.seq || v.jitter.any (fun (p : RtpPacket) => p.seq + 1 = first.seq && p.ts != first.ts) ||
    (v.ends.isEmpty && v.jitter.all fun (p : RtpPacket) => first.seq ≤ p.seq)

/-- The earliest complete access unit: its first and last packets. -/
def Stream.complete (v : Stream) : Option (RtpPacket × RtpPacket) :=
  (runs none v.jitter).find? fun e => v.starts e.1

/-- Sequence numbers that follow last packets among those of one time stamp: of a marker, or of a packet that one of
another time stamp follows. -/
def endsOf (l : List RtpPacket) (ts : Nat) : List Nat :=
  ((l.filter fun (p : RtpPacket) => p.ts = ts && (p.marker ||
    l.any fun (q : RtpPacket) => q.seq = p.seq + 1 && q.ts != ts)).map fun p => p.seq + 1).reverse

def lastFew {α : Type} (l : List α) : List α := l.take 256

/-- The packets of a time stamp leave the buffer. -/
def Stream.leave (v : Stream) (ts : Nat) : Stream :=
  { v with ends := lastFew (endsOf v.jitter ts ++ v.ends), doneTs := lastFew (ts :: v.doneTs)
           jitter := v.jitter.filter fun (p : RtpPacket) => p.ts != ts }

/-- Every complete access unit passes on. -/
def State.passAll : Nat → State → Nat → State
  | 0, s, _ => s
  | n + 1, s, k =>
    let v := s.cam k
    match v.complete with
    | none => s
    | some (a, z) =>
      let ps := v.jitter.filter fun (p : RtpPacket) => a.seq ≤ p.seq && p.seq ≤ z.seq
      let u : AccessUnit := { ts := z.ts, arrival := ps.foldl (fun t (p : RtpPacket) => max t p.arrival) 0,
                              nals := nalUnits (s.hevc k) (ps.map (·.payload)) }
      State.passAll n ((s.setStream k (v.leave z.ts)).passUnit k u) k

def State.passReady (s : State) (k : Nat) : State := State.passAll ((s.cam k).jitter.length + 1) s k

/-- A packet enters the buffer, unless it is a duplicate or late; whether it has been taken. -/
def Stream.insert (v : Stream) (seq ts : Nat) (marker : Bool) (payload : Bytes) (time now : Nat) : Stream × Bool :=
  let ref := match v.jitter.getLast?, v.ends with
    | some p, _ => p.seq
    | none, e :: _ => e
    | none, [] => 65536 + seq
  let x := extendSeq ref seq
  if v.doneTs.contains ts then
    (if marker then { v with ends := lastFew ((x + 1) :: v.ends) } else v, false)
  else if v.jitter.any fun (p : RtpPacket) => p.seq = x then (v, false)
  else
    ({ v with jitter := insertPacket { seq := x, ts := ts, marker := marker, payload := payload, arrival := time,
                                        came := now } v.jitter },
      true)

/-- The buffer starts anew for packets of another SSRC. -/
def Stream.from (v : Stream) (ssrc now : Nat) : Stream :=
  let v := { v with ssrc := some ssrc, lastPacket := now }
  if v.source = some ssrc then v
  else { v with source := some ssrc, jitter := [], ends := [], counted := 0, doneTs := [] }

/-- An RTP packet of a stream. -/
def State.rtpIn (s : State) (f : RxFrame) : State :=
  match s.streamOf f with
  | none => s
  | some k =>
    let b := udpData f.body
    let ssrc := n32 b 8
    let want := s.fld (VID_STREAM_SSRC_SSRC.bank k)
    let mine := if want = 0 then ((s.cam k).ssrc.getD ssrc) == ssrc else want == ssrc
    match rtpPayload b with
    | none => s.rxDrop
    | some p =>
      if u8 b 1 % 128 != s.fld (VID_STREAM_CTL_PT.bank k) || !mine then s.rxDrop
      else
        let v := (s.cam k).from ssrc s.now
        if !payloadOk (s.hevc k) p then (s.setStream k v).rxDrop
        else
          let r := v.insert (n16 b 2) (n32 b 4) ((u8 b 1).testBit 7) p f.time s.now
          let s := s.setStream k r.1
          (if r.2 then s else s.rxDrop).passReady k

def execRtpPacket (s : State) : Host.Outcome State Fault Refusal := act s fun s => s.takeRx s.isRtp State.rtpIn

/-- An adopted SSRC is released. -/
def State.ssrcFree (s : State) (k : Nat) : State :=
  if (s.cam k).ssrc.isSome && s.fld (VID_STREAM_SSRC_SSRC.bank k) = 0 then
    (s.upTo ((s.cam k).lastPacket + 1000000000)).modStream k fun (v : Stream) => { v with ssrc := none }
  else s

def execSsrcRelease (stream : Nat) (s : State) : Host.Outcome State Fault Refusal := act s fun s => s.ssrcFree stream

/-- JITTER_MS in ns. -/
def State.jitterNs (s : State) (k : Nat) : Nat := max 1 (min 200 (s.fld (VID_STREAM_CTL_JITTER_MS.bank k))) * 1000000

/-- Sequence numbers of a lost access unit that are missing and not counted yet: how many, and up to where. -/
def Stream.missing (v : Stream) (ts : Nat) : Nat × Nat :=
  let mine := (v.jitter.filter fun (p : RtpPacket) => p.ts = ts).map (·.seq)
  let lo := mine.foldl min (mine.headD 0)
  let hi := mine.foldl max 0
  let below := (v.ends.filter fun e => e ≤ lo) ++ ((v.jitter.filter fun (p : RtpPacket) => p.seq < lo).map fun p => p.seq + 1)
  let above := (v.jitter.filter fun (p : RtpPacket) => hi < p.seq).map (·.seq)
  let from_ := max v.counted (if below.isEmpty then lo else below.foldl max 0)
  let to_ := above.foldl min (if above.isEmpty then hi + 1 else above.headD 0)
  (((List.range (to_ - from_)).filter fun i => !mine.contains (from_ + i)).length, to_)

/-- The access unit whose first packet came earliest has not become complete in time: it is lost. -/
def State.jitterLate (s : State) (k : Nat) : State :=
  let v := s.cam k
  match v.jitter.foldl (fun (o : Option RtpPacket) (p : RtpPacket) =>
      match o with
      | none => some p
      | some q => if p.came < q.came then some p else some q) none with
  | none => s
  | some p =>
    let s := s.upTo (p.came + s.jitterNs k)
    let m := v.missing p.ts
    let s := s.count (VID_STREAM_PKT_LOSS_COUNT_COUNT.bank k) m.1
    let s := s.updStream k fun (v : Stream) => { v.leave p.ts with counted := m.2, lost := v.lost + 1 }
    ((s.flag VID_STATUS_FRAME_LOST).resync k vsWait).passReady k

def execJitterTimeout (stream : Nat) (s : State) : Host.Outcome State Fault Refusal := act s fun s => s.jitterLate stream

/-! ### Decode (R357, R358, R367) -/

/-- a comes before b in the order of RTP time stamps. -/
def tsBefore (a b : Nat) : Bool := decide ((b + 2 ^ 32 - a) % 2 ^ 32 < 2 ^ 31)

/-- The decoded picture that is shown first, and the others. -/
def firstShown : List DecodedPic → Option (DecodedPic × List DecodedPic)
  | [] => none
  | u :: l =>
    let best := l.foldl (fun (a b : DecodedPic) => if tsBefore a.unit.ts b.unit.ts then a else b) u
    takeFirst (fun (x : DecodedPic) => x = best) (u :: l)

/-! ### Sequence parameter sets (R357) -/

/-- The payload of a NAL unit without its emulation-prevention bytes; `z` counts the zero bytes just read. -/
def rbsp : Nat → Bytes → Bytes
  | _, [] => []
  | z, b :: l => if 2 ≤ z && b = 3 then rbsp 0 l else b :: rbsp (if b = 0 then z + 1 else 0) l

/-- The bits of bytes, most significant first. -/
def bitsOut (b : Bytes) : List Bool := b.flatMap fun x => (List.range 8).map fun i => x.toNat.testBit (7 - i)

/-- An Exp-Golomb code of bits, after z zero bits, and the bits behind it. -/
def expGolomb : Nat → List Bool → Option (Nat × List Bool)
  | _, [] => none
  | z, false :: l => expGolomb (z + 1) l
  | z, true :: l =>
    if l.length < z then none
    else some ((l.take z).foldl (fun n b => 2 * n + b2n b) 1 - 1, l.drop z)

/-- Passes n Exp-Golomb codes. -/
def passCodes : Nat → List Bool → Option (List Bool)
  | 0, l => some l
  | n + 1, l => (expGolomb 0 l).bind fun r => passCodes n r.2

/-- Passes the deltas of a scaling list of n entries; none is left once the next entry is 0. -/
def passList : Nat → Nat → Nat → List Bool → Option (List Bool)
  | 0, _, _, l => some l
  | n + 1, last, next, l =>
    if next = 0 then some l
    else
      (expGolomb 0 l).bind fun r =>
        let d : Int := if r.1 % 2 = 1 then (r.1 + 1) / 2 else -(r.1 / 2 : Int)
        let next := ((last : Int) + d + 256).toNat % 256
        passList n (if next = 0 then last else next) next r.2

/-- Passes the scaling lists i to 7, each behind a flag. -/
def passLists : Nat → List Bool → Option (List Bool)
  | 0, l => some l
  | n + 1, l =>
    match l with
    | [] => none
    | f :: l => (if f then passList (if n < 2 then 64 else 16) 8 8 l else some l).bind (passLists n)

/-- An H.264 sequence parameter set keeps R357: High profile or one whose streams it decodes (log 222), level 5.1 at most, 8-bit 4:2:0, frame pictures
only; none where it does not parse. -/
def avcSps (nal : Bytes) : Option Bool := do
  let b := rbsp 0 (nal.drop 1)
  let profile := u8 b 0
  let (_, l) ← expGolomb 0 (bitsOut (b.drop 3))
  let (plain, l) ← if profile = 100 then do
      let (chroma, l) ← expGolomb 0 l
      let (luma8, l) ← expGolomb 0 l
      let (chroma8, l) ← expGolomb 0 l
      let l ← match l.drop 1 with
        | true :: l => passLists 8 l
        | false :: l => some l
        | [] => none
      some (chroma == 1 && luma8 == 0 && chroma8 == 0, l)
    else some (true, l)
  let (_, l) ← expGolomb 0 l
  let (order, l) ← expGolomb 0 l
  let l ← if order = 0 then passCodes 1 l
    else if order = 1 then do
      let l ← passCodes 2 (l.drop 1)
      let (n, l) ← expGolomb 0 l
      passCodes n l
    else some l
  let (_, l) ← expGolomb 0 l
  let l ← passCodes 2 (l.drop 1)
  let frames ← l.head?
  some ((profile == 77 || profile == 100 || (profile == 66 && (u8 b 1).testBit 6)) && decide (u8 b 2 ≤ 51) && plain && frames)

/-- An H.265 sequence parameter set keeps R357: Main or Main 10, Main tier, level 5.1 at most. -/
def hevcSps (nal : Bytes) : Option Bool :=
  let b := rbsp 0 (nal.drop 2)
  if b.length < 13 then none
  else
    let profile := u8 b 1 % 32
    let compat := (u8 b 2).testBit 6 || (u8 b 2).testBit 5
    some ((profile == 1 || profile == 2 || compat) && !(u8 b 1).testBit 5 && decide (u8 b 12 ≤ 153))

/-- The stream's parameter set is beyond R357, once the sets of an access unit have come; one that does not parse leaves the
matter to the decoder. -/
def AccessUnit.spsBad (hevc : Bool) (u : AccessUnit) (was : Bool) : Bool :=
  u.nals.foldl (fun bad n =>
    if (if hevc then u8 n 0 / 2 % 64 == 33 else u8 n 0 % 32 == 7) then
      ((if hevc then hevcSps n else avcSps n).map fun ok => !ok).getD bad
    else bad) was

/-- The picture is within the limits of R357. -/
def pictureOk (hevc : Bool) (p : Picture) : Bool :=
  decide (128 ≤ p.width && p.width ≤ 4096 && 96 ≤ p.height && p.height ≤ 2304) && (hevc || !p.tenBit)

/-- Camera inputs of the services that hold tiles and name a stream: service and snapshot. -/
def State.viewers (s : State) (k : Nat) : List (Nat × Nat) :=
  s.services.flatMap fun (e : Nat × Service) =>
    if e.2.phase.holds then
      (e.2.inputs.filter fun (i : Input) => i.kind = kindCamera && i.source = k).map fun (i : Input) => (e.1, i.snap)
    else []

/-- Luma samples decoded in the last second, with those of a new picture. -/
def State.demandWith (s : State) (n : Nat) : List (Nat × Nat) :=
  (s.intake.demand.filter fun e => s.now < e.1 + 1000000000) ++ [(s.now, n)]

/-- The decoded picture that is first in display order leaves the decoder. -/
def State.pictureOut (s : State) (k : Nat) : State :=
  let v := s.cam k
  match firstShown v.decoded with
  | none => s
  | some (d, rest) =>
    let size := (d.pic.width, d.pic.height)
    let show_ : Shown := { frame := v.frames % 2 ^ 32, ts := d.unit.ts, arrival := d.unit.arrival, resync := d.resync,
                           resChange := v.lastSize != some size, lost := v.lost, pic := d.pic }
    s.setStream k { v with
      decoded := rest, frames := v.frames + 1, shown := some show_, lastSize := some size,
      toShape := v.toShape ++ (s.viewers k).map fun e => (e.1, e.2, show_) }

/-- An access unit has been decoded, and its picture waits for its turn; `rest` still waits for decode. -/
def State.pictureIn (s : State) (k : Nat) (u : AccessUnit) (rest : List AccessUnit) (p : Picture) : State :=
  let v := s.cam k
  let s := s.setStream k { v with queue := rest, resyncDue := false,
                                  decoded := v.decoded ++ [{ unit := u, pic := p, resync := v.resyncDue }] }
  let s := s.setIntake { s.intake with demand := s.demandWith (p.width * p.height) }
  (s.count (VID_STREAM_FRAME_COUNT_COUNT.bank k) 1).setFlds
    [(VID_STREAM_STAT_STATE.bank k, if v.resync then s.fld (VID_STREAM_STAT_STATE.bank k) else vsRunning),
      (VID_STREAM_STAT_WIDTH.bank k, p.width), (VID_STREAM_STAT_HEIGHT.bank k, p.height)]

/-- Words of the video region in which an intake burst met an error: corrected, or uncorrectable (R310 to R312, R362). -/
def State.intakeErrors (s : State) (l : List (Nat × Bool)) : State :=
  l.foldl (fun (s : State) e => s.noteLpddr e.1 (if e.2 then .uncorrectable else .corrected)) s

/-- Those of a list that lie in the video region. -/
def State.inVideo (s : State) (l : List (Nat × Bool)) : List (Nat × Bool) :=
  l.filter fun e => s.vidRegion.1 ≤ e.1 && e.1 < s.vidRegion.2

/-- An access unit is discarded by the decoder, and the stream resyncs. -/
def State.decodeFails (s : State) (k : Nat) (state : Nat) : State :=
  (s.updStream k fun (v : Stream) => { v with queue := v.queue.drop 1, lost := v.lost + 1 }).resync k state

/-- What the decoder answers for the access unit of a stream that waits first, and how many pictures leave after it. A unit
that met a marked word, or whose region no burst reaches (R288, log 249), is lost (R362); one under a parameter set beyond the limits is unsupported whatever it decodes to. -/
def State.decoded (s : State) (k : Nat) (r : Decoded) (leaving : Nat) (errors : List (Nat × Bool)) : State :=
  match (s.cam k).queue with
  | [] => s
  | u :: rest =>
    let errors := s.inVideo errors
    let s := s.intakeErrors errors
    let s := s.modStream k fun (v : Stream) => { v with spsBad := u.spsBad (s.hevc k) v.spsBad }
    if errors.any (·.2) || !s.vidUsable then (s.flag VID_STATUS_FRAME_LOST).decodeFails k vsWait
    else if (s.cam k).spsBad then (s.flag VID_STATUS_UNSUPPORTED).decodeFails k vsUnsupported
    else
    match r with
    | .picture p =>
      if pictureOk (s.hevc k) p then
        (List.range (min leaving ((s.cam k).decoded.length + 1))).foldl (fun (s : State) _ => s.pictureOut k)
          (s.pictureIn k u rest p)
      else (s.flag VID_STATUS_UNSUPPORTED).decodeFails k vsUnsupported
    | .failed => s.decodeFails k vsWait
    | .unsupported => (s.flag VID_STATUS_UNSUPPORTED).decodeFails k vsUnsupported
    | .memory => (s.flag VID_STATUS_MEM_SHORT).decodeFails k vsMemory

/-! ### The frame shaper (R363 to R367) -/

/-- A plane of 8-bit samples. -/
structure Plane where
  width : Nat
  data : Array Nat

def Plane.px (p : Plane) (x y : Nat) : Nat := p.data.getD (y * p.width + x) 0

/-- 10-bit samples reduced to 8 bits. -/
def eightBit (ten : Bool) (l : List Nat) : List Nat := if ten then l.map fun v => min ((v + 2) / 4) 255 else l

def lumaOf (p : Picture) : Plane := ⟨p.width, (eightBit p.tenBit p.y).toArray⟩
def blueOf (p : Picture) : Plane := ⟨(p.width + 1) / 2, (eightBit p.tenBit p.cb).toArray⟩
def redOf (p : Picture) : Plane := ⟨(p.width + 1) / 2, (eightBit p.tenBit p.cr).toArray⟩

/-- Position of output pixel u of n over `len` pixels from c0, with 8 fraction bits. -/
def shapePos (u n c0 len : Nat) : Nat :=
  let p : Int := (((2 * u + 1) * len * 128 / n : Nat) : Int) - 128
  c0 * 256 + (clampInt 0 ((len - 1) * 256 : Nat) p).toNat

/-- Bilinear sample; x1, y1 are the last positions of the crop. -/
def Plane.sample (p : Plane) (px py x1 y1 : Nat) : Nat :=
  let i := px / 256
  let fx := px % 256
  let j := py / 256
  let fy := py % 256
  let i1 := min (i + 1) x1
  let j1 := min (j + 1) y1
  ((256 - fx) * (256 - fy) * p.px i j + fx * (256 - fy) * p.px i1 j + (256 - fx) * fy * p.px i j1 + fx * fy * p.px i1 j1 +
    32768) / 65536

/-- Fields of a camera entry (R363). -/
def camW (e : Bytes) : Nat := u16 e 4
def camH (e : Bytes) : Nat := u16 e 6

/-- The crop window in a picture of a size: x, y, width, height, and whether it was clipped. -/
def camCrop (e : Bytes) (w h : Nat) : Nat × Nat × Nat × Nat × Bool :=
  let x := u16 e 8
  let y := u16 e 10
  let cw := u16 e 12
  let ch := u16 e 14
  let w' := min (x + cw) w - x
  let h' := min (y + ch) h - y
  if cw = 0 then (0, 0, w, h, false)
  else
    let out := decide (w < x + cw) || decide (h < y + ch)
    if w' = 0 || h' = 0 then (0, 0, w, h, out) else (x, y, w', h', out)

/-- The coefficients of R366: ky, crv, cbg, crg, cbb, yo. -/
structure Colour where
  ky : Int
  crv : Int
  cbg : Int
  crg : Int
  cbb : Int
  yo : Int

/-- The conversion that an entry and the stream name. -/
def camColour (e : Bytes) (p : Picture) : Colour :=
  let m := snapFlags e / 4 % 4
  let r := snapFlags e / 16 % 4
  let old : Bool := if m = 0 then p.matrix == some 5 || p.matrix == some 6 else m == 1
  let full : Bool := if r = 0 then p.fullRange == some true else r == 2
  match old, full with
  | false, false => ⟨4769, 7343, -873, -2183, 8652, 16⟩
  | false, true => ⟨4096, 6450, -767, -1917, 7601, 0⟩
  | true, false => ⟨4769, 6537, -1605, -3330, 8263, 16⟩
  | true, true => ⟨4096, 5743, -1410, -2925, 7258, 0⟩

/-- R, G and B of a pixel as activations. -/
def Colour.rgb (c : Colour) (y cb cr : Nat) : List Int :=
  let y := (y : Int) - c.yo
  let b := (cb : Int) - 128
  let r := (cr : Int) - 128
  let f := fun (x : Int) => clampInt 0 255 ((x + 2048) / 4096) - 128
  [f (c.ky * y + c.crv * r), f (c.ky * y + c.cbg * b + c.crg * r), f (c.ky * y + c.cbb * b)]

/-- The channels of output pixel (u, v). -/
def camPixel (e : Bytes) (c : Colour) (crop : Nat × Nat × Nat × Nat × Bool) (yp bp rp : Plane) (u v : Nat) : List Int :=
  let cx := crop.1
  let cy := crop.2.1
  let cw := crop.2.2.1
  let ch := crop.2.2.2.1
  let px := shapePos u (camW e) cx cw
  let py := shapePos v (camH e) cy ch
  let y := yp.sample px py (cx + cw - 1) (cy + ch - 1)
  if camChannels e = 1 then [(y : Int) - 128]
  else
    let f := fun (p : Plane) => p.sample (px / 2) (py / 2) ((cx + cw) / 2 - 1) ((cy + ch) / 2 - 1)
    c.rgb y (f bp) (f rp)

/-- The tensor of a camera buffer: for each position block, a word of each channel (R364). -/
def camTensor (e : Bytes) (p : Picture) : List QWord :=
  let n := camW e * camH e
  let crop := camCrop e p.width p.height
  let c := camColour e p
  let yp := lumaOf p
  let bp := blueOf p
  let rp := redOf p
  (List.range ((n + 15) / 16)).flatMap fun b =>
    let px := (List.range 16).map fun i =>
      let k := 16 * b + i
      if k < n then camPixel e c crop yp bp rp (k % camW e) (k / camW e) else []
    (List.range (camChannels e)).map fun ch =>
      BitVec.ofNat 128 (leNat (px.map fun l => BitVec.ofInt 8 (l.getD ch 0)))

/-- The header of a camera buffer (R367). -/
def camHeader (e : Bytes) (x : Shown) (ready dropped : Nat) : Bytes :=
  let p := x.pic
  let clip := (camCrop e p.width p.height).2.2.2.2
  let fl := cfResync * b2n x.resync + cfResChange * b2n x.resChange + cfIdr * b2n p.idr + cfCropClip * b2n clip
  leBytes 4 x.frame ++ leBytes 4 x.ts ++ leBytes 8 x.arrival ++ leBytes 8 ready ++ leBytes 2 p.width ++ leBytes 2 p.height ++
    leBytes 1 (snapSource e) ++ leBytes 1 fl ++ leBytes 2 0 ++ leBytes 4 (min dropped 0xFFFFFFFF) ++ List.replicate 28 0

/-- The words of a shaped buffer; those of the position blocks listed are marked (R362). -/
def camWords (e : Bytes) (x : Shown) (ready dropped : Nat) (blocks : List Nat) : List MWord :=
  let ws := camTensor e x.pic
  ((words128 (camHeader e x ready dropped)).map fun w => ⟨w, false⟩) ++
    ((List.range ws.length).zip ws).map fun (i, w) => ⟨w, blocks.contains (i / camChannels e)⟩

/-- A shaped picture goes into an input's FILL buffer, which becomes READY. -/
def Input.shape (i : Input) (e : Bytes) (x : Shown) (ready : Nat) (blocks : List Nat) : Input :=
  let old := i.bufs.find? fun (b : Buf) => b.state = .ready
  let replaced := old.elim 0 fun (b : Buf) => b.replaced + 1
  let ws := camWords e x ready (x.lost - i.held.lost + replaced) blocks
  i.fill fun (_ : Buf) =>
    let b := Buf.empty.writes 0 ws
    { b with landing := landingDigest kindCamera (b.bytes i.bytes), marked := (ws.filter (·.poison)).length,
             pic := some x.pic, lost := x.lost, replaced := replaced }

/-- The earliest picture that waits to be shaped for a camera input. -/
def State.shaped (s : State) (n snap : Nat) (blocks : List Nat) : State :=
  let v := s.svc n
  match v.inputs.find? (fun (i : Input) => i.snap = snap && i.kind = kindCamera), imgSnap v.image snap with
  | some i, some e =>
    let st := s.cam i.source
    match takeFirst (fun (x : Nat × Nat × Shown) => x.1 = n && x.2.1 = snap) st.toShape with
    | none => s
    | some (x, rest) =>
      let s := s.setStream i.source { st with toShape := rest }
      s.modSvc n fun v => { v with inputs := v.inputs.map fun (j : Input) =>
        if j.snap = snap then j.shape e x.2.2 s.stamp blocks else j }
  | _, _ => s

def execShapeDone (service snap : Nat) (marks : ShapeMarks) (s : State) : Host.Outcome State Fault Refusal :=
  act s fun s => (s.intakeErrors (s.inVideo marks.errors)).shaped service snap marks.blocks

/-! ### Writes of the stream and video-memory registers (R348, R361, R380) -/

/-- Video-region frames that the enabled streams hold. -/
def State.streamFrames (s : State) : Nat :=
  (List.range 32).foldl (fun n k => if s.streamOn k then n + s.fld (VID_STREAM_CTL_MEM.bank k) else n) 0

/-- A disabled stream's READY buffers and waiting pictures are dropped, so that every later tick substitutes. -/
def State.streamOff (s : State) (k : Nat) : State :=
  let s := s.setStream k { Stream.reset with lost := (s.cam k).lost }
  let s := s.setFld (VID_STREAM_STAT_STATE.bank k) vsOff
  { s with services := s.services.map fun (e : Nat × Service) =>
    (e.1, { e.2 with inputs := e.2.inputs.map fun (i : Input) =>
      if i.kind = kindCamera && i.source = k then i.modBuf .ready (fun _ => Buf.empty) else i }) }

/-- A host write of VID_STREAM_CTL of the stream selected; a region outside usable T3 fits no stream (R288, log 249). -/
def State.streamCtl (s : State) (v : Nat) : State :=
  let k := s.fld VID_STREAM_SEL_SEL
  let on := v.testBit 31
  if s.streamOn k && on then s.flag VID_STATUS_ACCESS
  else
    let was := s.streamOn k
    let t := s.setFlds [(VID_STREAM_CTL_PORT.bank k, bitsOf v 30 29), (VID_STREAM_CTL_CODEC.bank k, bitsOf v 28 28),
      (VID_STREAM_CTL_PT.bank k, bitsOf v 27 21), (VID_STREAM_CTL_MEM.bank k, bitsOf v 20 13),
      (VID_STREAM_CTL_JITTER_MS.bank k, bitsOf v 12 5), (VID_STREAM_CTL_EN.bank k, 0)]
    if was then (t.streamOff k).igmpFollow s
    else if !on then t
    else if !s.vidUsable || s.fld VID_MEM_SIZE_FRAMES < s.streamFrames + bitsOf v 20 13 then
      (t.flag VID_STATUS_MEM_SHORT).flag VID_STATUS_ACCESS
    else
      let t := t.setFlds [(VID_STREAM_CTL_EN.bank k, 1), (VID_STREAM_STAT_STATE.bank k, vsWait)]
      (t.modStream k fun (x : Stream) => { Stream.reset with lost := x.lost }).igmpFollow s

def execVidStreamCtlWrite (value : Word) (s : State) : Host.Outcome State Fault Refusal :=
  hostAct VID_STREAM_CTL.off s fun s => s.streamCtl value.toNat

/-- The video region meets the pool, a coded region or a fixed range. -/
def State.vidMeets (s : State) : Bool :=
  let r := s.vidRegion
  overlap r.1 r.2 s.poolLo s.poolHi || overlap r.1 r.2 s.progLo s.progHi ||
    (List.range 8).any (fun k => s.regionOn k && overlap r.1 r.2 (s.regionBase k) (s.regionBase k + 512 * s.regionBlocks k)) ||
    s.heldImages.any (fun b => rangesMeet (imgFixed b) [r]) || rangesMeet (s.resvs.map (·.window)) [r]

/-- A host write of VID_MEM_BASE or VID_MEM_SIZE. -/
def State.vidMem (s : State) (size : Bool) (v : Nat) : State :=
  let busy := (List.range 32).any s.streamOn || (List.range 16).any fun k => s.bit (VID_ENC_CTL_EN.bank k)
  let t := s.setFld (if size then VID_MEM_SIZE_FRAMES else VID_MEM_BASE_FRAME) (v % 65536)
  if busy || t.vidMeets then s.flag VID_STATUS_ACCESS else t

def execVidMemWrite (size : Bool) (value : Word) (s : State) : Host.Outcome State Fault Refusal :=
  hostAct (if size then VID_MEM_SIZE.off else VID_MEM_BASE.off) s fun s => s.vidMem size value.toNat

end Sys2Proof.Machine
end

