-- ==== Sys2Proof/Machine/Egress.lean ====
section
/-! DEFINITION. What leaves of a tick through the Ethernet ports: event datagrams and annotated video (R34, R370 to R377,
R379). -/

namespace Sys2Proof.Machine

/-! ### Event datagrams (R370 to R372) -/

/-- FLAGS of a datagram. -/
def efLast : Nat := 0
def efDiscard : Nat := 1
def efOverrun : Nat := 2
def efSkipped : Nat := 3
def efSubst : Nat := 4
def efPoison : Nat := 5
def efTrunc : Nat := 6

/-- Records that an event buffer can hold. -/
def eventCapacity (bytes : Nat) : Nat := (bytes - 16) / 64

/-- Record r of an event buffer, with its bit 0 as the device writes it, and that bit. -/
def Output.eventRecord (o : Output) (r : Nat) : Bytes × Bool :=
  let ws := o.egress.slice (1 + 4 * r) 4
  let mark := ws.any (·.poison)
  (modAt (ws.flatMap fun w => bytes128 w.data) 3 fun b => (b &&& 0xFE) ||| BitVec.ofNat 8 (b2n mark), mark)

/-- The header of a datagram. -/
def eventHeader (cls n flags : Nat) (l : TickLog) (seq part count : Nat) : Bytes :=
  ascii "KEVT" ++ [1] ++ leBytes 1 cls ++ leBytes 1 n ++ leBytes 1 flags ++ leBytes 8 l.tick ++ leBytes 8 l.boundaryTs ++
    leBytes 4 seq ++ leBytes 2 part ++ leBytes 2 count ++ leBytes 8 deviceValue ++ leBytes 4 l.modelEpoch ++ leBytes 4 0

/-- Queues a datagram of a profile on the ports that it names. -/
def State.queueEvent (s : State) (profile n cls records : Nat) (body : Bytes) : State :=
  let pcp := if cls = clA then 7 else min 6 (s.fld (VID_EGR_CTL_PCP.bank profile))
  let d := fun (p : Nat) => ({
    port := p, profile := profile, pcp := pcp, dst := s.fld (VID_EGR_DST_DST_ADDR.bank profile),
    dscp := s.fld (VID_EGR_CTL_DSCP.bank profile), srcPort := s.fld (VID_EGR_DST_SRC_PORT.bank profile),
    dstPort := s.fld (VID_EGR_DST_DST_PORT.bank profile), svc := n, records := records, body := body, raw := none, ptp := none } : Datagram)
  s.setIntake { s.intake with egress := s.intake.egress ++ (portsOf (s.fld (VID_EGR_CTL_PORT.bank profile))).map d }

/-- Datagrams of a list of records, cut into parts. -/
def State.queueParts (s : State) (profile n cls flags : Nat) (l : TickLog) (parts : List (List (Bytes × Bool))) : State :=
  ((List.range parts.length).zip parts).foldl (fun (s : State) e =>
    let seq := Tab.lookD s.intake.egrSeq profile 0
    let last := e.1 + 1 = parts.length
    let fl := flags ||| (2 ^ efLast * b2n last) ||| (2 ^ efPoison * b2n (e.2.any (·.2)))
    let fl := if e.1 = 0 then fl else without fl (2 ^ efDiscard)
    let s := s.setIntake { s.intake with egrSeq := Tab.put s.intake.egrSeq profile ((seq + 1) % 2 ^ 32) }
    s.queueEvent profile n cls e.2.length (eventHeader cls n fl l seq e.1 e.2.length ++ e.2.flatMap (·.1))) s

/-- The header flags that a tick's log gives. -/
def eventFlags (l : TickLog) (discard : Bool) : Nat :=
  2 ^ efDiscard * b2n discard + 2 ^ efOverrun * b2n (l.flags.testBit rfOverrun) +
    2 ^ efSkipped * b2n (l.flags.testBit rfSkipped) + 2 ^ efSubst * b2n (l.flags.testBit rfSubst)

/-- Splits the event output of a tick that has ended into datagrams; `o` holds the flipped buffer as its egress. -/
def State.eventsOut (s : State) (n : Nat) (o : Output) (l : TickLog) (discard : Bool) : State :=
  let k := o.source
  let cls := (s.svc n).cls
  let off := l.flags.testBit rfOverrun || l.flags.testBit rfSkipped
  let head := (o.egress.read 0).2
  let mark := !off && head.poison
  let count := if off || mark then 0 else head.data.toNat % 2 ^ 32
  let cap := eventCapacity o.bytes
  let trunc := cap < count
  let recs := (List.range (min count cap)).map o.eventRecord
  let s := s.whenB (!off) fun s => s.noteEgress n o (0 :: (List.range (4 * recs.length)).map (4 + ·))
  let fl := eventFlags l discard + 2 ^ efTrunc * b2n trunc + 2 ^ efPoison * b2n mark
  let s := s.whenB trunc fun s => s.flag VID_STATUS_EVT_TRUNC
  if !s.bit (VID_EGR_CTL_EN.bank k) then s
  else if recs.isEmpty && !mark && !s.bit (VID_EGR_CTL_HEARTBEAT.bank k) then s
  else s.queueParts k n cls fl l (if recs.isEmpty then [[]] else chunks 22 recs)

/-- Records of the datagrams of a service's profile that have not left; a datagram for both ports counts once. -/
def State.eventsLeft (s : State) (n profile : Nat) : Nat :=
  let mine := s.intake.egress.filter fun (d : Datagram) => d.svc = n && d.profile = profile
  let bodies := mine.foldl (fun (l : List (Bytes × Nat)) (d : Datagram) =>
    if l.contains (d.body, d.records) then l else l ++ [(d.body, d.records)]) []
  bodies.foldl (fun c b => c + b.2) 0

/-- Datagrams of a service that have not left at its next flip are discarded (R34), in one event for the service: the state,
and how many records were among them. `late`: another output of the service is cut short as well, which joins the event and
has no records to count (DESIGN CHOICE, log 198). -/
def State.eventsDrop (s : State) (n : Nat) (profiles : List Nat) (late : Bool) : State × Nat :=
  let lost := profiles.foldl (fun c k => c + s.eventsLeft n k) 0
  let s := profiles.foldl (fun (s : State) k => s.count (VID_EGR_DISCARD_COUNT_COUNT.bank k) (s.eventsLeft n k)) s
  let s := s.setIntake { s.intake with egress := s.intake.egress.filter fun (d : Datagram) =>
    !(d.svc = n && profiles.contains d.profile) }
  let s := (s.txFlush 0).txFlush 1
  (s.whenB (late || lost != 0) fun s => s.flagWith VID_STATUS_EVT_DISCARD
    (leBytes 1 n ++ leBytes 1 (s.svc n).cls ++ [0, 0] ++ leBytes 4 (min lost 0xFFFFFFFF)), lost)

/-! ### Overlays (R376, R377) -/

/-- A record of an overlay buffer. -/
structure Drawing where
  kind : Nat
  colour : Nat
  alpha : Nat
  width : Nat
  x0 : Nat
  y0 : Nat
  x1 : Nat
  y1 : Nat

def drawing (b : Bytes) : Drawing :=
  { kind := u8 b 0, colour := u8 b 1 % 16, alpha := u8 b 2, width := max 1 (u8 b 3), x0 := u16 b 4, y0 := u16 b 6, x1 := u16 b 8,
    y1 := u16 b 10 }

/-- Points of Bresenham's line that goes right and down, from a point with an error term. -/
def linePoints (x1 y1 dx dy : Int) : Nat → Int → Int → Int → List (Int × Int)
  | 0, _, _, _ => []
  | n + 1, x, y, err =>
    (x, y) :: (if x = x1 && y = y1 then []
      else
        let e := 2 * err
        let right := decide (-dy ≤ e)
        let down := decide (e ≤ dx)
        linePoints x1 y1 dx dy n (if right then x + 1 else x) (if down then y + 1 else y)
          (err - (if right then dy else 0) + (if down then dx else 0)))

/-- The luma samples that a record covers in a picture of a size, in row-major order. -/
def Drawing.cover (d : Drawing) (w h : Nat) : Array Bool :=
  if d.kind = 3 then
    let dx := d.x1 - d.x0
    let dy := d.y1 - d.y0
    (linePoints d.x1 d.y1 dx dy (dx + dy + 1) d.x0 d.y0 ((dx : Int) - dy)).foldl (fun (a : Array Bool) p =>
      if p.1.toNat < w && p.2.toNat < h then a.setIfInBounds (p.2.toNat * w + p.1.toNat) true else a)
      (Array.replicate (w * h) false)
  else
    Array.ofFn fun (i : Fin (w * h)) =>
      let x := i.val % w
      let y := i.val / w
      let inside := decide (d.x0 ≤ x && x ≤ d.x1 && d.y0 ≤ y && y ≤ d.y1)
      let edge := decide (x - d.x0 < d.width || d.x1 - x < d.width || y - d.y0 < d.width || d.y1 - y < d.width)
      inside && (d.kind = 2 || (d.kind = 1 && edge))

/-- A covered sample. -/
def blend (alpha c v : Nat) : Nat :=
  let a := alpha + alpha / 128
  (a * c + (256 - a) * v + 128) / 256

/-- Samples with those covered blended; `at_`: the luma sample that decides for a sample. -/
def blendAll (cov : Array Bool) (at_ : Nat → Nat) (alpha c : Nat) (l : List Nat) : List Nat :=
  ((List.range l.length).zip l).map fun e => if cov.getD (at_ e.1) false then blend alpha c e.2 else e.2

/-- Draws a record in the colour y, cb, cr. -/
def Drawing.draw (d : Drawing) (p : Picture) (c : Nat × Nat × Nat) : Picture :=
  let cov := d.cover p.width p.height
  let cw := (p.width + 1) / 2
  let sub := fun i => 2 * (i / cw) * p.width + 2 * (i % cw)
  { p with y := blendAll cov id d.alpha c.1 p.y, cb := blendAll cov sub d.alpha c.2.1 p.cb,
           cr := blendAll cov sub d.alpha c.2.2 p.cr }

/-- Records of the overlay in a flipped buffer. -/
def Output.drawings (o : Output) : Nat :=
  if (o.egress.read 0).2.poison then 0 else min (u16 (o.egress.bytes 64) 0) ((o.bytes - 64) / 16)

/-- Draws the overlay in a flipped buffer over a picture; whether a record was skipped. -/
def drawOverlay (o : Output) (p : Picture) : Picture × Bool :=
  let b := o.egress.bytes 64
  (List.range o.drawings).foldl (fun (a : Picture × Bool) i =>
    let w := (o.egress.read (4 + i)).2
    let d := drawing (bytes128 w.data)
    if w.poison || 3 < d.kind || d.x1 < d.x0 || d.y1 < d.y0 then (a.1, true)
    else if d.kind = 0 then a
    else
      let k := 16 + 3 * d.colour
      (d.draw a.1 (u8 b k, u8 b (k + 1), u8 b (k + 2)), a.2)) (p, false)

/-! ### Encoders (R373 to R375) -/

def State.encoder (s : State) (k : Nat) : Encoder := Tab.lookD s.intake.encoders k Encoder.reset
def State.setEncoder (s : State) (k : Nat) (e : Encoder) : State :=
  s.setIntake { s.intake with encoders := Tab.put s.intake.encoders k e }

/-- Scaling divisor of SCALE. -/
def scaleBy (v : Nat) : Nat := if v = 0 then 1 else if v = 1 then 2 else 4
/-- A side of the encoded picture. -/
def scaledSide (n v : Nat) : Nat := n / scaleBy v / 2 * 2

/-- A whole plane scaled to n × m. -/
def Plane.scale (p : Plane) (h n m : Nat) : List Nat :=
  (List.range (n * m)).map fun i =>
    p.sample (shapePos (i % n) n 0 p.width) (shapePos (i / n) m 0 h) (p.width - 1) (h - 1)

/-- The 8-bit picture of an encoder's size. -/
def scaled (p : Picture) (v : Nat) : Picture :=
  let w := scaledSide p.width v
  let h := scaledSide p.height v
  let ch := (p.height + 1) / 2
  { p with width := w, height := h, tenBit := false, y := (lumaOf p).scale p.height w h, cb := (blueOf p).scale ch (w / 2) (h / 2),
           cr := (redOf p).scale ch (w / 2) (h / 2) }

/-- The picture that a service holds for a stream. -/
def Service.heldPic (v : Service) (stream : Nat) : Option Picture :=
  (v.inputs.find? fun (i : Input) => i.kind = kindCamera && i.source = stream).bind fun i => i.held.pic

/-- What an encoder takes at the boundary that ends tick n: for a service that ran, the picture it held in that tick;
otherwise the latest picture. `s` is the state before the swap of step 3. -/
def State.encoderSource (s : State) (k : Nat) : Option Picture :=
  let v := s.svc (s.fld (VID_ENC_CTL_SERVICE.bank k))
  let st := s.fld (VID_ENC_CTL_STREAM.bank k)
  if v.phase = .running then v.heldPic st
  else if s.streamOn st then (s.cam st).shown.map (·.pic)
  else none

/-- An encoder takes a picture with the overlay of its service's tick; one that waits unstarted is skipped (R374). `t`: time
of the boundary of tick n. -/
def State.encoderTake (s : State) (k t : Nat) (pic : Picture) (overlay : Option Output) : State :=
  let e := s.encoder k
  let r := match overlay with
    | some o => drawOverlay o (scaled pic (s.fld (VID_ENC_CTL_SCALE.bank k)))
    | none => (scaled pic (s.fld (VID_ENC_CTL_SCALE.bank k)), false)
  let s := overlay.elim s fun o => s.noteEgress (s.fld (VID_ENC_CTL_SERVICE.bank k)) o (List.range (4 + o.drawings))
  let s := s.whenB r.2 fun s => s.flag VID_STATUS_OVL_ERR
  if e.picture.isNone then s.setEncoder k { e with picture := some (r.1, t), waiting := none }
  else s.setEncoder k { e with waiting := some (r.1, t) }

/-- A picture that has not started by the next boundary is skipped. -/
def State.encoderSkip (s : State) (k : Nat) : State :=
  let e := s.encoder k
  if e.waiting.isSome then
    ((s.setEncoder k { e with waiting := none }).count (VID_ENC_SKIP_COUNT_COUNT.bank k) 1).flag VID_STATUS_ENC_SKIP
  else s

/-- Fragments of at most n bytes, each with whether it is the first and the last. -/
def fragments (n : Nat) (b : Bytes) : List (Bool × Bool × Bytes) :=
  let l := chunks n b
  ((List.range l.length).zip l).map fun e => (decide (e.1 = 0), decide (e.1 + 1 = l.length), e.2)

/-- RTP payloads of a NAL unit, of at most 1,400 bytes (RFC 6184, RFC 7798). -/
def nalPayloads (hevc : Bool) (nal : Bytes) : List Bytes :=
  if nal.length ≤ 1400 then [nal]
  else if hevc then
    (fragments 1397 (nal.drop 2)).map fun e =>
      leBytes 1 ((u8 nal 0 &&& 0x81) + 49 * 2) ++ slice nal 1 1 ++
        leBytes 1 (128 * b2n e.1 + 64 * b2n e.2.1 + u8 nal 0 / 2 % 64) ++ e.2.2
  else
    (fragments 1398 (nal.drop 1)).map fun e =>
      leBytes 1 ((u8 nal 0 &&& 0xE0) + 28) ++ leBytes 1 (128 * b2n e.1 + 64 * b2n e.2.1 + u8 nal 0 % 32) ++ e.2.2

/-- RTP time stamp of a boundary time. -/
def rtpTs (t : Nat) : Nat := t * 9 / 100000 % 2 ^ 32

/-- Sends an encoder's RTP packet on the ports of its egress profile. -/
def State.sendRtp (s : State) (k t : Nat) (marker : Bool) (payload : Bytes) : State :=
  let e := s.encoder k
  let g := s.fld (VID_ENC_CTL_EGR.bank k)
  let b := [0x80] ++ leBytes 1 (128 * b2n marker + s.fld (VID_ENC_RATE_PT.bank k)) ++ beBytes 2 e.seq ++ beBytes 4 (rtpTs t) ++
    beBytes 4 (s.fld (VID_ENC_SSRC_SSRC.bank k)) ++ payload
  let s := s.setEncoder k { e with seq := (e.seq + 1) % 65536 }
  (portsOf (s.fld (VID_EGR_CTL_PORT.bank g))).foldl (fun (s : State) p =>
    (s.sendUdp p (min 6 (s.fld (VID_EGR_CTL_PCP.bank g))) (s.vlanOf p (s.fld (VID_EGR_CTL_VLAN.bank g)))
      (s.fld (VID_EGR_CTL_DSCP.bank g)) (s.fld (VID_ENC_DST_SRC_PORT.bank k)) (s.fld (VID_ENC_DST_DST_ADDR.bank k))
      (s.fld (VID_ENC_DST_DST_PORT.bank k)) b).1) s

/-- A NAL unit of a type, with its header (log 223). -/
def nalUnit (hevc : Bool) (type : Nat) (b : Bytes) : Bytes :=
  (if hevc then leBytes 1 (2 * type) ++ [1] else leBytes 1 (0x60 + type)) ++ b

/-- Types of the parameter sets that precede an IDR picture: those of H.265, or the two of H.264. -/
def paramTypes (hevc : Bool) : List Nat := if hevc then [32, 33, 34] else [7, 8]

/-- The next picture of an encoder is an IDR picture: its first, and every GOP-th (R374). -/
def State.encoderIdr (s : State) (k : Nat) : Bool :=
  let n := (s.encoder k).frame
  let gop := s.fld (VID_ENC_CTL_GOP.bank k)
  n == 0 || (gop != 0 && n % gop == 0)

/-- NAL units of an encoded picture: one slice, with the parameter sets before it where it is an IDR picture (R374, R375). -/
def State.encodedNals (s : State) (k : Nat) (params : List Bytes) (slice_ : Bytes) : List Bytes :=
  let hevc := s.bit (VID_ENC_CTL_CODEC.bank k)
  if s.encoderIdr k then
    ((List.range (paramTypes hevc).length).map fun i => nalUnit hevc ((paramTypes hevc).getD i 0) (params.getD i [])) ++
      [nalUnit hevc (if hevc then 19 else 5) slice_]
  else [nalUnit hevc 1 slice_]

/-- An encoder finishes its picture, which is skipped where no burst reaches its references (R288, log 249); the operands are the coded bytes of its parameter sets and of its slice (log 89). -/
def State.encoded (s : State) (k : Nat) (params : List Bytes) (slice_ : Bytes) : State :=
  let e := s.encoder k
  match e.picture with
  | none => s
  | some (_, t) =>
    let l := (s.encodedNals k params slice_).flatMap (nalPayloads (s.bit (VID_ENC_CTL_CODEC.bank k)))
    let s := s.setEncoder k { e with picture := e.waiting, waiting := none, frame := e.frame + 1 }
    if !s.vidUsable then (s.count (VID_ENC_SKIP_COUNT_COUNT.bank k) 1).flag VID_STATUS_ENC_SKIP else
    ((List.range l.length).zip l).foldl (fun (s : State) x => s.sendRtp k t (x.1 + 1 = l.length) x.2) s

def execPictureEncoded (encoder : Nat) (coded : CodedPicture) (s : State) : Host.Outcome State Fault Refusal :=
  act s fun s => s.encoded encoder coded.params coded.slice

/-- Pixels of an encoder's pictures. -/
def State.encoderPixels (s : State) (k : Nat) : Nat :=
  let st := s.fld (VID_ENC_CTL_STREAM.bank k)
  let v := s.fld (VID_ENC_CTL_SCALE.bank k)
  scaledSide (s.fld (VID_STREAM_STAT_WIDTH.bank st)) v * scaledSide (s.fld (VID_STREAM_STAT_HEIGHT.bank st)) v

/-- A host write of VID_ENC_CTL of the encoder selected: 500 pixels for each µs of the tick at most. -/
def State.encCtl (s : State) (v : Nat) : State :=
  let k := s.fld VID_ENC_SEL_SEL % 16
  let was := s.bit (VID_ENC_CTL_EN.bank k)
  let on := v.testBit 31
  if was && on then s.flag VID_STATUS_ACCESS
  else
    let t := s.setFlds [(VID_ENC_CTL_CODEC.bank k, bitsOf v 30 30), (VID_ENC_CTL_SCALE.bank k, bitsOf v 29 28),
      (VID_ENC_CTL_EGR.bank k, bitsOf v 27 24), (VID_ENC_CTL_STREAM.bank k, bitsOf v 23 19),
      (VID_ENC_CTL_SERVICE.bank k, bitsOf v 18 13), (VID_ENC_CTL_GOP.bank k, bitsOf v 12 5), (VID_ENC_CTL_EN.bank k, 0)]
    let t := t.setEncoder k { Encoder.reset with seq := (t.encoder k).seq }
    let sum := (List.range 16).foldl (fun n j =>
      if j = k || t.bit (VID_ENC_CTL_EN.bank j) then n + t.encoderPixels j else n) 0
    if !on then t
    else if 500 * t.fld TCK_PERIOD_ACT_PERIOD_US < sum then (t.flag VID_STATUS_ENC_REJ).flag VID_STATUS_ACCESS
    else t.setFld (VID_ENC_CTL_EN.bank k) 1

def execVidEncCtlWrite (value : Word) (s : State) : Host.Outcome State Fault Refusal := hostAct VID_ENC_CTL.off s fun s => s.encCtl value.toNat

end Sys2Proof.Machine
end

