-- ==== Sys2Proof/Machine/Window.lean ====
section
/-! DEFINITION. Steps 2 and 3 of a boundary window: overruns (R42 to R46), the judgements of the watchdog (R471), input
and output snapshots (R27 to R34, R368, R420, R430, R431), and result records (R405, R406, R519 to R521). -/

namespace Sys2Proof.Machine

/-! ### Step 2: overruns -/

/-- Pages of a tile that the tick leaves in its repair queue, and what the tile still had at work, go. -/
def State.endTileTick (s : State) (t : Nat) : State :=
  let s := (s.tileOf t).repairs.foldl (fun (s : State) r => s.repairEnds t r) s
  (s.modTile t fun x => { x with xfers := [], wait := none, run := none, slab := none, repairs := [] }).setFlds
    [(TIL_SLAB_STAT_FILLING.tile t, 0), (TIL_STATE_PHASE.tile t, 0)]

/-- Tiles of a service that have not ended. -/
def State.openTiles (s : State) (n : Nat) : List Nat :=
  (imgTiles (s.svc n).image).filter fun t => s.tileState t = tsRunning

/-- A service that runs at the boundary ends its tick: an overrun where tiles are still running. -/
def State.endTick (s : State) (n : Nat) : State :=
  let v := s.svc n
  if v.phase != .running || !v.log.ran then s
  else
    let l := s.openTiles n
    let s := if l.isEmpty then s
      else
        let s := ((s.tickFlag n rfOverrun).count TCK_OVR_COUNT_COUNT 1).firstRecord TCK_OVR_REC_VALID
          [(TCK_OVR_REC_TICK, v.log.tick), (TCK_OVR_REC_CLASS, v.cls), (TCK_OVR_REC_SERVICE, n),
            (TCK_OVR_REC_TILES_OPEN, l.length)]
        let s := s.flagWith TCK_STATUS_OVERRUN (leBytes 1 n ++ leBytes 1 v.cls ++ leBytes 2 l.length)
        l.foldl (fun s t => s.setTileState t tsAborted) (s.modSvc n fun v => { v with resumed := true, refill := true })
    (imgTiles v.image).foldl State.endTileTick s

/-- A service's log is that of the tick that ends. -/
def Service.logged (v : Service) (tick : Nat) : Bool := v.phase.admitted && v.log.tick = tick && tick != 0
/-- The tick ended without overrun. -/
def Service.completed (v : Service) : Bool := v.log.ran && !v.log.flags.testBit rfOverrun

/-- Services in number order. -/
def State.svcNums (s : State) : List Nat := s.services.map (·.1)

/-- Flags that only the end of the tick fixes: RESUMED in the next completed tick (R44), and POISON. -/
def State.closeLog (s : State) (tick n : Nat) : State :=
  let v := s.svc n
  if !v.logged tick then s
  else
    let s := s.whenB (v.completed && v.resumed) fun s => (s.tickFlag n rfResumed).modSvc n fun v => { v with resumed := false }
    s.whenB (v.log.poisonGroups != 0) fun s => s.tickFlag n rfPoison

/-! ### The watchdog's judgements (R471) -/

/-- The tick of a class A service was on time. -/
def State.onTime (s : State) (v : Service) : Bool :=
  let bad := fun (k : Nat) => v.log.flags.testBit k
  !(bad rfOverrun || bad rfBreach || bad rfClusterFault || bad rfSkipped || (s.bit SPP_WDOG_POISON_MISS && bad rfPoison))

/-- Class A services whose tick is judged. -/
def State.judged (s : State) (tick : Nat) : List (Nat × Bool) :=
  s.services.filterMap fun (e : Nat × Service) =>
    if e.2.cls = clA && e.2.logged tick then some (e.1, s.onTime e.2) else none

/-! ### Input snapshots -/

/-- Writes SUBST and AGE into a held camera header (R368). -/
def Buf.stampHeader (b : Buf) (subst : Bool) (age : Nat) : Buf :=
  let w := (b.read 1).2
  let d := bytes128 w.data
  let fl := if subst then u8 d 13 ||| cfSubst else without (u8 d 13) cfSubst
  b.write 1 ⟨BitVec.ofNat 128 (leNat (patch (patch d 13 (leBytes 1 fl)) 14 (leBytes 2 age))), w.poison⟩

/-- AGE and SUBST of a held buffer. -/
def Input.heldAge (i : Input) : Nat := if i.kind = kindCamera then u16 (i.held.bytes 64) 30 else i.held.age
def Input.heldSubst (i : Input) : Bool := if i.kind = kindCamera then (u8 (i.held.bytes 64) 29).testBit 0 else i.held.subst

/-- A buffer held for the tick. -/
def Input.holdBuf (i : Input) (b : Buf) (subst : Bool) (age : Nat) : Buf :=
  if i.kind = kindCamera then { b.stampHeader subst age with state := .held }
  else { b with state := .held, subst := subst, age := age }

/-- An input at step 3: a READY buffer becomes HELD where the input may advance; otherwise the held one stays. -/
def Input.swap (i : Input) (advance : Bool) : Input :=
  match (if advance then i.bufs.find? fun (b : Buf) => b.state = .ready else none) with
  | some b =>
    { i with bufs := i.holdBuf b false 0 :: (i.bufs.filter fun (x : Buf) => x.state = .fill) ++ [Buf.empty] }
  | none => i.modBuf .held fun b => i.holdBuf b true (min 0xFFFF (i.heldAge + 1))

/-- Content of READY buffers is discarded (R420). -/
def Input.dropReady (i : Input) : Input := i.modBuf .ready fun _ => Buf.empty

/-- Whether an input takes its READY buffer: one from the link does so only after a verdict of AGREE, and not where the epoch
ends (R420, R421, R431). -/
def State.mayAdvance (s : State) (i : Input) : Bool :=
  i.kind != kindTensorIn || (s.consort.verdict == some true && !s.epochOver)

/-- The inputs of a service at step 3. -/
def State.swapInputs (s : State) (n : Nat) : State :=
  let ended := s.epochOver
  let go := s.mayAdvance
  let ins := (s.svc n).inputs
  let taken := ins.filter fun (i : Input) => s.mayAdvance i && i.bufs.any fun (b : Buf) => b.state = .ready
  let subst := ins.filter fun (i : Input) => i.kind = kindCamera && !taken.contains i
  let s := s.modSvc n fun v => { v with inputs := v.inputs.map fun (i : Input) =>
    let j := i.swap (go i)
    if ended && i.kind = kindTensorIn then j.dropReady else j }
  let s := subst.foldl (fun (s : State) _ => s.flag VID_STATUS_SUBST) s
  let done := s.intake.inputReady.filter fun (e : Nat × Nat × Nat) => e.2.1 = n && taken.any fun (i : Input) => i.snap = e.2.2
  let s := done.foldl (fun (s : State) (e : Nat × Nat × Nat) => s.finish e.1 stOk 0 (s.tick % 2 ^ 48)) s
  s.setIntake { s.intake with inputReady := s.intake.inputReady.filter fun e => !done.contains e }

/-! ### Output snapshots -/

/-- The buffers of an output change places; `ctick`: consort tick of the tick that ends. -/
def Output.flip (o : Output) (ctick : Nat) (link : Bool) : Output :=
  { o with egress := { o.writable with fillTick := ctick }, writable := Buf.empty, busy := o.kind = kindTensorOut && link }

/-- An output whose tick was not released: what the program wrote is gone. -/
def Output.drop (o : Output) : Output := { o with writable := Buf.empty }

/-- The outputs of a service at step 3: they flip after a completed tick, and what has not left of the tick before is
discarded (R34). Tensors of a tick whose verdict ends the epoch, or of a tick outside one, are not sent. -/
def State.flipOutputs (s : State) (ctick n : Nat) : State :=
  let v := s.svc n
  let link := s.inEpoch && !s.epochOver
  let outs := v.outputs
  let l := v.log
  if v.completed then
    let late := outs.any fun (o : Output) => o.busy
    let events := outs.filter fun (o : Output) => o.kind = kindEvents
    let r := s.eventsDrop n (events.map fun (o : Output) => o.source) late
    let s := r.1.whenB (late || r.2 != 0) fun s => s.tickFlag n rfDiscard
    let s := s.modSvc n fun v => { v with
      outputs := v.outputs.map fun (o : Output) => o.flip ctick link, evtDiscard := v.evtDiscard || r.2 != 0 }
    let tensors := (outs.filter fun (o : Output) => link && o.kind = kindTensorOut).map fun (o : Output) => (n, o.snap)
    s.setCns { s.consort with toSend := (s.consort.toSend.filter fun e => e.1 != n) ++ tensors }
  else s.whenB (l.ran) fun s => s.modSvc n fun v => { v with outputs := v.outputs.map Output.drop }

/-- Event datagrams of the tick that ends. The discard flag goes with the first datagram sent. -/
def State.sendEvents (s : State) (n : Nat) : State :=
  let v := s.svc n
  let discard := v.evtDiscard
  let was := s.intake.egress.length
  let s := (v.outputs.filter fun (o : Output) => o.kind = kindEvents).foldl (fun (s : State) o => s.eventsOut n o v.log discard) s
  if was < s.intake.egress.length then s.modSvc n fun v => { v with evtDiscard := false } else s

/-- Encoders that are enabled. -/
def State.encodersOn (s : State) : List Nat := (List.range 16).filter fun k => s.bit (VID_ENC_CTL_EN.bank k)

/-- The overlay that a service drew for an encoder in a tick that was released. -/
def Service.overlay (v : Service) (k : Nat) : Option Output :=
  if v.completed then v.outputs.find? fun (o : Output) => o.kind = kindOverlay && o.source = k else none

/-! ### Result records -/

/-- A service's log of the tick without the flags of its transport, as the audit chain of its pair takes it. -/
def State.auditTick (s : State) (n : Nat) : State :=
  let v := s.svc n
  let o := s.chainOwner n
  let prev := (s.svc o).chain
  s.modSvc o fun x => { x with chain := sha512_256 (auditRecord v.image prev v.log), chainTick := v.log.tick }

/-- The result payload of a tick: the flipped KIND 0x14 output. -/
def Service.payload (v : Service) : Option Output :=
  v.outputs.find? fun (o : Output) => o.kind = kindPayload

/-- A record of a tick. -/
def recordBytes (n rflags flags payload : Nat) (v : Service) (digest : Bytes) : Bytes :=
  leBytes 1 1 ++ leBytes 1 n ++ leBytes 1 v.cls ++ leBytes 1 rflags ++ leBytes 4 flags ++ leBytes 8 v.log.tick ++
    leBytes 4 v.log.modelEpoch ++ leBytes 4 v.log.substMask ++ leBytes 4 (min v.log.poisonGroups 0xFFFFFFFF) ++
    leBytes 4 payload ++ padTo 32 v.log.epochDigest ++ digest

/-- A record is dropped. -/
def State.dropRecord (s : State) (r : Nat) : State :=
  let s := (s.flag HIF_STATUS_RES_DROP).count HIF_RES_DROP_COUNT_COUNT 1
  s.setRing resType r { s.ring resType r with dropped := true }

/-- A result ring takes no record: it is disabled, halted or full, or the function is in D3hot (R383, R406). -/
def State.resClosed (s : State) (r : Nat) : Bool :=
  let q := s.ring resType r
  !s.ringOn resType r || s.ringHalted resType r || s.hif.d3hot || idxSub q.tail q.head = s.ringSize resType r - 1

/-- Writes a record with its payload first, or drops it; `dmaOk` false is a failed host-memory write. -/
def State.writeRecord (s : State) (dmaOk : Bool) (x : ResultRec) : State :=
  let r := x.ring
  let q := s.ring resType r
  let stride := 64 * s.ringFld HIF_RES_STRIDE_STRIDE resType r
  if s.resClosed r then s.dropRecord r
  else if !dmaOk then (s.dmaError.ringError 3 resType r q.tail q.tail).dropRecord r
  else
    let b := modAt (modAt x.bytes 3 (· ||| BitVec.ofNat 8 (b2n q.phase))) 5
      (· ||| BitVec.ofNat 8 (2 ^ (rfDrop - 8) * b2n q.dropped))
    let s := s.dma (s.ringFld HIF_RES_PAYLOAD_ADDR resType r * 64 + q.tail % s.ringSize resType r * stride) x.payload
    let s := (s.dmaEntry (s.entryAddr resType r q.tail) b).setRing resType r { q with dropped := false }
    ((s.advance resType r).postSignal resType r).modSvc x.svc fun v => { v with lastEpoch := x.epoch }

/-- A record of a service's tick for its result ring; AUDIT of the ring applies to every record (R409); while the link is in recovery it is held until the next boundary. -/
def State.putResult (s : State) (dmaOk : Bool) (n r : Nat) : State :=
  let v := s.svc n
  let stride := 64 * s.ringFld HIF_RES_STRIDE_STRIDE resType r
  let out := if v.completed then v.payload else none
  let bytes := out.elim 0 fun o => min o.bytes stride
  let flags := v.log.flags ||| (2 ^ rfTrunc * b2n (out.any fun o => decide (stride < o.bytes)))
  let audit := s.ringFld HIF_RING_CFG_AUDIT resType r = 1
  let due := !v.changesOnly || flags != 0 || (s.ring resType r).dropped || v.log.modelEpoch != v.lastEpoch || v.payload.isSome
  let rflags := 2 * b2n audit + 4 * b2n (bytes != 0)
  let digest := if audit then padTo 64 (s.svc (s.chainOwner n)).chain else []
  let x : ResultRec :=
    { svc := n, ring := r, bytes := recordBytes n rflags flags bytes v digest,
      payload := out.elim [] fun o => o.egress.bytes bytes, epoch := v.log.modelEpoch }
  if !due then s
  else
  let s := out.elim s fun o => s.noteEgress n o (List.range (ceilDiv bytes 16))
  if s.hif.dmaPaused && !s.resClosed r then s.setHif { s.hif with heldRecords := s.hif.heldRecords ++ [x] }
  else s.writeRecord dmaOk x

/-- Records that the link's recovery has held up to a boundary are dropped (R406). -/
def State.dropHeld (s : State) : State :=
  s.hif.heldRecords.foldl (fun s x => s.dropRecord x.ring) (s.setHif { s.hif with heldRecords := [] })

/-- The record and the chain of a service's tick; `last`: the service stops at this boundary. -/
def State.record (s : State) (dmaOk : Bool) (tick n : Nat) (last : Bool) : State :=
  if !(s.svc n).logged tick then s
  else
    let s := (s.whenB last fun s => s.tickFlag n rfStopped).auditTick n
    let s := s.whenB (s.svc n).completed fun s => s.modSvc n fun v => { v with lastTick := tick }
    match (s.svc n).resultRing with
    | none => s
    | some r => s.putResult dmaOk n r

end Sys2Proof.Machine
end

