-- ==== Sys2Proof/Machine/Boot.lean ====
section
/-! DEFINITION. Start-up, straps, the configuration image and the resets (R288, R383, R384, R509 to R511, R525 to R539,
R570). -/

namespace Sys2Proof.Machine

/-! ### Power-on (R525, R526, R536, R570) -/

/-- The weight store without supply: arrays and control store keep what they hold. -/
def State.nvKept (s : State) : Nv :=
  let n := s.nv
  { Nv.reset with
    pages := n.pages, factoryBad := n.factoryBad, tablesA := n.tablesA, tablesB := n.tablesB, journalA := n.journalA, journalB := n.journalB,
    writeSeq := n.writeSeq, journalSeq := n.journalSeq, tableSeq := n.tableSeq, slotSeq := n.slotSeq,
    slotsA := n.slotsA, slotsB := n.slotsB }

/-- Fields that take their straps at a power-on reset, and those of them that a device reset sets again. -/
def State.applyStraps (s : State) : State :=
  let src := if s.bit ID_STRAPS_TICK_SRC then 2 else 0
  s.setFlds [(TCK_CTL_SRC, src), (TCK_CTL_SRC_ACTIVE, src), (MEM_CFG_ECC_COMPAT, s.fld ID_STRAPS_ECC_COMPAT),
    (CNS_ID_LEADER, s.fld ID_STRAPS_CONSORT_ROLE), (portCtl INT_PORT_CTL_SPEED 0, s.fld ID_STRAPS_ETH_MODE),
    (portCtl INT_PORT_CTL_SPEED 1, s.fld ID_STRAPS_ETH_MODE)]

/-- The levels that the output balls take while PORST_N is low (R475, R562, R567); THERM_TRIP_N is released. -/
def resetLevels : List (String × Bool) :=
  [("ALERT_A_N", false), ("ALERT_B_N", false), ("HB_OUT", false), ("TICK_OUT", false), ("PPS_OUT", false), ("AVS_CLK", false),
    ("AVS_MDATA", true), ("LPDDR_RESET_N", false), ("THERM_TRIP_N", true)]

/-- The output balls of a device in a power-on reset; those of xSPI, SPP_SPI and JTAG are high-impedance. -/
def State.padsReset (s : State) : State :=
  let s := resetLevels.foldl (fun (s : State) e => s.emit (.pin e.1 e.2)) s
  ["XSPI", "SPP_MISO", "JTAG_TDO"].foldl (fun (s : State) n => s.emit (.drive n false)) s

/-- A power-on reset: state FUSE_LOAD. -/
def State.powerOn (s : State) (rails : Bool) : State :=
  let s := s.nv.ops.foldl State.stopPage s
  let t : State := { State.reset with
    pending := s.pending, now := s.now, freeCount := s.freeCount, out := s.out, nv := s.nvKept }
  let t := t.setBoot { Boot.reset with
    fuses := s.boot.fuses, certA := s.boot.certA, certB := s.boot.certB, rails := rails }
  let t := t.setHif { Hif.reset with perst := s.hif.perst, emuCount := s.hif.emuCount }
  (t.setPower { Power.reset with refclk := s.power.refclk }).padsReset

/-- RAILS_VALID. -/
def execRailsValid (s : State) : Host.Outcome State Fault Refusal :=
  actAlways s fun s => if s.boot.rails then s else ((s.setBoot { s.boot with rails := true }).setDev stFuseLoad).padsReset

/-- PORST_N_ASSERT: an edge. -/
def execPorstNAssert (s : State) : Host.Outcome State Fault Refusal :=
  actAlways s fun s => if s.boot.porst then s.powerOn s.boot.rails else s

/-- RAIL_MONITOR_TRIP: whichever rail it is; every rail must be valid again before the fuses load. -/
def execRailMonitorTrip (_rail : Rail) (s : State) : Host.Outcome State Fault Refusal :=
  actAlways s fun s => s.powerOn false

/-- State CONFIG_LOAD: the flash is reset and read. -/
def State.configLoad (s : State) : State :=
  (((s.setDev stConfigLoad).showXspi).pin "XSPI_RESET_N" false).pin "XSPI_RESET_N" true

def execFuseLoadDone (s : State) : Host.Outcome State Fault Refusal :=
  act s fun s =>
    if s.dev = stFuseLoad && s.boot.rails && !s.boot.fuseDone then
      let s := s.setBoot { s.boot with fuseDone := true }
      s.whenB s.boot.porst State.configLoad
    else s

/-- The straps as ID_STRAPS shows them. -/
def strapFields (x : Straps) : List (Fld × Nat) :=
  [(ID_STRAPS_BOOT_SRC, x.bootSrc.toNat), (ID_STRAPS_ENV_DEFAULT, x.envDefault.toNat), (ID_STRAPS_TICK_SRC, b2n x.tickSrc),
    (ID_STRAPS_ECC_COMPAT, b2n x.eccCompat), (ID_STRAPS_CONSORT_ROLE, b2n x.consortRole), (ID_STRAPS_SPP_EN, b2n x.sppEn),
    (ID_STRAPS_ETH_MODE, b2n x.ethMode), (ID_STRAPS_PCIE_MODE, b2n x.pcieMode)]

/-- PORST_N_DEASSERT: an edge, at which the straps are sampled. -/
def execPorstNDeassert (straps : Straps) (s : State) : Host.Outcome State Fault Refusal :=
  act s fun s =>
    if s.boot.porst || !s.boot.rails then s
    else
      let s := (s.setBoot { s.boot with porst := true }).setFlds (strapFields straps)
      let s := s.applyStraps.setFld PWR_CTL_ENV_REQ straps.envDefault.toNat
      s.whenB s.boot.fuseDone State.configLoad

/-! ### The configuration image (R509 to R511, R528 to R531) -/

/-- Sections lie within the image, each at a multiple of 16, and none overlaps another or the table. -/
def cfgPlaces (b : Bytes) : Bool :=
  let l := cfgSecs b
  let n := l.length
  l.all (fun x => x.off % 16 == 0 && decide (128 + 16 * n ≤ x.off) && decide (x.off + x.len + 64 ≤ u32 b 8)) &&
    (List.range n).all fun i => (List.range i).all fun j =>
      match l[i]?, l[j]? with
      | some x, some y => x.type != y.type && (x.off + x.len ≤ y.off || y.off + y.len ≤ x.off)
      | _, _ => false

/-- A section has a length that its type allows. -/
def CfgSec.lenOk (x : CfgSec) : Bool :=
  if x.type = cfgDevice then x.len == 64
  else if x.type = cfgKeyCerts then x.len % 128 == 0 && decide (128 ≤ x.len) && decide (x.len ≤ 4096)
  else if x.type = cfgRegisters then x.len % 16 == 0 && decide (16 ≤ x.len) && decide (x.len ≤ 4096)
  else if x.type = cfgSoundpost then decide (0 < x.len)
  else if x.type = cfgCommands then x.len % 64 == 0 && decide (64 ≤ x.len) && decide (x.len ≤ 4096)
  else false

/-- The format of R529 to R531. -/
def cfgFormat (b : Bytes) : Bool :=
  slice b 0 4 == ascii "KCFG" && u16 b 4 == 1 && u16 b 6 == 0 && decide (u32 b 8 ≤ 2097152) && decide (208 ≤ u32 b 8) &&
    decide (1 ≤ u32 b 56) && decide (u32 b 56 ≤ 16) && allZero (slice b 60 68) &&
    (List.range (u32 b 56)).all (fun i => u16 b (130 + 16 * i) == 0 && u32 b (140 + 16 * i) == 0) &&
    (cfgSecs b).all CfgSec.lenOk && cfgPlaces b &&
    (let d := cfgBody b cfgDevice
     d.length == 64 && [0, 2, 4, 8].contains (u8 d 0))

/-- The key that signs a copy: the root, or the owner's where it matches OWNER_HASH. -/
def Fuses.ownerFits (f : Fuses) (pub : Bytes) : Bool := f.ownerHash == some (sha512_256 pub)

/-- The signature of a copy verifies. -/
def Fuses.cfgSigned (f : Fuses) (b : Bytes) : Bool :=
  let n := u32 b 8
  let msg := b.take (n - 64)
  let sig := slice b (n - 64) 64
  let by_ := fun (pub : Bytes) => signerId pub == slice b 16 8 && edVerify pub msg sig
  let owner := slice b 24 32
  by_ Config.rootKey || (f.ownerFits owner && by_ owner)

/-- Outcome of a copy as ID_BOOT encodes it. -/
def Fuses.cfgResult (f : Fuses) (copy : Option Bytes) : Nat :=
  match copy with
  | none => 4
  | some b =>
    let b := sliceZ b 0 (min 2097152 (max 128 (u32 b 8)))
    if !cfgFormat b then 2 else if !f.cfgSigned b then 3 else 1

/-- The roles that an issuer may grant: 0 root, 1 owner. -/
def mayGrant (issuer : Nat) : Nat := if issuer = 0 then 7 else 14

/-- The key that a certificate gives; none where it is rejected. -/
def certKey (keys : List (Option Key)) (b : Bytes) : Option Key :=
  let roles := u8 b 6
  let issuer := u8 b 7
  let pub := slice b 16 32
  let formatOk := slice b 0 4 == ascii "KKCT" && u16 b 4 == 1 && decide (roles < 16) && decide (issuer < 2) &&
    allZero (slice b 48 16)
  match keys.getD issuer none with
  | none => none
  | some k =>
    if formatOk && without roles (mayGrant issuer) = 0 && (u64 b 8 = deviceValue || u64 b 8 = 0) &&
        !(keys.any fun x => x.any fun y => signerId y.pub == signerId pub) && edVerify k.pub (b.take 64) (slice b 64 64) then
      some { pub := pub, source := 2 + issuer, roles := roles }
    else none

/-- A certificate is rejected for its signature: its issuer is there, and the signature does not verify (R524). -/
def certForged (keys : List (Option Key)) (b : Bytes) : Bool :=
  match keys.getD (u8 b 7) none with
  | none => false
  | some k => slice b 0 4 == ascii "KKCT" && !edVerify k.pub (b.take 64) (slice b 64 64)

/-- The key table after the certificates of the image, how many were rejected, and how many of these for their signature. -/
def takeCerts (keys : List (Option Key)) (l : List Bytes) : List (Option Key) × Nat × Nat :=
  l.foldl (fun (p : List (Option Key) × Nat × Nat) b =>
    match certKey p.1 b with
    | some k => (if p.1.length < 18 then p.1 ++ [some k] else p.1, p.2)
    | none => (p.1, p.2.1 + 1, p.2.2 + b2n (certForged p.1 b))) (keys, 0, 0)

/-- Loads the key table from the image in use. -/
def State.loadKeys (s : State) : State :=
  let img := s.boot.config
  let owner := slice img 24 32
  let named := !img.isEmpty && !allZero owner
  let fits := named && s.boot.fuses.ownerFits owner
  let base : List (Option Key) :=
    [some { pub := Config.rootKey, source := 0, roles := 1 },
      if fits then some { pub := owner, source := 1, roles := 14 } else none]
  let r := takeCerts base (chunks 128 (cfgBody img cfgKeyCerts))
  let s := (s.setBoot { s.boot with keys := r.1 }).setFld SEC_LIFE_REJECTED r.2.1
  let s := (List.range r.2.2).foldl (fun s _ => s.verifyFail) s
  let s := s.whenB (named && !fits) fun s => s.flag SEC_STATUS_OWNER_MISMATCH
  (List.range r.2.1).foldl (fun s _ => s.flag SEC_STATUS_KEY_REJ) s

/-- The image is in use, and the device is released. -/
def State.release0 (s : State) : State :=
  let d := s.cfgDev
  let s := s.loadKeys.setFlds [(MEM_CFG_DENSITY, u8 d 0), (CNS_ID_MEMBER, u8 d 1), (portReg INT_MAC_MAC 0, n48 d 8),
    (portReg INT_MAC_MAC 1, n48 d 14), (PWR_CLK_OSC, 1), (CFG_SUBSYS_VENDOR, u16 d 2), (CFG_SUBSYS_ID, u16 d 4)]
  let s := s.setBoot { s.boot with releasedAt := some s.now }
  let s := (s.setIntake { s.intake with ptp := { s.intake.ptp with rateFrom := s.now } }).setDev stReleased
  s.showXspi.emit (.pin "LPDDR_RESET_N" true)

/-- CONFIG_LOAD_DONE: what the flash returns of each copy; none is a read error. The copy that is not needed is not
read. -/
def execConfigLoadDone (primary secondary : Option Bytes) (s : State) : Host.Outcome State Fault Refusal :=
  act s fun s =>
    if s.dev != stConfigLoad then s
    else
      let f := s.boot.fuses
      let secFirst := (s.fld ID_STRAPS_BOOT_SRC).testBit 1
      let p := if secFirst && f.cfgResult secondary = 1 then 0 else f.cfgResult primary
      let q := if !secFirst && p = 1 then 0 else f.cfgResult secondary
      let used := if p = 1 then 1 else if q = 1 then 2 else 0
      let img := (if used = 1 then primary else if used = 2 then secondary else none).elim [] fun b => sliceZ b 0 (u32 b 8)
      let s := s.setFlds [(ID_BOOT_PRI_RESULT, p), (ID_BOOT_SEC_RESULT, q), (ID_BOOT_USED, used)]
      let s := ([p, q].filter (· == 3)).foldl (fun (s : State) _ => s.verifyFail) s
      (s.setBoot { s.boot with config := img }).release0

/-! ### LPDDR training and READY (R288, R525, R532) -/

/-- LPDDR_TRAINING_DONE: `failed` has a bit for each channel that fails. -/
def execLpddrTrainingDone (failed : Nat) (s : State) : Host.Outcome State Fault Refusal :=
  act s fun s =>
    if s.dev != stReleased || s.boot.trained then s
    else
      let s := s.setBoot { s.boot with trained := true }
      if failed % 256 != 0 then s.flag MEM_STATUS_TRAIN_FAIL
      else s.setFld MEM_CFG_TRAINED (b2n (s.fld MEM_CFG_DENSITY != 0))

/-- Start-up is complete. -/
def State.becomeReady (s : State) : State :=
  let regs := cfgBody s.boot.config cfgRegisters
  let spp := !(cfgBody s.boot.config cfgSoundpost).isEmpty
  let cmds := chunks 64 (cfgBody s.boot.config cfgCommands)
  let s := ((s.setDev stReady).setFld HIF_STATUS_READY 1).setFld ID_BOOT_LIST_BUSY (b2n !cmds.isEmpty)
  let s := s.setBoot { s.boot with list := cmds, listIndex := 0, startDue := !regs.isEmpty || spp, soundpostWait := spp }
  let s : State := { s with ticking := false, tickFrom := s.now, tickEvent := some s.now }
  let s := s.whenB (!regs.isEmpty) fun s =>
    s.addChange { kind := .startup regs, target := s.tick + 1, cmd := none, armed := true, agreed := none, ctick := none }
  s.showSch.showAlerts.pmcMove

/-- Every core runs (R444). -/
def State.allRun (s : State) : Bool := s.boot.coresUp && (List.range 11).all fun k => s.fwState k == fwRunning

def execReady (s : State) : Host.Outcome State Fault Refusal :=
  act s fun s =>
    if s.dev = stReleased && s.allRun && s.boot.scanDone && s.boot.trained then s.becomeReady else s

/-! ### Device reset (R537) -/

/-- Keys of the registers that a device reset keeps: PWR, SPP, the straps, TCK_COUNT, the state of the PCIe link, and
configuration space. -/
def keptKey (k : Nat) : Bool :=
  let o := k % 0x100000000
  o / 0x100000 == 9 || o / 0x100000 == 11 || o == ID_STRAPS_PCIE_MODE.off || o == TCK_COUNT_TICK.off || o == HIF_LINK_UP.off ||
    cfgSpace o

/-- An accepted device reset, up to state CONFIG_LOAD; `kind` is what ID_RESET.KIND shows. A request for sleep and an
AVSBus write end with PMC (log 24). -/
def State.deviceReset (s : State) (kind : Nat) : State :=
  let s := s.nv.ops.foldl State.stopPage s
  let count := min 0xFFFF (s.fld ID_RESET_COUNT + 1)
  let t : State := { State.reset with
    pending := s.pending, now := s.now, freeCount := s.freeCount, out := s.out, nv := s.nvKept,
    regs := Tab.keep s.regs keptKey, mem := { Mem.reset with cells := s.mem.cells, init := s.mem.init },
    spp := { s.spp with checking := none },
    power := { s.power.draw s.now [] with write := none, railGoal := none, nacks := 0, sleepReq := none, lastBoundary := false, wakeCause := none } }
  let t := t.setHif { Hif.reset with
    perst := s.hif.perst, d3hot := s.hif.d3hot, dmaPaused := s.hif.dmaPaused, emuCount := s.hif.emuCount }
  let t := t.setBoot { Boot.reset with
    fuses := s.boot.fuses, certA := s.boot.certA, certB := s.boot.certB, rails := true, fuseDone := true, porst := true }
  let t := t.applyStraps.setFlds [(ID_RESET_COUNT, count), (ID_RESET_KIND, kind), (PWR_AVS_BUSY, 0), (PWR_SLEEP_CTL_BUSY, 0),
    (PWR_STATE_STATE, slActive)]
  (t.whenB (t.bit SPP_SCMD_CTL_BUSY) fun t => t.setFlds [(SPP_SCMD_CTL_BUSY, 0), (SPP_SCMD_CTL_RESULT, 8)]).configLoad

/-- Key of ID_RESET_CTL. -/
def resetKey : Nat := 0x4B52

/-- A write of ID_RESET_CTL: from PCIe (KIND 1) or SMBus (KIND 2). -/
def State.resetCtl (s : State) (kind v : Nat) : State :=
  if !v.testBit 0 then s
  else if bitsOf v 31 16 != resetKey then s.setFld ID_RESET_CTL_RESULT 3
  else if s.stagedA || !s.up then s.setFld ID_RESET_CTL_RESULT 2
  else s.deviceReset kind

/-! ### The PCIe link and the host-interface reset (R383, R384, R534) -/

/-- Registers that the host-interface reset returns to their reset values: DBL, HIF and the MSI-X table, and configuration
space but for what Advanced Error Reporting holds (PRESUMED, log 228) and for the subsystem IDs, which the configuration image
gives (R531). -/
def hifKey (k : Nat) : Bool :=
  let o := k % 0x100000000
  (0x1000 ≤ o && o < 0x41000) || o / 0x100000 == 1 || (cfgSpace o && !(CFG_AER.off ≤ o && o < CFG_DSN.off) && o != CFG_SUBSYS.off)

/-- Programs that host DMA feeds end as those of a lost chain do. -/
def State.hifPrograms (s : State) : State :=
  (s.nv.programs.filter s.hostFed).foldl
    (fun s p => s.endProgram p slInterrupted stHostDma noSlab noSector) s

/-- The host-interface reset. What HIF_STATUS and HIF_LINK show of the device and the link is not the interface's own. -/
def State.hifReset (s : State) : State :=
  let ready := s.fld HIF_STATUS_READY
  let link := s.whole HIF_LINK_UP.off HIF_LINK_UP.whole
  let s := (s.intake.inputDma.filter s.inputHosted).foldl (fun s e => s.inputEnds e none) s
  let s := s.boot.quotesHeld.foldl (fun (s : State) e => s.finish e.1 stHostDma 0 0) s
  let s := (s.setBoot { s.boot with quotesHeld := [] }).hifPrograms.poolCut
  let s := s.whenB (s.bit SEC_BOOT_CTL_BUSY) fun s => s.hostedDone none
  let s : State := { s with regs := Tab.keep s.regs fun k => !hifKey k }
  let s := s.setHif { s.hif with
    cmdRings := [], cplRings := [], resRings := [], lastServed := [], msixPending := [], d3hot := false, dmaPaused := false,
    latched := [], heldLow := [], heldRecords := [],
    accepted := s.hif.accepted.map fun c => if c.fromList then c else { c with ring := noPeer, peer := noPeer } }
  ((s.setFld HIF_STATUS_READY ready).setWhole HIF_LINK_UP.off HIF_LINK_UP.whole link).showSch

/-- The link is down. -/
def State.pcieDown (s : State) : State := s.setFlds [(HIF_LINK_UP, 0), (HIF_LINK_WIDTH, 0), (HIF_LINK_GEN, 0)]

def execPciePerstAssert (s : State) : Host.Outcome State Fault Refusal :=
  act s fun s => if s.hif.perst then s else ((s.setHif { s.hif with perst := true }).hifReset).pcieDown

def execPciePerstDeassert (s : State) : Host.Outcome State Fault Refusal :=
  act s fun s => s.setHif { s.hif with perst := false }

/-- FUNCTION_LEVEL_RESET: the link stays up. -/
def execFunctionLevelReset (s : State) : Host.Outcome State Fault Refusal :=
  act s fun s => s.whenB s.pcieUp State.hifReset

/-- HOT_RESET: the link trains again. -/
def execHotReset (s : State) : Host.Outcome State Fault Refusal :=
  act s fun s => s.whenB s.pcieUp fun s => s.hifReset.pcieDown

def execLinkDownReset (s : State) : Host.Outcome State Fault Refusal :=
  act s fun s => s.whenB s.pcieUp fun s => s.hifReset.pcieDown

/-- PCIE_LINK_RECOVERY: DMA pauses until the link has trained again. -/
def execPcieLinkRecovery (s : State) : Host.Outcome State Fault Refusal :=
  act s fun s => s.whenB s.pcieUp fun s => s.setHif { s.hif with dmaPaused := true }

/-- The result records and quotes that the link's recovery has held are written (R384, R406). -/
def State.heldOut (s : State) : State :=
  (s.hif.heldRecords.foldl (fun s x => s.writeRecord true x) (s.setHif { s.hif with heldRecords := [] })).quotesFlush

/-- PCIE_LINK_TRAINED: training or retraining ends, and DMA resumes. -/
def execPcieLinkTrained (width gen : Nat) (s : State) : Host.Outcome State Fault Refusal :=
  act s fun s =>
    if s.hif.perst || !s.boot.fuseDone || !s.boot.porst || s.bit ID_STRAPS_PCIE_MODE then s
    else
      ((s.setHif { s.hif with dmaPaused := false }).setFlds
        [(HIF_LINK_UP, 1), (HIF_LINK_WIDTH, width), (HIF_LINK_GEN, gen)]).heldOut

/-- The function enters D3hot. -/
def State.d3hotEnter (s : State) : State := s.whenB s.pcieUp fun s => s.setHif { s.hif with d3hot := true }

def execD3hotEntry (s : State) : Host.Outcome State Fault Refusal := act s State.d3hotEnter

/-- Sends the messages held pending whose vectors are not masked (R387). -/
def State.msixRelease (s : State) : State :=
  let l := s.hif.msixPending
  l.foldl (fun s v => s.signal v) (s.setHif { s.hif with msixPending := [] })

/-- The function returns to D0. -/
def State.d0Return (s : State) : State :=
  s.whenB s.hif.d3hot fun s =>
    let s := (s.setHif { s.hif with d3hot := false }).msixRelease.quotesFlush
    s.whenB (s.bit PWR_WAKE_CTL_PCIE_EN) fun s => s.wakeBy 3

def execD0Return (s : State) : Host.Outcome State Fault Refusal := act s State.d0Return

end Sys2Proof.Machine
end

