-- ==== Sys2Proof/Machine/Ptp.lean ====
section
/-! DEFINITION. The PTP hardware clock, its messages and masters, and 1PPS (R59, R349 to R351). -/

namespace Sys2Proof.Machine

/-! ### Messages (IEEE 1588-2019) -/

def ptType (b : Bytes) : Nat := u8 b 0 % 16
def ptTwoStep (b : Bytes) : Bool := (u8 b 6).testBit 1
/-- The correction field, in units of 2^-16 ns. -/
def ptCorrection (b : Bytes) : Int := sext 64 (n64 b 8)
/-- Corrections in whole ns. -/
def ptCorr (b : Bytes) : Int := ptCorrection b / 65536
/-- Port identity of the sender: clock identity × 2^16 + port number. -/
def ptSender (b : Bytes) : Nat := beNat (slice b 20 10)
def ptSeq (b : Bytes) : Nat := n16 b 30
/-- A timestamp in ns. -/
def ptTime (b : Bytes) (off : Nat) : Int := n48 b off * 1000000000 + n32 b (off + 6)

def ptSync : Nat := 0
def ptDelayReq : Nat := 1
def ptPdelayReq : Nat := 2
def ptPdelayResp : Nat := 3
def ptFollowUp : Nat := 8
def ptDelayResp : Nat := 9
def ptPdelayFollowUp : Nat := 10
def ptAnnounce : Nat := 11

/-- An interval in ns from its logarithm to base 2 in s. -/
def ptInterval (b : Bytes) : Nat :=
  let k := clampInt (-8) 8 (sext 8 (u8 b 33))
  1000000000 * 2 ^ (k + 8).toNat / 256

/-- Least size of a message. -/
def ptSize (type : Nat) : Nat :=
  if type = ptAnnounce then 64 else if type = ptPdelayReq || type = ptPdelayResp || type = ptDelayResp || type = ptPdelayFollowUp then 54
  else 44

/-- A message of this domain, of version 2 of the protocol. -/
def State.ptOk (s : State) (b : Bytes) : Bool :=
  34 ≤ b.length && ptSize (ptType b) ≤ b.length && u8 b 1 % 16 == 2 && u8 b 0 / 16 == 0 && u8 b 4 == s.fld INT_PTP_CTL_DOMAIN

/-- This clock's identity, from the address of ETH0 (log 22), and the identity of a port. -/
def State.clockId (s : State) : Nat :=
  let m := s.portMac 0
  (m >>> 24) * 2 ^ 40 + 0xFFFE * 2 ^ 24 + m % 2 ^ 24
def State.portId (s : State) (p : Nat) : Nat := s.clockId * 65536 + (p + 1)

/-- A message that this clock sends. -/
def State.ptMessage (s : State) (p type seq : Nat) (correction : Int) (body : Bytes) : Bytes :=
  leBytes 1 type ++ [0x12] ++ beBytes 2 (34 + body.length) ++ leBytes 1 (s.fld INT_PTP_CTL_DOMAIN) ++ [0] ++ beBytes 2 0 ++
    beBytes 8 (trunc 64 correction) ++ beBytes 4 0 ++ beBytes 10 (s.portId p) ++ beBytes 2 seq ++
    leBytes 1 (if type = ptDelayReq then 1 else 5) ++ [0x7F] ++ body

/-- Sends an event message to the masters, or to the peer on the link, in the transport in use; PCP 7 acts as 6. One that waits on its
port is marked: it takes its stamp as it leaves (R349). -/
def State.ptSend (s : State) (p : Nat) (peer : Bool) (m : Bytes) : State :=
  let pcp := min 6 (s.fld INT_PTP_CTL_PCP)
  let udp := s.bit INT_PTP_CTL_TRANSPORT
  let t := if udp then (s.sendUdp p pcp none 0 319 (if peer then 0xE000006B else 0xE0000181) 319 m).1
    else s.sendEth p pcp (if peer then 0x0180C200000E else 0x011B19000000) none etPtp m
  let n := s.intake.egress.length
  if t.intake.egress.length = n then t
  else t.setIntake { t.intake with egress := modAt t.intake.egress n fun d => { d with ptp := some (if udp then 42 else 14, s.ptpNs) } }

/-! ### The clock (R350) -/

def State.setPtp (s : State) (f : Ptp → Ptp) : State := s.setIntake { s.intake with ptp := f s.intake.ptp }

/-- A new rate from now on; the clock's reading goes on from where it is. -/
def State.ptpRate (s : State) (rate : Int) : State :=
  s.setPtp fun (p : Ptp) => { p with
    shift := p.shift + p.rate * ((s.now - p.rateFrom : Nat) : Int) / 1000000000, rate := rate, rateFrom := s.now }

/-- TCK_STATUS.HOLDOVER follows the lock of the PTP clock in PTP mode (R59). -/
def State.showHoldover (s : State) : State :=
  let on := s.ptpMode && !s.bit INT_PTP_STATUS_LOCK
  let was := s.bit TCK_STATUS_HOLDOVER
  if on && !was then (s.setCns { s.consort with holdSince := some s.now }).flag TCK_STATUS_HOLDOVER
  else if !on && was then (s.setCns { s.consort with holdSince := none }).setFld TCK_STATUS_HOLDOVER 0
  else s

/-- The clock loses lock. -/
def State.ptpUnlock (s : State) : State :=
  let s := s.setPtp fun (p : Ptp) => { p with good := 0, bad := 0 }
  if s.bit INT_PTP_STATUS_LOCK then ((s.setFld INT_PTP_STATUS_LOCK 0).flag INT_STATUS_PTP_UNLOCK).showHoldover else s

/-- The rate that the clock is slewed at for an offset: a free value of at most 500 ppm against it (log 23). -/
def State.slew (s : State) (offset : Int) : State :=
  let r := (Config.freeWord s.freeCount).toNat % 500001
  let s := { s with freeCount := s.freeCount + 1 }
  s.ptpRate (if offset = 0 then 0 else if offset < 0 then r else -(r : Int))

/-- An offset from the master has been found. -/
def State.ptpOffsetFound (s : State) (offset : Int) : State :=
  let s := s.setFld INT_PTP_OFFSET_OFFSET (trunc 64 offset)
  let fine := offset.natAbs ≤ max 1 (s.fld INT_PTP_CTL_LOCK_NS)
  let s := s.setPtp fun (p : Ptp) => { p with
    good := if fine then p.good + 1 else 0, bad := if fine then 0 else p.bad + 1 }
  let locked := s.bit INT_PTP_STATUS_LOCK
  if !locked && 1000000000 < offset.natAbs then
    let s := s.ptpRate 0
    let s := s.setIntake { s.intake with ppsNext := 0 }
    let s := s.setPtp fun (p : Ptp) => { p with
      shift := p.shift - offset, sync := none, delayReq := none, peer := none, fromMaster := none }
    (s.countUp INT_PTP_STATUS_STEPS).flag INT_STATUS_PTP_STEP
  else
    let s := s.slew offset
    if locked && 4 ≤ s.intake.ptp.bad then s.ptpUnlock
    else if !locked && 16 ≤ s.intake.ptp.good then (s.setFld INT_PTP_STATUS_LOCK 1).showHoldover
    else s

/-- A Sync is complete: its receive time here, and its send time with all corrections. -/
def State.syncDone (s : State) (received sent : Int) : State :=
  let d := received - sent
  (s.setPtp fun (p : Ptp) => { p with sync := none, fromMaster := some d }).ptpOffsetFound (d - s.intake.ptp.pathDelay)

/-! ### Masters (R349) -/

def rankLt : List Nat → List Nat → Bool
  | a :: x, b :: y => decide (a < b) || (a == b && rankLt x y)
  | [], _ :: _ => true
  | _, [] => false

def State.foreigns (s : State) (p : Nat) : List Foreign := if p = 0 then s.intake.ptp.foreign0 else s.intake.ptp.foreign1
def State.setForeigns (s : State) (p : Nat) (l : List Foreign) : State :=
  s.setPtp fun (x : Ptp) => if p = 0 then { x with foreign0 := l } else { x with foreign1 := l }

/-- Qualified foreign masters of the ports that carry PTP: two Announce messages have come. -/
def State.masters (s : State) : List (Nat × Foreign) :=
  [0, 1].flatMap fun p =>
    if s.ptpPort p then ((s.foreigns p).filter fun (f : Foreign) => 2 ≤ f.count).map fun f => (p, f) else []

/-- The best of them. -/
def bestMaster : List (Nat × Foreign) → Option (Nat × Foreign)
  | [] => none
  | x :: l =>
    match bestMaster l with
    | none => some x
    | some y => if rankLt y.2.rank x.2.rank then some y else some x

/-- The master is chosen again; one of another grandmaster than the last ends lock, also after a time without a master (R350). -/
def State.ptpChoose (s : State) : State :=
  let new := (bestMaster s.masters).map fun e => (e.1, e.2.sender, e.2.grandmaster)
  let old := s.intake.ptp.master
  if new = old then s
  else
    let moved := new.map (fun m => (m.1, m.2.1)) != old.map fun m => (m.1, m.2.1)
    let s := s.setPtp fun (p : Ptp) =>
      if moved then { p with master := new, sync := none, delayReq := none, peer := none, fromMaster := none, pathDelay := 0 }
      else { p with master := new }
    let s := s.setFlds [(INT_PORT_STAT_PTP_PORT, new.elim 0 (·.1 + 1)), (INT_PTP_STATUS_MASTER_SEEN, b2n new.isSome)]
    match new with
    | none => s
    | some m =>
      let was := s.intake.ptp.grandmaster
      let s := s.setPtp fun (p : Ptp) => { p with grandmaster := some m.2.2 }
      s.whenB (was.isSome && was != some m.2.2) State.ptpUnlock

/-- An Announce: a foreign master of its port, of at most 8. -/
def State.announce (s : State) (f : RxFrame) (b : Bytes) : State :=
  let sender := ptSender b
  let gm := n64 b 53
  let every := ptInterval b
  if 255 ≤ n16 b 61 || sender / 65536 = s.clockId then s
  else
    let rank := [u8 b 47, u8 b 48, u8 b 49, n16 b 50, u8 b 52, gm, n16 b 61, sender, f.port]
    let l := s.foreigns f.port
    let l := match l.find? fun (x : Foreign) => x.sender = sender with
      | none =>
        if 8 ≤ l.length then l
        else l ++ [{ rank := rank, grandmaster := gm, sender := sender, last := s.now, interval := every, count := 1 }]
      | some x =>
        l.map fun (y : Foreign) => if y.sender = sender then
          { y with rank := rank, grandmaster := gm, last := s.now, interval := every,
                   count := if s.now ≤ x.last + 4 * every then min 2 (x.count + 1) else 1 } else y
    (s.setForeigns f.port l).ptpChoose

/-- The earliest time at which a foreign master of a port has not been heard for three of its intervals. -/
def foreignDue (l : List Foreign) : Option Nat :=
  l.foldl (fun o (f : Foreign) =>
    let t := f.last + 3 * f.interval
    some (match o with
      | none => t
      | some u => min t u)) none

def State.announceLate (s : State) (p : Nat) : State :=
  match foreignDue (s.foreigns p) with
  | none => s
  | some t =>
    let s := s.upTo t
    (s.setForeigns p ((s.foreigns p).filter fun (f : Foreign) => s.now < f.last + 3 * f.interval)).ptpChoose

def execAnnounceReceiptTimeout (port : Nat) (s : State) : Host.Outcome State Fault Refusal :=
  act s fun s => s.announceLate port

/-! ### Messages received -/

/-- A peer asks for the delay of the link: the answer of a one-step responder. -/
def State.pdelayAnswer (s : State) (f : RxFrame) (b : Bytes) : State :=
  if !s.bit INT_PTP_CTL_DELAY then s
  else
    s.ptSend f.port true (s.ptMessage f.port ptPdelayResp (ptSeq b) (ptCorrection b + (s.ptpNs - f.ptpTime) * 65536)
      (beBytes 10 0 ++ slice b 20 10))

/-- The answer to the outstanding request is for this port. -/
def State.ptAnswers (s : State) (f : RxFrame) (b : Bytes) : Bool := beNat (slice b 44 10) == s.portId f.port

/-- A measured path delay. -/
def State.pathFound (s : State) (d : Int) : State :=
  s.setPtp fun (p : Ptp) => { p with pathDelay := d, delayReq := none, peer := none }

/-- A message of the chosen master, or of the peer on its link. -/
def State.ptMaster (s : State) (f : RxFrame) (b : Bytes) : State :=
  let p := s.intake.ptp
  let type := ptType b
  if type = ptSync then
    let s := s.setPtp fun (p : Ptp) => { p with lastSync := s.now }
    if ptTwoStep b then s.setPtp fun (p : Ptp) => { p with sync := some (ptSeq b, f.ptpTime, ptCorr b) }
    else s.syncDone f.ptpTime (ptTime b 34 + ptCorr b)
  else if type = ptFollowUp then
    match p.sync with
    | none => s
    | some (q, t, c) => if q = ptSeq b then s.syncDone t (ptTime b 34 + c + ptCorr b) else s
  else if type = ptDelayResp then
    match p.delayReq, p.fromMaster with
    | some (q, t3), some d =>
      if q = ptSeq b && s.ptAnswers f b && !s.bit INT_PTP_CTL_DELAY then s.pathFound ((d + (ptTime b 34 - ptCorr b - t3)) / 2)
      else s
    | _, _ => s
  else s

/-- A message of the peer on the master's link. -/
def State.ptPeer (s : State) (f : RxFrame) (b : Bytes) : State :=
  let p := s.intake.ptp
  match p.delayReq with
  | none => s
  | some (q, t1) =>
    if q != ptSeq b || !s.ptAnswers f b || !s.bit INT_PTP_CTL_DELAY then s
    else if ptType b = ptPdelayResp then
      if ptTwoStep b then
        s.setPtp fun (p : Ptp) => { p with peer := some (q, f.ptpTime, ptTime b 34 - ptCorr b) }
      else s.pathFound ((f.ptpTime - t1 - ptCorr b) / 2)
    else
      match p.peer with
      | none => s
      | some (r, t4, t2) => if r = q then s.pathFound ((t4 - t1 - (ptTime b 34 + ptCorr b - t2)) / 2) else s

/-- A PTP message is received. -/
def State.ptpReceive (s : State) (f : RxFrame) : State :=
  let b := if f.etherType = etIp then udpData f.body else f.body
  let type := ptType b
  let master := s.intake.ptp.master
  if !s.ptOk b then s
  else if type = ptAnnounce then s.announce f b
  else if type = ptPdelayReq then s.pdelayAnswer f b
  else if type = ptPdelayResp || type = ptPdelayFollowUp then
    if master.any fun m => m.1 = f.port then s.ptPeer f b else s
  else if master.any fun m => m.1 = f.port && m.2.1 = ptSender b then s.ptMaster f b
  else s

def execPtpMessage (s : State) : Host.Outcome State Fault Refusal := act s fun s => s.takeRx s.isPtp State.ptpReceive

/-- A write of INT_PTP_CTL: what a port that carries PTP no longer has heard is forgotten, and the master is chosen again among the
others (R378). -/
def State.ptpCtl (s : State) (write : State → State) : State :=
  let s := write s
  ([0, 1].foldl (fun (s : State) p => if s.ptpPort p then s else s.setForeigns p []) s).ptpChoose

/-- No Sync for 3 s. -/
def State.syncLate (s : State) : State :=
  if s.bit INT_PTP_STATUS_LOCK then (s.upTo (s.intake.ptp.lastSync + 3000000000)).ptpUnlock else s

def execPtpSyncTimeout (s : State) : Host.Outcome State Fault Refusal := act s State.syncLate

/-- The request of the delay mechanism in use leaves on the master's port. -/
def State.delayAsk (s : State) : State :=
  match s.intake.ptp.master with
  | none => s
  | some m =>
    let p := m.1
    let peer := s.bit INT_PTP_CTL_DELAY
    let q := (s.intake.ptp.delaySeq + 1) % 65536
    let s := s.setPtp fun (x : Ptp) => { x with delaySeq := q, delayReq := some (q, s.ptpNs), peer := none }
    s.ptSend p peer (s.ptMessage p (if peer then ptPdelayReq else ptDelayReq) q 0 (beBytes (if peer then 20 else 10) 0))

def execPtpDelayReqTimer (s : State) : Host.Outcome State Fault Refusal := act s State.delayAsk

/-! ### 1PPS (R351) -/

/-- Model time at which the PTP clock reads t, as it runs now. -/
def State.whenPtp (s : State) (t : Int) : Nat :=
  let r := s.intake.ptp.rate
  s.now + if t ≤ s.ptpNs then 0 else ceilDiv ((t - s.ptpNs).toNat * 1000000000) (1000000000 + r).toNat

/-- A whole second of the PTP clock: PPS_OUT rises, and falls 1 ms later. -/
def State.ppsOut (s : State) : State :=
  if !(s.bit INT_PTP_CTL_PPS_OUT_EN && s.intakeOn) then s
  else
    let k := max s.intake.ppsNext (ceilDiv s.ptpNs.toNat 1000000000)
    let s := s.upTo (s.whenPtp (k * 1000000000))
    ((s.setIntake { s.intake with ppsNext := k + 1 }).pin "PPS_OUT" true).pin "PPS_OUT" false

def execPpsOutSecond (s : State) : Host.Outcome State Fault Refusal := act s State.ppsOut

/-- A rising edge on PPS_IN. -/
def execPpsInEdge (s : State) : Host.Outcome State Fault Refusal :=
  act s fun s => if s.intakeOn then (s.setFld INT_PPS_IN_TS_TIME s.stamp).flag INT_STATUS_PPS_IN else s

end Sys2Proof.Machine
end

