-- ==== Sys2Proof/Machine/RegView.lean ====
section
/-! DEFINITION. What a read of a register shows: its stored fields, WO fields as zero, and the fields whose state has its
home elsewhere, computed (R10 to R13, and the register tables of every chapter). -/

namespace Sys2Proof.Machine

/-! ### Banks -/

/-- The key of the register at a BAR0 offset: its bank is the one that its select register shows (R342, R379, R409,
R463). -/
def State.keyOf (s : State) (start : Nat) : Nat :=
  let bank := fun (k : Nat) => start + k * 0x100000000
  if HIF_RING_CFG.off ≤ start && start < HIF_BAR4_BASE.off then bank (ringBank s.ringSel.1 s.ringSel.2)
  else if VID_STREAM_CTL.off ≤ start && start < VID_EGR_SEL.off then bank (s.fld VID_STREAM_SEL_SEL)
  else if (VID_EGR_CTL.off ≤ start && start < VID_ENC_SEL.off) || (VID_EGR_TX_COUNT.off ≤ start &&
      start < VID_ENC_SKIP_COUNT.off) then bank (s.fld VID_EGR_SEL_SEL % 16)
  else if (VID_ENC_CTL.off ≤ start && start < VID_EGR_TX_COUNT.off) || start = VID_ENC_SKIP_COUNT.off then
    bank (s.fld VID_ENC_SEL_SEL % 16)
  else if start = CMP_REGION_BASE.off || start = CMP_REGION_SIZE.off then bank (s.fld CMP_REGION_SEL_REGION)
  else s.sppKey start

/-! ### Computed fields -/

/-- A register value with fields replaced. -/
def withFields (v : Nat) (l : List (Fld × Nat)) : Nat := l.foldl (fun v x => putBits v x.1.hi x.1.lo x.2) v

/-- Word i of a byte string that 32-bit registers show. -/
def wordAt (b : Bytes) (i : Nat) : Nat := leNat (sliceZ b (4 * i) 4)

/-- The boundary window: the first 20 µs of a tick (R17, R19). -/
def State.inBoundary (s : State) : Bool := !s.ticking || decide (s.now < s.boundaryAt + 20000)

/-- Reservation RES is in force for a staged or running service. -/
def State.resActive (s : State) : Bool :=
  let r := s.resv (s.fld SPP_RES_SEL_RES)
  r.valid && (s.svc r.service).phase.holds

/-- What the TCK block shows (R62). -/
def State.viewTck (s : State) (start v : Nat) : Nat :=
  if start = TCK_ELAPSED.off then if s.boundaryAt = 0 then 0 else min 0x3FFFF ((s.now - s.boundaryAt) / 1000)
  else if start = TCK_COMMIT.off then withFields v [(TCK_COMMIT_PENDING, min 255 s.staged.length)]
  else v

/-- What a TIL window shows (R17, R97). -/
def State.viewTil (s : State) (start v : Nat) : Nat :=
  let t := (start - 0x1000000) / 0x40000
  let off := 0x1000000 + (start - 0x1000000) % 0x40000
  if off = TIL_ID.off then withFields v [(TIL_ID_CLUSTER, t / 8), (TIL_ID_TILE, t)]
  else if off = TIL_STATE.off then
    let x := s.tileOf t
    let ended := x.run.isNone && x.wait.isNone && decide (x.cycle ≤ s.cycleNow)
    if bitsOf v TIL_STATE_PHASE.hi TIL_STATE_PHASE.lo = 1 && (s.inBoundary || ended) then withFields v [(TIL_STATE_PHASE, 0)]
    else v
  else if off = TIL_CYCLE.off then
    if s.inBoundary then 0 else if s.tileState t = tsRunning then s.cycleNow % 2 ^ 32 else v
  else if TIL_FTAB_DATA.off ≤ off then
    match Tab.look (s.tileOf t).ftab ((off - TIL_FTAB_DATA.off) / 0x800) with
    | none => 0
    | some f => wordAt f.bytes ((off - TIL_FTAB_DATA.off) % 0x800 / 4)
  else v

/-- Run-window cycles reserved on each link direction in the envelope in force, by 4 × tile + direction. -/
def State.linkLoad (s : State) : Tab Nat :=
  s.slotsReserved.foldl (fun t e => (route e.src e.dst).foldl (fun t x =>
    Tab.update t (4 * x.1 + x.2) 0 (· + (e.last + 1 - e.first))) t) []

/-- Cycles of a run window: the period less the boundary window. -/
def State.runCycles (s : State) : Nat := (s.fld TCK_PERIOD_ACT_PERIOD_US - 20) * envMHz s.env

/-- Services that hold a barrier network. -/
def State.networkOwner (s : State) (n : Nat) : Option Nat :=
  (s.services.find? fun e => e.2.phase.holds && (imgBarriers e.2.image).testBit n).map (·.1)

/-- The barrier state of a network (R193). -/
def State.barView (s : State) (n : Nat) : Nat :=
  let b := s.barrier n
  if s.inBoundary then 0
  else
    match s.openInst n with
    | some i => i * 65536 + 128 + (b.arrivals.filter fun a => a.inst = i).length
    | none => b.ended.foldl (fun m e => max m e.1) 0 * 65536

/-- What the FAB block shows (R199). Shares round down (DESIGN CHOICE, log 25). -/
def State.viewFab (s : State) (start v : Nat) : Nat :=
  if start = FAB_BAR_OWNER.off then
    (List.range 4).foldl (fun v n => v + ((s.networkOwner n).elim 0 fun k => (128 + k) * 256 ^ n)) 0
  else if start = FAB_RES_LOAD.off then
    let l := s.linkLoad
    let share := fun (c k : Nat) => min 1000 (c * 1000 / max 1 (k * s.runCycles))
    withFields v [(FAB_RES_LOAD_PEAK, share (l.foldl (fun m e => max m e.2) 0) 1),
      (FAB_RES_LOAD_MEAN, share (l.foldl (fun m e => m + e.2) 0) 224)]
  else if FAB_BAR_STATE.off ≤ start && start < FAB_BAR_STATE.off + 16 then s.barView ((start - FAB_BAR_STATE.off) / 4)
  else v

/-- Free good blocks by bank, over every slab: (slab, bank number, free). -/
def State.bankSpares (s : State) : List (Nat × Nat × Nat) :=
  (List.range 64).flatMap fun slab => (List.range (4 * s.np)).map fun b =>
    (slab, b, (s.freeBlocks slab (b % s.np) (b / s.np)).length)

/-- The bank with the fewest free good blocks: lowest slab and bank on a tie. -/
def State.spareMin (s : State) : Nat × Nat × Nat :=
  match s.bankSpares with
  | [] => (0, 0, 0)
  | x :: l => l.foldl (fun m y => if y.2.2 < m.2.2 then y else m) x

/-- The block-table entry that NVS_TABLE_SEL selects. -/
def State.tableEntry (s : State) (v : Nat) : Nat :=
  let plane := s.fld NVS_TABLE_SEL_PLANE
  let phys := s.fld NVS_TABLE_SEL_BLOCK
  if s.np ≤ plane || 264 ≤ phys then 0
  else
    let k := blockKey (s.fld NVS_TABLE_SEL_SLAB) plane phys
    let b := s.block k
    withFields v [(NVS_TABLE_DATA_STATE, b.state), (NVS_TABLE_DATA_XO, b2n b.xo), (NVS_TABLE_DATA_ERASED, b2n b.erased),
      (NVS_TABLE_DATA_REFRESH, b2n (s.nv.refreshQueue.any fun r => r.block = k)),
      (NVS_TABLE_DATA_LOGICAL, if b.state = 1 then b.logical else 0), (NVS_TABLE_DATA_ERASES, min 0xFFFF b.erases),
      (NVS_TABLE_DATA_AGE, min 0xFFFF (s.ageDays k)), (NVS_TABLE_DATA_SENSES, min 0xFFFF (b.senses / 2 ^ 17))]

/-- What the NVS block shows (R249). -/
def State.viewNvs (s : State) (start v : Nat) : Nat :=
  if start = NVS_GEOM.off then withFields v [(NVS_GEOM_PLANES, s.np)]
  else if start = NVS_STATE.off then
    withFields v [(NVS_STATE_OPS, min 255 s.opsNow), (NVS_STATE_REFRESH_QUEUE, min 255 s.nv.refreshQueue.length),
      (NVS_STATE_WAITING, b2n s.nvWaits), (NVS_STATE_BATCH_OPEN, b2n s.nv.batch.isSome),
      (NVS_STATE_PHASE, if s.nvPhase = nvReady && s.bit NVS_CTL_HOLD then 2 else s.nvPhase)]
  else if start = NVS_SPARE_MIN.off then
    if s.nv.tablesRead then
      let m := s.spareMin
      withFields v [(NVS_SPARE_MIN_SLAB, m.1), (NVS_SPARE_MIN_BANK, m.2.1), (NVS_SPARE_MIN_FREE, m.2.2)]
    else v
  else if start = NVS_TABLE_DATA.off then s.tableEntry v
  else if NVS_PAGE_BUF.off ≤ start && start < NVS_PAGE_BUF.off + 4096 then
    wordAt s.nv.pageBuf ((start - NVS_PAGE_BUF.off) / 4)
  else if NVS_PAGE_TAG.off ≤ start && start < NVS_PAGE_TAG.off + 32 then wordAt s.nv.pageTag ((start - NVS_PAGE_TAG.off) / 4)
  else v

/-- What the MEM block shows (R322). -/
def State.viewMem (s : State) (start v : Nat) : Nat :=
  if start = MEM_CFG.off then withFields v [(MEM_CFG_ECC_COMPAT, b2n s.compat)]
  else if start = MEM_USABLE.off then withFields v [(MEM_USABLE_MIB, s.usable / 2 ^ 20)]
  else if start = MEM_POOL_STAT.off then
    withFields v [(MEM_POOL_STAT_FREE, s.poolFree.length), (MEM_POOL_STAT_WAITING, s.poolWaiting.length)]
  else if start = MEM_SPARE_STAT.off then
    withFields v [(MEM_SPARE_STAT_ROWS, s.boot.fuses.spareRows), (MEM_SPARE_STAT_COLUMNS, s.boot.fuses.spareCols)]
  else v

/-- What the CMP block shows (R342). -/
def State.viewCmp (s : State) (start v : Nat) : Nat :=
  if start = CMP_SLOT_STATE.off then
    ofBits (((List.range 16).filter fun k => 0 < s.pins k).map (16 + ·) ++ (List.range 16).filter fun k => (s.codeTable k).isSome)
  else if start = CMP_REF.off then
    let k := s.fld CMP_TAB_CTL_SLOT
    withFields v [(CMP_REF_INFLIGHT, min 0xFFFFFF (s.inFlight k)), (CMP_REF_PINS, s.pins k)]
  else if CMP_TCHK.off ≤ start && start < CMP_TCHK.off + 64 then s.tchk ((start - CMP_TCHK.off) / 4)
  else v

/-- What the VID block shows (R379). -/
def State.viewVid (s : State) (start v : Nat) : Nat :=
  if start = VID_LOAD.off then
    let luma := s.intake.demand.foldl (fun n e => if s.now < e.1 + 1000000000 then n + e.2 else n) 0
    withFields v [(VID_LOAD_RESERVED, s.decoderSum), (VID_LOAD_DEMAND, min 0xFFFF (luma / 1000000))]
  else if start = VID_SNAP_FREE.off then withFields v [(VID_SNAP_FREE_FREE, s.snapFree / 16)]
  else v

/-- What the HIF block and its doorbells show (R408, R409). -/
def State.viewHif (s : State) (start v : Nat) : Nat :=
  if start = HIF_RING_IDX.off then
    let r := s.ring s.ringSel.1 s.ringSel.2
    r.tail * 65536 + r.head
  else if start = HIF_MSIX_PBA.off then ofBits s.hif.msixPending
  else if start < 0x41000 && start % 0x1000 = 0 then (s.ring cmdType (start / 0x1000 - 1)).tail
  else if start < 0x41000 && start % 0x1000 = 4 then (s.ring cplType (start / 0x1000 - 1)).head
  else if start < 0x41000 && start % 0x1000 = 8 then (s.ring resType (start / 0x1000 - 1)).head
  else v

/-- What the CNS block shows (R436). -/
def State.viewCns (s : State) (start v : Nat) : Nat :=
  if start = CNS_ID.off then if s.bit CNS_ID_LEADER then withFields v [(CNS_ID_MEMBER, 0)] else v
  else if start = CNS_STATE.off then
    if !s.cnsOn then 0 else if s.inEpoch then 3 else if s.consort.staged.isSome then 2 else 1
  else if start = CNS_CTICK.off then trunc 64 s.ctick
  else if CNS_CONFIG_HASH.off ≤ start && start < CNS_CONFIG_HASH.off + 32 then
    wordAt s.configHash ((start - CNS_CONFIG_HASH.off) / 4)
  else if CNS_FW_HASH.off ≤ start && start < CNS_FW_HASH.off + 32 then wordAt s.fwHash ((start - CNS_FW_HASH.off) / 4)
  else v

/-- The key-table entry that SEC_KEY_SEL selects. -/
def State.keyShown (s : State) : Option Key := ((s.boot.keys[s.fld SEC_KEY_SEL_KEY]?).getD none)

/-- What the SEC block shows (R522). -/
def State.viewSec (s : State) (start v : Nat) : Nat :=
  if start = SEC_LIFE.off then
    withFields v [(SEC_LIFE_OWNED, b2n s.boot.fuses.ownerHash.isSome),
      (SEC_LIFE_OWNER_KEY, b2n (s.boot.keys.any fun k => k.elim false fun k => k.source == 1)),
      (SEC_LIFE_MIN_SVN, s.boot.fuses.minSvn), (SEC_LIFE_KEYS, (s.boot.keys.filter (·.isSome)).length)]
  else if start = SEC_DEVICE_ID.off then deviceValue
  else if start = SEC_KEY_INFO.off then
    match s.keyShown with
    | none => v
    | some k => withFields v [(SEC_KEY_INFO_VALID, 1), (SEC_KEY_INFO_SOURCE, k.source), (SEC_KEY_INFO_ROLES, k.roles),
        (SEC_KEY_INFO_SIGNER, u48 (signerId k.pub) 0)]
  else if SEC_KEY_PUB.off ≤ start && start < SEC_KEY_PUB.off + 32 then
    wordAt (s.keyShown.elim [] (·.pub)) ((start - SEC_KEY_PUB.off) / 4)
  else if SEC_OWNER_HASH.off ≤ start && start < SEC_OWNER_HASH.off + 32 then
    wordAt (s.boot.fuses.ownerHash.getD []) ((start - SEC_OWNER_HASH.off) / 4)
  else if SEC_DEVCERT.off ≤ start && start < SEC_DEVCERT.off + 192 then wordAt s.boot.cert ((start - SEC_DEVCERT.off) / 4)
  else v

/-- What the SPP block shows (R463). -/
def State.viewSpp (s : State) (start v : Nat) : Nat :=
  if start = SPP_STATE.off then
    withFields v [(SPP_STATE_EN, b2n s.sppOn),
      (SPP_STATE_A_RUNNING, min 15 (s.services.filter fun e => e.2.cls = clA && e.2.phase.active).length),
      (SPP_STATE_HELD, b2n (s.dev == stHeld)), (SPP_STATE_ALERT_B, b2n (!s.alertBLevel)), (SPP_STATE_ALERT_A, b2n (!s.alertALevel))]
  else if start = SPP_COMMIT.off then
    withFields v [(SPP_COMMIT_PENDING, b2n (s.spp.spiSet.isSome || !s.spp.signedSets.isEmpty))]
  else if start = SPP_RES_CTL.off then withFields v [(SPP_RES_CTL_ACTIVE, b2n s.resActive)]
  else v

/-- What the PWR block shows (R504); PWR_POWER is measured, so its reading is free (log 12). -/
def State.viewPwr (s : State) (start v : Nat) : Nat :=
  if start = PWR_STATE.off then withFields v [(PWR_STATE_PMC_UP, b2n s.pmcUp)]
  else if start = PWR_EMERG.off then withFields v [(PWR_EMERG_CLEAR_MS, s.clearMs)]
  else if start = PWR_VTRIM.off then
    withFields v [(PWR_VTRIM_V_E75, s.vE 2), (PWR_VTRIM_V_E50, s.vE 1), (PWR_VTRIM_V_E30, s.vE 0)]
  else if start = PWR_POWER.off then (Config.freeWord s.freeCount).toNat
  else v

/-- What the EVT block shows (R557). -/
def State.viewEvt (s : State) (start v : Nat) : Nat :=
  if start = EVT_STATUS.off then withFields v [(EVT_STATUS_FULL, b2n (s.unread == 1024))]
  else if EVT_LOG.off ≤ start && start < EVT_LOG.off + 0x8000 then
    let w := (start - EVT_LOG.off) / 16
    match Tab.look s.log.words w with
    | none => 0
    | some c => bitsOf (c.dec w).2.data.toNat ((start - EVT_LOG.off) % 16 * 8 + 31) ((start - EVT_LOG.off) % 16 * 8)
  else v

/-- What the DBG block shows (R558). -/
def State.viewDbg (s : State) (start v : Nat) : Nat :=
  let f := s.boot.fuses
  if start = DBG_STATUS.off then
    withFields v [(DBG_STATUS_SPARED, b2n (f.sites.any fun x => decide (63 < x))), (DBG_STATUS_FACTORY, b2n f.factory)]
  else if start = DBG_SPARES.off then leNat ((f.disabled.take 4).map (BitVec.ofNat 8))
  else if DBG_TILE_MAP.off ≤ start && start < DBG_TILE_MAP.off + 64 then
    leNat ((slice f.sites (start - DBG_TILE_MAP.off) 4).map fun x => BitVec.ofNat 8 (x % 128))
  else v

/-- What the ID block shows (R4, R539). -/
def State.viewId (s : State) (start v : Nat) : Nat :=
  if start = ID_PART.off then s.boot.fuses.idPart
  else if start = ID_CAP.off then withFields v [(ID_CAP_SLAB_MIB, 8 * s.np), (ID_CAP_ECC_COMPAT, b2n s.compat)]
  else v

/-- What configuration space shows (R4, R381, R382). -/
def State.viewCfg (s : State) (start v : Nat) : Nat :=
  if start = CFG_CLASS.off then withFields v [(CFG_CLASS_REVISION, s.boot.fuses.idPart)]
  else if start = CFG_PMCSR.off then withFields v [(CFG_PMCSR_STATE, 3 * b2n s.hif.d3hot)]
  else if start = CFG_LINKSTAT.off then
    withFields v [(CFG_LINKSTAT_WIDTH, s.fld HIF_LINK_WIDTH), (CFG_LINKSTAT_SPEED, s.fld HIF_LINK_GEN)]
  else if start = CFG_DSN_LOW.off then deviceValue % 2 ^ 32
  else if start = CFG_DSN_HIGH.off then deviceValue / 2 ^ 32
  else v

/-- The value that a read of the register that begins at a BAR0 offset returns. -/
def State.view (s : State) (r : Reg) (start : Nat) : Nat :=
  let v := without (s.regAt (s.keyOf start)) (r.maskOf (· == .wo))
  let v := if cfgSpace start then s.viewCfg start v
    else if 0x1000000 ≤ start then s.viewTil start v
    else if start < 0x1000 then s.viewId start v
    else if start < 0x200000 then s.viewHif start v
    else
      match start / 0x100000 with
      | 2 => s.viewTck start v
      | 3 => s.viewMem start v
      | 4 => s.viewNvs start v
      | 5 => s.viewCmp start v
      | 7 => s.viewVid start v
      | 8 => s.viewCns start v
      | 9 => s.viewPwr start v
      | 10 => s.viewSec start v
      | 11 => s.viewSpp start v
      | 12 => s.viewFab start v
      | 13 => s.viewEvt start v
      | 14 => s.viewDbg start v
      | _ => if start = INT_PTP_TIME.off then trunc 64 s.ptpNs else v
  v % 2 ^ r.width

/-- What the code finds in the event-log word behind a BAR0 offset (R546). -/
def State.logKind (s : State) (off : Nat) : KKind :=
  let w := (off - EVT_LOG.off) / 16
  if EVT_LOG.off ≤ off && off < EVT_LOG.off + 0x8000 then (Tab.look s.log.words w).elim .clean fun c => (c.dec w).1
  else .clean

def State.logPoison (s : State) (off : Nat) : Bool := s.logKind off == .uncorrectable || s.logKind off == .poison

/-- Reports what the code finds in a log word; the log has no internal address, so the record's WORD is free (log 12). -/
def State.noteLog (s : State) (off : Nat) : State :=
  let w := (off - EVT_LOG.off) / 16
  let k := s.logKind off
  let found := (Tab.look s.log.words w).any (·.found)
  (s.noteSram k found (16 * (Config.freeWord s.freeCount).toNat)).whenB (k = .uncorrectable) fun s =>
    let words := match Tab.look s.log.words w with
      | none => s.log.words
      | some c => Tab.put s.log.words w (c.read w)
    { s with log := { s.log with words := words }, freeCount := s.freeCount + 1 }

/-! ### Reads -/

/-- The 32 bits that a read at a BAR0 offset returns, and the state after it. A low half latches its high half; a high half
returns the latched value and releases it (R13). -/
def State.read32 (s : State) (off : Nat) : State × Nat :=
  match findReg off with
  | none => (s.accessError (sourceOf off) 0 off false false, 0)
  | some (r, start) =>
    let v := s.view r start
    let s := (s.noteLog off).whenB (start = PWR_POWER.off) fun s => { s with freeCount := s.freeCount + 1 }
    if r.width = 32 then (s, v)
    else if off = start then
      (s.setHif { s.hif with latched := Tab.put s.hif.latched start (BitVec.ofNat 32 (v / 2 ^ 32)) }, v % 2 ^ 32)
    else
      match Tab.look s.hif.latched start with
      | some w => (s.setHif { s.hif with latched := Tab.del s.hif.latched start }, w.toNat)
      | none => (s, v / 2 ^ 32)

end Sys2Proof.Machine
end

