-- ==== Sys2Proof/Machine/HostWrite.lean ====
section
/-! DEFINITION. Host reads and writes through BAR0, BAR4 and BAR2: what a write of each register does, halves of 64-bit
registers, partial byte enables and unmapped offsets (R10 to R15, R35, R316, R318, R341, R380, R386, R407, R437, R466,
R504, R547, R551, R558). -/

namespace Sys2Proof.Machine

/-! ### Writes of whole registers -/

/-- A write under the access codes alone. -/
def State.plainWrite (s : State) (r : Reg) (start v : Nat) : State :=
  let key := s.keyOf start
  s.setRegAt key (r.written (s.regAt key) v (2 ^ r.width - 1))

/-- A write of EVT_LOG_RD (R547). -/
def State.logRdWrite (s : State) (v : Nat) : State :=
  let rd := s.fld EVT_LOG_RD_INDEX
  if (v % 65536 + 65536 - rd) % 65536 ≤ s.unread then s.setFld EVT_LOG_RD_INDEX v else s.quiet EVT_STATUS_ACCESS

/-- A write of an MSI-X table word; messages whose vectors it unmasks leave (R387). -/
def State.msixWrite (s : State) (r : Reg) (start v : Nat) : State :=
  (s.plainWrite r start v).whenB (start % 16 = 12 && !v.testBit 0) State.msixRelease

/-- Writes of HIF and DBL registers (R386 to R392, R407 to R409). -/
def State.writeHif (s : State) (r : Reg) (start v : Nat) : State :=
  let plain := fun (s : State) => s.plainWrite r start v
  if start = HIF_RING_CFG.off then s.ringCfgWrite v
  else if HIF_RING_CFG.off < start && start < HIF_BAR4_BASE.off && start != HIF_RING_IDX.off then s.ringSetting fun _ => plain s
  else if start = HIF_EMU_CTL.off then s.emuWrite v
  else if HIF_MSIX_TABLE.off ≤ start && start < HIF_MSIX_TABLE.off + 1024 then s.msixWrite r start v
  else if start < 0x41000 then
    s.doorbell (if start % 16 = 0 then cmdType else if start % 16 = 4 then cplType else resType) (start / 0x1000 - 1) start
      (v % 65536)
  else plain s

/-- Writes of TCK registers (R60 to R62). -/
def State.writeTck (s : State) (r : Reg) (start v : Nat) : State :=
  if start = TCK_CTL.off then s.tckCtl v
  else if start = TCK_PERIOD.off then s.tckPeriod v
  else if start = TCK_PHASE.off then s.tckPhase v
  else if start = TCK_TICKIN.off then s.tckTickin v
  else s.plainWrite r start v

/-- Writes of registers in a TIL window (R98). -/
def State.writeTil (s : State) (r : Reg) (start v : Nat) : State :=
  let t := (start - 0x1000000) / 0x40000
  let off := 0x1000000 + (start - 0x1000000) % 0x40000
  if off = TIL_MEM_CTL.off then s.tilMemCtl t (v.testBit 0) (v.testBit 1)
  else if off = TIL_INVAL.off then s.whenB (v.testBit 0) fun s => s.tilInval t
  else s.plainWrite r start v

/-- Writes of MEM, NVS and CMP registers (R250, R298, R336, R340). -/
def State.writeStores (s : State) (r : Reg) (start v : Nat) : State :=
  if start = MEM_CTL.off then s.memCtl v
  else if start = MEM_POOL_BASE.off then s.poolSetting false v
  else if start = MEM_POOL_SIZE.off then s.poolSetting true v
  else if start = NVS_PAGE_CTL.off then s.whenB (v.testBit 0) State.pageRead
  else if start = CMP_TAB_CTL.off then s.tabCtl (bitsOf v 7 4) (v.testBit 0) (v.testBit 1)
  else if start = CMP_REGION_BASE.off then s.regionWrite false v
  else if start = CMP_REGION_SIZE.off then s.regionWrite true v
  else s.plainWrite r start v

/-- The bits that a word of INT_ARP_STATIC stores: bytes 12 to 15 and byte 11 above VALID stay zero (R378). -/
def arpValue (start v : Nat) : Nat := if start % 16 = 12 then 0 else if start % 16 = 8 then v % 2 ^ 25 else v

/-- Writes of INT and VID registers: those of an enabled stream or encoder are ignored (R361, R374, R378, R380). -/
def State.writeVid (s : State) (r : Reg) (start v : Nat) : State :=
  let stream := VID_STREAM_CTL.off < start && start < VID_EGR_SEL.off
  let encoder := (VID_ENC_CTL.off < start && start < VID_EGR_TX_COUNT.off) || start = VID_ENC_SKIP_COUNT.off
  if start = INT_PTP_CTL.off then s.ptpCtl fun s => s.plainWrite r start v
  else if INT_ARP_STATIC.off ≤ start && start < INT_ARP_STATIC.off + 256 then s.plainWrite r start (arpValue start v)
  else if start = INT_PORT_CTL.off then s.portCtlWrite 0 v
  else if start = INT_PORT_CTL.off + 4 then s.portCtlWrite 1 v
  else if start = VID_MEM_BASE.off then s.vidMem false v
  else if start = VID_MEM_SIZE.off then s.vidMem true v
  else if start = VID_STREAM_CTL.off then s.streamCtl v
  else if start = VID_ENC_CTL.off then s.encCtl v
  else if stream && s.streamOn (s.fld VID_STREAM_SEL_SEL) then s.flag VID_STATUS_ACCESS
  else if encoder && s.bit (VID_ENC_CTL_EN.bank (s.fld VID_ENC_SEL_SEL % 16)) then s.flag VID_STATUS_ACCESS
  else s.plainWrite r start v

/-- Writes of CNS registers (R437). -/
def State.writeCns (s : State) (r : Reg) (start v : Nat) : State :=
  let kept := start = CNS_ID.off || start = CNS_ETHERTYPE.off || start = CNS_GROUP_MAC.off || start = CNS_CONSORT_ID.off
  if start = CNS_CTL.off then s.cnsCtl v
  else if start = CNS_EPOCH_CTL.off then s.cnsEpochCtl v
  else if start = CNS_TIMING.off then s.cnsTiming v
  else if CNS_PLAN.off ≤ start && start < CNS_PLAN.off + 64 then s.cnsPlan ((start - CNS_PLAN.off) / 4) v
  else if kept && s.cnsOn then s.flag CNS_STATUS_ACCESS
  else s.plainWrite r start v

/-- Writes of PWR registers (R480, R493, R496, R498, R503). -/
def State.writePwr (s : State) (r : Reg) (start v : Nat) : State :=
  let pz := (PWR_PZ_CTL.off ≤ start && start ≤ PWR_PZ_SCORE.off) || start = PWR_PZ_CYCLE_COUNT.off || start = PWR_PZ_MISS_COUNT.off
  if start = PWR_CTL.off then s.pwrCtl v
  else if start = PWR_SLEEP_CTL.off then
    if v % 4 = 1 then s.sleepRequest false else if v % 4 = 2 then s.sleepRequest true else s
  else if start = PWR_WAKE.off then s.whenB (v.testBit 0) State.wakeGo
  else if start = PWR_PAD_CTL.off then s.whenB (v.testBit 0) State.padRelease
  else if pz && s.sleepState != slActive then s.flag PWR_STATUS_ACCESS
  else s.plainWrite r start v

/-- Writes of SEC registers (R446, R512, R513). -/
def State.writeSec (s : State) (r : Reg) (start v : Nat) : State :=
  if start = SEC_CTL.off then
    (s.whenB (v.testBit 0) State.provisionGo).whenB (v.testBit 1) State.svnGo
  else if start = SEC_BOOT_CTL.off then s.whenB (v.testBit 0) State.bootGo
  else s.plainWrite r start v

/-- Writes of SPP registers over PCIe: all but the buffer and GO of the signed commands are access errors (R466), and so
are these while the partition is disabled (R475). -/
def State.writeSpp (s : State) (r : Reg) (start off v : Nat) : State :=
  if start = SPP_SCMD_CTL.off then s.whenB (v.testBit 0) State.scmdGo
  else if SPP_SCMD_BUF.off ≤ start && start < SPP_SCMD_BUF.off + 2048 && s.sppOn then s.plainWrite r start v
  else s.accessError 0x0B 0 off true false

/-- A host write of a whole register, under the rules of that register; `off` is the offset that the access named. -/
def State.regWrite (s : State) (r : Reg) (start off v : Nat) : State :=
  if 0x1000000 ≤ start then s.writeTil r start v
  else if start < 0x1000 then if start = ID_RESET_CTL.off then s.resetCtl 1 v else s.plainWrite r start v
  else if start < 0x200000 then s.writeHif r start v
  else
    match start / 0x100000 with
    | 2 => s.writeTck r start v
    | 3 => s.writeStores r start v
    | 4 => s.writeStores r start v
    | 5 => s.writeStores r start v
    | 6 => s.writeVid r start v
    | 7 => s.writeVid r start v
    | 8 => s.writeCns r start v
    | 9 => s.writePwr r start v
    | 10 => s.writeSec r start v
    | 11 => s.writeSpp r start off v
    | 13 => if start = EVT_LOG_RD.off then s.logRdWrite v else s.plainWrite r start v
    | 14 => s.accessError 0x0E 0 off true false
    | _ => s.plainWrite r start v

/-! ### Accesses of 32 and of 64 bits (R13, R15) -/

/-- A 64-bit access at an offset that holds a 64-bit register, which acts on the whole of it; any other is two accesses of 32
bits (R13). A hidden offset holds no register. -/
def State.wholeAt (s : State) (off : Nat) : Bool :=
  s.shows off && (findReg off).any fun e => decide (e.1.width = 64) && decide (off = e.2)

/-- A 32-bit write at an offset. The low half of a 64-bit register is held until its high half is written; a high half with
no low half held leaves the low half as it is. -/
def State.write32 (s : State) (off v : Nat) : State :=
  match findReg off with
  | none => s.accessError (sourceOf off) 0 off true false
  | some (r, start) =>
    if r.width = 32 || blockOf start == 11 || blockOf start == 14 then s.regWrite r start off v
    else if off = start then
      s.setHif { s.hif with heldLow := Tab.put s.hif.heldLow start (BitVec.ofNat 32 v) }
    else
      match Tab.look s.hif.heldLow start with
      | some lo =>
        (s.setHif { s.hif with heldLow := Tab.del s.hif.heldLow start }).regWrite r start start (v * 2 ^ 32 + lo.toNat)
      | none => s.regWrite r start start (v * 2 ^ 32 + s.regAt (s.keyOf start) % 2 ^ 32)

/-- A write of either width. A write of a whole 64-bit register leaves a low half that an earlier write holds (DESIGN CHOICE, log
238). -/
def State.write (s : State) (off : Nat) (wide : Bool) (v : Nat) : State :=
  if wide then
    match findReg off with
    | some (r, start) =>
      if r.width = 64 && off = start then s.regWrite r start off (v % 2 ^ 64)
      else (s.write32 off (v % 2 ^ 32)).write32 (off + 4) (v / 2 ^ 32 % 2 ^ 32)
    | none => (s.write32 off (v % 2 ^ 32)).write32 (off + 4) (v / 2 ^ 32 % 2 ^ 32)
  else s.write32 off (v % 2 ^ 32)

/-- A write of a word of configuration space (R381 to R384, R387; the fields' effects are those of PCI Express, log 228). -/
def State.cfgPut (s : State) (off v : Nat) : State :=
  match findReg off with
  | none => s
  | some (r, start) =>
    if start = CFG_PMCSR.off then
      if v % 4 = 3 then s.d3hotEnter else if v % 4 = 0 then s.d0Return else s
    else if start = CFG_MSIX.off then (s.plainWrite r start v).msixRelease
    else if start = CFG_DEVCTL.off then
      (s.plainWrite r start v).whenB (v.testBit 15) fun s => s.whenB s.pcieUp State.hifReset
    else s.plainWrite r start v

/-- A write over PCIe: to configuration space; or to BAR0, where an offset that is hidden acts as an unmapped one. The halves of a
64-bit access that is not of a whole register are judged each for itself. -/
def State.pcieWrite (s : State) (off : Nat) (wide : Bool) (v : Nat) : State :=
  if cfgSpace off then
    if s.cfgShows then (s.cfgPut off (v % 2 ^ 32)).whenB wide fun s => s.cfgPut (off + 4) (v / 2 ^ 32 % 2 ^ 32) else s.cfgRetry
  else
  if wide && !s.wholeAt off then
    let half := fun (s : State) (o x : Nat) => s.hostWrite o fun s => s.write32 o (x % 2 ^ 32)
    half (half s off v) (off + 4) (v / 2 ^ 32)
  else s.hostWrite off fun s => s.write off wide v

/-- A 32-bit read over PCIe, in which a hidden offset acts as an unmapped one. -/
def State.readHalf (s : State) (off : Nat) : State × Nat :=
  if s.shows off then s.read32 off else (s.accessError (sourceOf off) 0 off false false, 0)

/-- A 64-bit read: of a whole 64-bit register, or two 32-bit reads side by side (R13). -/
def State.readWide (s : State) (off : Nat) : State × Nat :=
  let two := fun (_ : Unit) =>
    let a := s.readHalf off
    let b := a.1.readHalf (off + 4)
    (b.1, a.2 + b.2 * 2 ^ 32)
  match findReg off with
  | some (r, start) => if s.wholeAt off then (s, s.view r start) else two ()
  | none => two ()

/-- A word of configuration space. -/
def State.cfgWord (s : State) (off : Nat) : Nat := (findReg off).elim 0 fun e => s.view e.1 e.2

/-- The bytes of an access that its byte enables request. -/
def enabledBytes (enables : Nat) (b : Bytes) : Bytes :=
  ((List.range b.length).zip b).filterMap fun e => if enables.testBit e.1 then some e.2 else none

/-- Every byte of an access is enabled. -/
def allBytes (wide : Bool) : Nat := if wide then 0xFF else 0xF

/-- A read over PCIe. One with partial byte enables leaves the halves that reads latch as they are (R14). -/
def State.pcieRead (s : State) (off : Nat) (wide : Bool) (enables : Nat) : State :=
  let n := if wide then 8 else 4
  if cfgSpace off then
    if s.cfgShows then
      s.emit (.read (enabledBytes enables (leBytes n (s.cfgWord off + s.cfgWord (off + 4) * 2 ^ 32))) false)
    else s.cfgRetry
  else if !s.delivered then s.unsupported true
  else
    let r := if wide then s.readWide off else s.readHalf off
    let t := if enables = allBytes wide then r.1 else r.1.setHif { r.1.hif with latched := s.hif.latched }
    let bad := (s.shows off && s.logPoison off) || (wide && s.shows (off + 4) && s.logPoison (off + 4))
    t.emit (.read (enabledBytes enables (leBytes n r.2)) bad)

/-- REGISTER_WRITE. -/
def execRegisterWrite (offset : Nat) (wide : Bool) (value : DWord) (s : State) : Host.Outcome State Fault Refusal :=
  act s fun s => s.pcieWrite offset wide value.toNat

/-- The COUNT of the counter at an offset. -/
def State.counterAt (s : State) (off : Nat) : Option Fld :=
  match findReg off with
  | some (r, start) =>
    if r.isCounter && start == off then some { off := s.keyOf off, hi := 47, lo := 0, acc := .ro, reset := 0, whole := r.reset }
    else none
  | none => none

/-- A write of 1 to SAT and an occurrence in its cycle (R553): it is counted after the clear, but one that saturates the counter
leaves it saturated. -/
def State.satClear (s : State) (off n : Nat) : State :=
  let t := s.pcieWrite off true (2 ^ 63)
  match s.counterAt off with
  | some f => (t.whenB (s.bumpRaw f n).2 fun t => t.setWhole f.off f.whole (s.whole f.off f.whole)).count f n
  | none => t

/-- COUNTER_SAT_CLEAR: a 64-bit write with 1 in bit 63. -/
def execCounterSatClear (clear : SatClear) (s : State) : Host.Outcome State Fault Refusal :=
  act s fun s => s.satClear clear.offset clear.meets

/-- REG64_LOW_HALF_READ, and any other read of BAR0 (log 38). -/
def execReg64LowHalfRead (read : BarRead) (s : State) : Host.Outcome State Fault Refusal :=
  act s fun s => s.pcieRead read.offset read.wide read.enables

def execReg64LowHalfWrite (offset : Nat) (value : Word) (s : State) : Host.Outcome State Fault Refusal :=
  act s fun s => s.pcieWrite offset false value.toNat

def execEvtLogRdWrite (value : Word) (s : State) : Host.Outcome State Fault Refusal :=
  hostAct EVT_LOG_RD.off s fun s => s.logRdWrite value.toNat

def execDeviceResetRequest (value : Word) (s : State) : Host.Outcome State Fault Refusal :=
  hostAct ID_RESET_CTL.off s fun s => s.resetCtl 1 value.toNat

/-- PARTIAL_BYTE_WRITE. -/
def execPartialByteWrite (offset : Nat) (s : State) : Host.Outcome State Fault Refusal :=
  act s fun s => if s.delivered then s.accessError (sourceOf offset) 0 offset true true else s.unsupported false

/-- UNMAPPED_ACCESS: an offset that holds no register, or whose block is hidden. -/
def execUnmappedAccess (offset : Nat) (write : Bool) (s : State) : Host.Outcome State Fault Refusal :=
  act s fun s =>
    if !s.delivered then s.unsupported (!write)
    else if (findReg offset).isSome && s.shows offset then s
    else (s.accessError (sourceOf offset) 0 offset write false).whenB (!write) fun s => s.emit (.read (leBytes 4 0) false)

/-! ### BAR4 (R35, R386) -/

/-- Internal address behind a BAR4 offset. -/
def State.bar4Addr (s : State) (off : Nat) : Nat := s.fld HIF_BAR4_BASE_WINDOW * 0x10000000 + off

/-- An access through BAR4 outside usable space sets MEM_STATUS.ACCESS and fills MEM_ERR_REC (R322); a sleeping device records
nothing. -/
def State.noteUnbacked (s : State) (a n : Nat) : State :=
  s.whenB (!s.asleep && !s.inUsable a n) fun s => (s.flag MEM_STATUS_ACCESS).memErr 4 a

/-- A read of T3 through BAR4; one that meets a marked word completes with the EP bit. -/
def State.bar4Get (s : State) (off n : Nat) : State :=
  let a := s.bar4Addr off
  if !s.delivered then s.unsupported true
  else if s.asleep || !s.inUsable a n then
    ((s.accessError 1 4 off false false).noteUnbacked a n).emit (.read (List.replicate n 0) false)
  else
    let r := s.memBytes a n
    (r.1.whenB r.2.2 fun s => s.flag MEM_STATUS_POISON_READ).emit (.read r.2.1 r.2.2)

/-- A write into T3 through BAR4; the blocks it touches are open in coded regions. -/
def State.bar4Put (s : State) (off : Nat) (b : Bytes) : State :=
  let a := s.bar4Addr off
  if !s.delivered then s.unsupported false
  else if s.asleep || !s.inUsable a b.length || s.rangeHeld SvcPhase.admitted a (a + b.length) then
    (s.accessError 1 4 off true false).noteUnbacked a b.length
  else (s.memPut a b).openBlocks a b.length

def execBar4Read (offset length : Nat) (s : State) : Host.Outcome State Fault Refusal :=
  act s fun s => s.bar4Get offset length

def execBar4Write (offset : Nat) (data : Bytes) (s : State) : Host.Outcome State Fault Refusal :=
  act s fun s => s.bar4Put offset data

/-! ### BAR2 (R407) -/

/-- A BAR2 access while emulation is on; `done` is what a defined offset does. -/
def State.bar2 (s : State) (off : Nat) (write : Bool) (done : State → State) : State :=
  let zero := fun (s : State) (v : Nat) => s.whenB (!write) fun s => s.emit (.read (leBytes 4 v) false)
  if !s.delivered then s.unsupported (!write)
  else if s.asleep then zero (s.accessError 1 2 off write false) 0
  else if !s.bit HIF_EMU_CTL_EN then zero s 0
  else if s.bit HIF_STATUS_SCH_DOWN then zero (s.flag HIF_STATUS_EMU_LOST) 0xFFFFFFFF
  else
    let s := s.setHif { s.hif with emuCount := s.hif.emuCount + 1 }
    if Config.emuDefined off then done s else zero (s.accessError 1 2 off write false) 0

/-- BAR2_READ: the value of a defined offset is that of another part's register set, and free (log 7). -/
def execBar2Read (offset : Nat) (s : State) : Host.Outcome State Fault Refusal :=
  act s fun s => s.bar2 offset false fun s =>
    s.emit (.read (leBytes 4 (Config.emuRead offset s.hif.emuCount).toNat) false)

def execBar2Write (offset : Nat) (_value : Word) (s : State) : Host.Outcome State Fault Refusal :=
  act s fun s => s.bar2 offset true fun s => s

end Sys2Proof.Machine
end

