-- ==== Sys2Proof/Machine/Commit.lean ====
section
/-! DEFINITION. Step 4 of a boundary window: commit sets (R22 to R25), firmware activation (R453 to R457), configuration
epochs (R401), write sets of the soundpost partition (R467, R468), the model epoch (R273), stops and starts, HOLD (R477), and
the envelope of the tick (R480). -/

namespace Sys2Proof.Machine

/-! ### The members of the set -/

/-- The activation that takes the one place of the set: a rollback before others. -/
def placeOf (l : List Change) : Option Change :=
  (l.find? fun c => match c.kind with | .rollback _ => true | _ => false) <|>
    l.find? fun c => match c.kind with | .activate _ => true | _ => false

/-- Activations that move on to a later boundary. -/
def movedOn (l : List Change) : List Change := l.filter fun c => c.kind.takesPlace && placeOf l != some c

/-- In an emergency the activations due are taken out of the set (R457). -/
def State.emergencyOut (s : State) : State :=
  if s.emergency then
    s.dueNow.foldl (fun (s : State) c =>
      match c.kind with
      | .activate k =>
        ({ s with staged := s.staged.map fun d => if d = c then { d with target := deferredTarget k } else d } : State).deferMarks k
      | _ => s) s
  else s

/-- A service and the partner that starts and stops with it. -/
def State.pairOf (s : State) (n : Nat) : List Nat :=
  let o := s.chainOwner n
  o :: (s.partner o).toList

/-- The binding that a service will have when the set has been applied. -/
def setBinding (l : List Change) (n : Nat) (now : Option Nat) : Option Nat :=
  l.foldl (fun o c =>
    match c.kind with
    | .bind k slot => if k = n then slot else o
    | .swap k slot => if k = n then some slot else o
    | _ => o) now

/-- A change is fully staged (R23, R133, R223, R274, R297, R454). -/
def State.changeReady (s : State) (l : List Change) (at_ : Nat) (c : Change) : Bool :=
  match c.kind with
  | .start n => (n :: (s.partner n).toList).all fun k =>
      let v := s.svc k
      v.copied && v.zeroed && !(setBinding l k v.slot).any fun sl => s.nvMeets v.image sl
  | .bind _ _ => true
  | .swap n slot => !s.nvMeets (s.svc n).image slot
  | .activate k => s.fwReady k at_
  | .rollback k => s.fwReady k at_ || s.fwState k = fwRestarting
  | .stop _ => true
  | .config _ => true
  | .startup _ => true
  | .consort => true

/-- The activations that do not take the place are staged again, one for each later boundary. -/
def State.moveOn (s : State) (l : List Change) : State :=
  l.foldl (fun (s : State) c => s.addChange { c with target := s.freePlace (s.tick + 1) })
    { s with staged := s.staged.filter fun c => !l.contains c }

/-- A change has been applied. -/
def State.changeDone (s : State) (c : Change) : State :=
  let s := s.dropChange c
  match c.cmd with
  | some id => s.finish id stOk 0 (s.tick % 2 ^ 48)
  | none => s

/-! ### Configuration epochs (R401, R532) -/

/-- ACCESS of a block. -/
def accessBit (block : Nat) : Option Fld :=
  if block = blkMem then some MEM_STATUS_ACCESS
  else if block = blkCmp then some CMP_STATUS_ACCESS
  else if block = blkInt then some INT_STATUS_ACCESS
  else if block = blkVid then some VID_STATUS_ACCESS
  else if block = blkCns then some CNS_STATUS_ACCESS
  else if block = blkEvt then some EVT_STATUS_ACCESS
  else if block = blkPwr then some PWR_STATUS_ACCESS
  else none

/-- One host write of a record; one to a register that no write changes sets the block's ACCESS bit. -/
def State.applyWord (s : State) (r : Nat × Bool × Nat) : State :=
  match findReg r.1 with
  | none => s
  | some (g, _) =>
    if g.maskOf (fun a => a == .rw || a == .rw1c || a == .wo) = 0 then
      match accessBit (r.1 / 0x100000) with
      | some f => s.flag f
      | none => s
    else s.write r.1 r.2.1 r.2.2

/-- A record acts as a host write; one of 64 bits that names no whole register is two writes of 32 bits (R13). -/
def State.applyRecord (s : State) (r : Nat × Bool × Nat) : State :=
  if r.2.1 && !(findReg r.1).any fun e => decide (e.1.width = 64) && decide (r.1 = e.2) then
    (s.applyWord (r.1, false, r.2.2 % 2 ^ 32)).applyWord (r.1 + 4, false, r.2.2 / 2 ^ 32 % 2 ^ 32)
  else s.applyWord r

def State.applyRecords (s : State) (l : Bytes) : State :=
  let s := (listRecords l).foldl State.applyRecord s
  { s with configEpoch := (s.configEpoch + 1) % 2 ^ 32 }

/-- The REGISTERS section: a record that is not allowed is skipped. -/
def State.applyStartup (s : State) (l : Bytes) : State :=
  let s := (chunks 16 l).foldl (fun (s : State) r =>
    if recordOk (blkTck :: blkPwr :: epochBlocks) r then s.applyRecord (listRecord r) else s.flag HIF_STATUS_ACCESS) s
  { s with configEpoch := (s.configEpoch + 1) % 2 ^ 32 }

/-! ### The members in the order of R22 -/

/-- Members 1 to 3: the consort epoch, one activation, the configuration epoch. -/
def State.applyEarly (s : State) (at_ : Nat) (l : List Change) : State :=
  let each := fun (s : State) (f : State → ChangeKind → State) => l.foldl (fun s c => f s c.kind) s
  let s := each s fun s k => match k with
    | .consort => s.epochStart
    | _ => s
  let s := each s fun s k => match k with
    | .activate c => s.exchange c at_ bankPrevious
    | .rollback c => (s.exchange c at_ bankStaged).flag SEC_FW_STATUS_ROLLBACK
    | _ => s
  each s fun s k => match k with
    | .config r => s.applyRecords r
    | .startup r => s.applyStartup r
    | _ => s

/-- Member 4: binding changes. -/
def State.applyBinds (s : State) (l : List Change) : State :=
  let binds := l.filter fun c => match c.kind with
    | .bind _ _ => true
    | .swap _ _ => true
    | _ => false
  let s := binds.foldl (fun (s : State) c => match c.kind with
    | .bind n slot => s.applyBind n slot
    | .swap n slot => s.applyBind n (some slot)
    | _ => s) s
  if binds.isEmpty then s else { s with modelEpoch := (s.modelEpoch + 1) % 2 ^ 32 }

/-! ### Write sets (R467, R468) -/

/-- RESULT of the last signed command that SEC accepted, once its set has met its boundary (R470; log 235). -/
def State.setResult (s : State) (spi : Bool) (v : Nat) : State :=
  s.whenB (!spi && !s.bit SPP_SCMD_CTL_BUSY && [1, 2, 7].contains (s.fld SPP_SCMD_CTL_RESULT)) fun s =>
    s.setFld SPP_SCMD_CTL_RESULT v

/-- A write set is applied whole, or rejected; a signed one that is rejected counts as a rejected command too (R470). `gone`: HOLD
of a set before it has stopped the services of class B and C. -/
def State.applySet (s : State) (spi gone : Bool) (w : WriteSet) : State :=
  let s := s.whenB w.start fun s => s.setBoot { s.boot with soundpostWait := false }
  match s.trySet spi gone w with
  | none => ((s.flag SPP_STATUS_SET_REJ).whenB (!spi) fun s => s.sppNote SPP_STATUS_SCMD_REJ).setResult spi 7
  | some t =>
    let t := t.setResult spi 2
    let source := if spi then 1 else 2
    let source := if t.fld SPP_COMMIT_LAST_TICK = s.tick % 2 ^ 24 then t.fld SPP_COMMIT_SOURCE ||| source else source
    let t := t.setFlds [(SPP_COMMIT_SOURCE, source), (SPP_COMMIT_LAST_TICK, s.tick % 2 ^ 24)]
    if t.alertALevel == s.alertALevel && t.alertBLevel == s.alertBLevel then t else t.showAlerts

/-- The set is due in a step 4 that begins at a time. -/
def WriteSet.due (w : WriteSet) (at_ : Nat) : Bool := decide (w.since + 50000 ≤ at_)

/-- A write set, and whether HOLD has taken effect with it or with one before it: a set applies HOLD together with its stops, which a
later set does not take back (R467). -/
def State.nextSet (s : State × Bool) (spi : Bool) (w : WriteSet) : State × Bool :=
  (s.1.applySet spi s.2 w, s.2 || ((s.1.trySet spi s.2 w).isSome && setHold (s.1.bit SPP_CTL_HOLD) w.records))

/-- The write sets due: the signed ones in order, then that of SPP_SPI; and whether HOLD has taken effect with one of them. -/
def State.applySets (s : State) (at_ : Nat) : State × Bool :=
  let signed := s.spp.signedSets.filter fun (w : WriteSet) => w.due at_
  let spi := s.spp.spiSet.filter fun (w : WriteSet) => w.due at_
  let s := s.setSpp { s.spp with
    signedSets := s.spp.signedSets.filter fun (w : WriteSet) => !w.due at_,
    spiSet := s.spp.spiSet.filter fun (w : WriteSet) => !w.due at_ }
  let r := signed.foldl (fun r w => State.nextSet r false w) (s, false)
  match spi with
  | some w => State.nextSet r true w
  | none => r

/-! ### The set as a whole -/

/-- What step 4 has done before the stops: the state, whether HOLD of a write set has taken effect, the members applied, and the
changes that were due. -/
structure Commit where
  state : State
  hold : Bool
  applied : List Change
  due : List Change

/-- Step 4 up to the stops. An epoch that ends does so in every case. -/
def State.commitEarly (s : State) : Commit :=
  let at_ := s.boundaryAt + 4000
  let s := (s.whenB s.epochOver State.epochEnd).emergencyOut
  let due := s.dueNow
  let moved := movedOn due
  let l := due.filter fun c => !moved.contains c
  if l.all (s.changeReady l at_) then
    let s := (l.filter fun c => c.kind.takesPlace).foldl (fun (s : State) c => s.dropChange c) (s.applyEarly at_ l)
    let s := s.moveOn moved
    let r := s.applySets at_
    { state := r.1.applyBinds l, hold := r.2, applied := l, due := due }
  else
    let r := (s.flag TCK_STATUS_COMMIT_DEFER).applySets at_
    { state := r.1, hold := r.2, applied := [], due := due }

/-- Services that stop and start at the boundary, whether HOLD takes or keeps effect at it, and whether it is in force from it on. -/
structure Plan where
  stops : List Nat
  starts : List Nat
  hold : Bool
  held : Bool
  deriving DecidableEq, Repr

/-- The plan of a boundary: stops of the set, of HOLD (R477) and of POLICY STOP after an overrun (R45). A stop by policy takes
place also where the set of the boundary is deferred: it is no member of that set (DESIGN CHOICE, log 199). -/
def Commit.plan (c : Commit) : Plan :=
  let s := c.state
  let hold := c.hold || s.bit SPP_CTL_HOLD
  let byHold := s.services.filterMap fun (e : Nat × Service) =>
    if hold && e.2.phase.admitted && e.2.cls != clA then some e.1 else none
  let byPolicy := s.services.flatMap fun (e : Nat × Service) =>
    if e.2.policyStop && e.2.log.flags.testBit rfOverrun && e.2.phase.admitted then s.pairOf e.1 else []
  let bySet := c.applied.flatMap fun x => match x.kind with
    | .stop n => s.pairOf n
    | _ => []
  { stops := s.svcNums.filter fun n => (s.svc n).phase.admitted && (byHold.contains n || byPolicy.contains n || bySet.contains n),
    starts := c.applied.flatMap fun x => match x.kind with
      | .start n => if hold && (s.svc n).cls != clA then [] else n :: (s.partner n).toList
      | _ => [],
    hold := hold, held := s.bit SPP_CTL_HOLD }

/-! ### Stops, starts and states of services -/

/-- A service stops. -/
def State.stopSvc (s : State) (n : Nat) : State := (s.release n true).poolStop n

/-- A service starts: it runs, or is on standby for its consort or for the absence of one (R419). -/
def State.startSvc (s : State) (n : Nat) : State :=
  let waits := if s.isConsort n then !s.inEpoch else (s.partnerOf n).isSome && s.inEpoch
  let m := s.modelEpoch
  s.modSvc n fun v => { v with
    phase := if waits then .standby else .running, refill := true, lastEpoch := m, log := TickLog.empty, waitSince := 0 }

/-- Step 4 from the stops on. -/
def State.commitLate (s : State) (c : Commit) (p : Plan) : State :=
  let refused := c.due.filter fun x => match x.kind with
    | .start n => p.hold && (s.svc n).cls != clA
    | _ => false
  let s := p.stops.foldl State.stopSvc s
  let s := refused.foldl (fun (s : State) x => s.withdraw x stDeviceState) s
  let s := p.starts.foldl State.startSvc s
  let s := (c.applied.filter fun x => !x.kind.takesPlace && !refused.contains x).foldl State.changeDone s
  let s := s.whenB (!c.applied.isEmpty) fun s => s.setFld TCK_COMMIT_LAST_TICK (s.tick % 2 ^ 48)
  let s := s.whenB (p.hold && s.dev != stHeld) fun s => s.sppNote SPP_STATUS_HELD_ENTER
  s.whenB s.spp.autoHold fun s => (s.setFld SPP_CTL_HOLD 1).setSpp { s.spp with autoHold := false }

/-- The envelope of the tick takes its place, and the services that run, wait or are suspended under it (R41, R300). While PMC is down
the request follows it, so that a clamp that ends leaves E30 in force until PMC runs and the host asks anew (R486). -/
def State.takeEnv (s : State) : State :=
  let e := s.envDecide
  if e = s.env then s
  else
    let s := ((s.setFld PWR_STATE_ENV_ACT e).flag PWR_STATUS_ENV_CHANGE).count PWR_ENV_COUNT_COUNT 1
    let s := s.whenB s.pmcDown fun s => s.setFld PWR_CTL_ENV_REQ e
    { s with services := s.services.map fun (x : Nat × Service) => (x.1, { x.2 with refill := true }) }

/-- Whether a service runs the tick, waits for its pool ranges or is suspended. -/
def State.settleSvc (s : State) (n : Nat) : State :=
  let v := s.svc n
  if !v.phase.admitted || v.phase = .standby then s
  else if v.cls != clA && !fitsAt v.image s.env (s.fld TCK_PERIOD_ACT_PERIOD_US) then
    s.modSvc n fun v => { v with phase := .suspended }
  else
    let s := s.whenB (v.phase = .suspended) fun s => s.modSvc n fun v => { v with refill := true }
    if v.cls = clC && !s.poolResident n then
      (s.modSvc n fun v => { v with
        phase := .waiting, waitSince := if v.phase = .waiting then v.waitSince else s.tick }).flag MEM_STATUS_POOL_WAIT
    else s.modSvc n fun v => { v with phase := .running }

/-- The device state after the starts (R535). -/
def State.settleDev (s : State) (held : Bool) : State :=
  let runs := s.services.any fun (e : Nat × Service) => e.2.phase = .running
  let some_ := s.services.any fun (e : Nat × Service) => e.2.phase.admitted
  s.setDev (if held then stHeld else if runs || (s.dev == stRunning && some_) then stRunning else stReady)

end Sys2Proof.Machine
end

