-- ==== Sys2Proof/Machine/Source.lean ====
section
/-! DEFINITION. The tick source: when the next boundary falls (R56 to R60, R574), edges of TICK_IN and their absence, and
step 1 of a boundary window (R19, R20). -/

namespace Sys2Proof.Machine

/-- The active period in ns. -/
def State.periodNs (s : State) : Nat := 1000 * s.fld TCK_PERIOD_ACT_PERIOD_US

/-- A period as the tick sequencer times it: from the internal oscillator while the reference clock is missing (R574). -/
def State.timedPeriod (s : State) : Nat := if s.power.refclk then s.periodNs else s.periodNs * 102 / 100

/-- The PTP clock at a model time, as it runs now. -/
def State.ptpAt (s : State) (t : Nat) : Int := State.ptpNs { s with now := t }

/-- The first PTP time of R56 at or after a model time. -/
def State.gridFrom (s : State) (t : Nat) : Int :=
  let p : Int := s.periodNs
  let x := s.ptpAt t - 1000 * s.phaseUs
  if p = 0 then x else (x + p - 1).fdiv p * p + 1000 * s.phaseUs

/-- Model time at which the PTP clock reaches a time that it does not reach before `t0`. -/
def State.gridTime (s : State) (t0 : Nat) (g : Int) : Nat := max t0 (State.whenPtp { s with now := t0 } g)

/-- The next boundary under PTP with lock: its model time, and its PTP time where that is one of R56. While the boundaries
are still off the PTP times, a tick is lengthened by at most TOL_US. -/
def State.ptpDue (s : State) : Nat × Option Int :=
  if s.ticking && s.slewing then
    let t0 := s.boundaryAt + s.periodNs
    let g := s.gridFrom t0
    let t := s.gridTime t0 g
    let limit := t0 + 1000 * s.tolUs
    if t ≤ limit then (t, some g) else (limit, none)
  else
    let t0 := if s.ticking then s.nextEarliest else s.tickFrom
    let g := s.gridFrom t0
    (s.gridTime t0 g, some g)

/-- When the next boundary falls, with its PTP time where it is one of R56; none while TICK_IN has not come. -/
def State.boundaryDue (s : State) : Option (Nat × Option Int) :=
  match s.tickEvent with
  | some t => some (t, none)
  | none =>
    let src := s.fld TCK_CTL_SRC_ACTIVE
    if src = 2 then none
    else if src = 1 && s.bit INT_PTP_STATUS_LOCK && s.power.refclk then some s.ptpDue
    else some (if s.ticking then s.boundaryAt + s.timedPeriod else s.tickFrom, none)

/-! ### TICK_IN (R57, R58) -/

/-- Ends of the window in which an edge is awaited. After a wake the window opens at the first time that a boundary may
take (R497). -/
def State.edgeFrom (s : State) : Nat := if s.ticking then s.nextEarliest else s.tickFrom
def State.edgeUntil (s : State) : Nat :=
  (if s.ticking then s.boundaryAt else s.tickFrom) + 1000 * (s.fld TCK_PERIOD_ACT_PERIOD_US + s.tolUs)

/-- TICK_IN drives the boundaries. -/
def State.tickInOn (s : State) : Bool := s.up && !s.power.lastBoundary && s.fld TCK_CTL_SRC_ACTIVE == 2

/-- The occurrences after the first n belong to the boundary that is being made: their TICK is its number. -/
def State.ofBoundary (s : State) (n : Nat) : State :=
  { s with log := { s.log with
      group := s.log.group.take n ++ (s.log.group.drop n).map fun o => { o with tick := (o.tick + 1) % 2 ^ 64 } } }

/-- No edge has come by the end of its window: the device makes the boundary itself; after HOLD_LIMIT such boundaries the
internal source takes over. -/
def State.edgeMissed (s : State) : State :=
  if !s.tickInOn || s.tickEvent.isSome then s
  else
    let t := s.edgeUntil
    let s := s.upTo t
    let n := s.log.group.length
    let s := (s.flag TCK_STATUS_MISSED).count TCK_EDGE_COUNT_COUNT 1
    let s : State := { s with missed := s.missed + 1, tickEvent := some t }
    (s.whenB (s.fld TCK_CTL_HOLD_LIMIT != 0 && decide (s.fld TCK_CTL_HOLD_LIMIT ≤ s.missed)) fun s =>
      (s.setFld TCK_CTL_SRC_ACTIVE 0).flag TCK_STATUS_SRC_FALLBACK).ofBoundary n

/-- An edge of TICK_IN of the selected polarity. One that comes before the boundary of an earlier event has been made is
early for the boundary after that. -/
def State.edge (s : State) : State :=
  let s := s.whenB (decide (s.edgeUntil < s.now)) State.edgeMissed
  if !s.tickInOn then s
  else if s.tickEvent.isSome || s.now < s.edgeFrom then (s.flag TCK_STATUS_EARLY).count TCK_EDGE_COUNT_COUNT 1
  else { s with tickEvent := some s.now, missed := 0 }

def execTickInEdge (falling : Bool) (s : State) : Host.Outcome State Fault Refusal :=
  act s fun s => s.whenB (s.tickInOn && s.bit TCK_TICKIN_EDGE == falling) State.edge

def execTickInTimeout (s : State) : Host.Outcome State Fault Refusal := act s State.edgeMissed

/-! ### Step 1 of a boundary window -/

/-- Boundaries go on off the PTP times after this one. -/
def State.offGrid (s : State) (grid : Option Int) (changed : Bool) : Bool :=
  if changed || s.fld TCK_CTL_SRC_ACTIVE != 1 then false
  else if s.bit INT_PTP_STATUS_LOCK then (s.slewing || !s.power.refclk) && grid.isNone
  else true

/-- The slack window of the tick that ends (R18); `overrun` tells of an overrun in it. -/
def State.slack (s : State) (b : Nat) (overrun : Bool) : State :=
  if !s.ticking then s
  else
    let us := if overrun then 0 else min 0x1FFFF ((b - s.lastEnd) / 1000)
    s.setFlds [(TCK_SLACK_LAST_SLACK_US, us), (TCK_SLACK_MIN_SLACK_US, min us (s.fld TCK_SLACK_MIN_SLACK_US))]

/-- Step 1: the boundary's number and time; a change of source, period or phase takes effect (R60). -/
def State.stepOne (s : State) (b : Nat) (grid : Option Int) : State :=
  let changed := s.srcWritten || s.fld TCK_PERIOD_PERIOD_US != s.fld TCK_PERIOD_ACT_PERIOD_US ||
    s.fld TCK_PHASE_PHASE_US != s.phaseAct
  let off := s.offGrid grid changed
  let src := if s.srcWritten then s.fld TCK_CTL_SRC else s.fld TCK_CTL_SRC_ACTIVE
  let s := s.setFlds [(TCK_COUNT_TICK, s.tick + 1), (TCK_CTL_SRC_ACTIVE, src), (TCK_PERIOD_ACT_PERIOD_US, s.fld TCK_PERIOD_PERIOD_US)]
  let s : State := { s with
    now := b, boundaryAt := b, ticking := true, tickEvent := none, srcWritten := false, slewing := off, gapSeen := false,
    missed := if s.srcWritten then 0 else s.missed, phaseAct := s.fld TCK_PHASE_PHASE_US }
  let s := s.showHoldover
  let s := s.setFld TCK_BOUNDARY_TS_TIME_NS (if s.ptpMode then (grid.getD s.ptpNs).toNat else s.stamp)
  if s.bit TCK_CTL_OUT_EN then (s.pin "TICK_OUT" true).pin "TICK_OUT" false else s

end Sys2Proof.Machine
end

