-- ==== Sys2Proof/Machine/Boundary.lean ====
section
/-! DEFINITION. The boundary (R18, R19): carry refill (R277), event summaries (R544), history records (R43, R129), the start
of the programs of a tick, and TICK_BOUNDARY itself. -/

namespace Sys2Proof.Machine

/-! ### Step 4, second part: carry refill (R277) -/

/-- The fill that a carry refill repeats: of a RING fill, the words that its ring holds at the end. -/
def State.refillRead (s : State) (n : Nat) (f : Fill) : SlabRead × Nat :=
  let skip := if f.ring then f.length - min f.length (16 * f.ringWords) else 0
  ({ ring := f.ring, half1 := f.half1, dst := f.dst, offset := f.offset + skip + (s.svc n).slot.elim 0 s.slotBase,
     length := f.length - skip, ringWords := f.ringWords, issue := 0, done := 0, lag := 0, deadline := 0, delivered := 0,
     stalled := false, shift := 0 }, skip / 16)

/-- One page of a carry refill: the fast path only. -/
def State.refillPage (s : State) (t : Nat) (r : SlabRead) (k0 page : Nat) (senses : Senses) : State :=
  let pl := s.place t page
  let lo := max r.offset (page * 4096)
  let hi := min (r.offset + r.length) ((page + 1) * 4096)
  let k := k0 + (lo - r.offset) / 16
  let n := (hi - lo) / 16
  let put := fun (s : State) (ws : List MWord) =>
    ((List.range ws.length).zip ws).foldl (fun (s : State) e => s.tileWrite t (s.fillWord t r (k + e.1)) e.2) s
  match s.mapped t pl.plane pl.lblock with
  | none => ((put s (zeroMarked n)).noteLost (blockKey t pl.plane 0) pl.pg).slabPoison t
  | some bk =>
    let x := decodePage (s.pageAt bk pl.pg) pl (Tab.lookD senses (pageKey bk pl.pg) [])
    let words := slice x.words (lo % 4096 / 16) n
    let s := s.notePage bk pl.pg x.bits
    if x.blank || (x.tagOk && tagKind x.tag = 3) then ((put s (zeroMarked n)).noteLost bk pl.pg).slabPoison t
    else if s.isXo bk x then (put s (List.replicate n MWord.zero)).noteXo bk pl.pg
    else
      let s := put s (words.map fun w => ⟨w, !x.fine⟩)
      s.whenB (!x.fine) fun s => (s.noteUe bk pl.pg).slabPoison t

/-- The carry refill of a service: every tile's carry set in command order. -/
def State.refillSvc (s : State) (senses : Senses) (n : Nat) : State :=
  let v := s.svc n
  let s := (imgTiles v.image).foldl (fun (s : State) t =>
    (carrySet v.image s.env t).foldl (fun (s : State) f =>
      let r := s.refillRead n f
      (pagesOf r.1.offset r.1.length).foldl (fun (s : State) p => s.refillPage t r.1 r.2 p senses) s)
      (s.setFld (TIL_SLAB_STAT_HALF.tile t) 0)) s
  s.modSvc n fun v => { v with refill := false }

/-- The refills of a boundary. -/
def State.refills (s : State) (senses : Senses) : State :=
  s.svcNums.foldl (fun (s : State) n =>
    let v := s.svc n
    s.whenB (v.refill && (v.phase = .running || v.phase = .waiting)) fun s => s.refillSvc senses n) s

/-! ### Steps 5 and 6 -/

/-- Step 5: the arithmetic clock, and the remap of a refresh (R21, R243). -/
def State.stepFive (s : State) : State :=
  let s := s.setPower { s.power with clock := s.clockFor s.env }
  s.whenB (s.nv.refresh.any (·.mapped)) State.refreshRemap

/-- One summary record (R544); counters of the event unit that it saturates are noted as events. -/
def State.summary (s : State) (tick : Nat) (e : Nat × Nat × Nat × Nat) : State :=
  let src := e.1 / 256
  let code := e.1 % 256
  let r := s.record1 src code (severityOf src code ||| 0x10) tick e.2.2.2 (leBytes 4 (min e.2.2.1 0xFFFFFFFF))
  r.2.foldl (fun (s : State) off => s.whenB (s.bit EVT_CTL_SAT_EN) fun s => s.event 0x0D 0x81 0 (leBytes 4 off)) r.1

/-- The summaries of an interval. -/
def State.summaries (s : State) (tick : Nat) (rate : Tab (Nat × Nat × Nat)) : State :=
  (rate.filter fun e => e.2.2.1 != 0).foldl (fun (s : State) e => s.summary tick e) s

/-- The entries that the next commit takes where no main pass runs (R129). -/
def nextHist (h : List RangeEntry) : List RangeEntry := h.map fun e => e.commit 0 0 false false (e.fill == 0)

/-- A service's history record is committed after a tick that completed (R43). -/
def Service.commitHist (v : Service) (tick : Nat) : Service :=
  if v.logged tick && v.completed then { v with hist := v.histNext } else v

/-! ### Step 7: the programs start -/

/-- A cluster's tick work is done: its core runs, or has until now to do so after an activation (R449, R455). -/
def State.cccUp (s : State) (cl : Nat) : Bool :=
  let c := coreCcc + cl
  s.fwUp c || (s.fwState c == fwRestarting && (s.core c).readyBy.isSome)

/-- A tile at cycle 0. -/
def Tile.start (x : Tile) (shadow : Bool) : Tile :=
  { x with bank0 := Bank.clear, bank1 := Bank.clear, lastBank := 1, pc := 0, cycle := 0, wait := none, xfers := [], slab := none,
           repairs := [], repairFree := 0, hands := [], handCount := [], ranged := [], run := none, barLast := [], raises := [],
           lineWaits := [], sems := [], shadow := shadow }

/-- A tile of a service starts its tick. -/
def State.startTile (s : State) (t : Nat) : State :=
  (s.modTile t fun x => x.start (!s.cccUp (t / 8))).setFlds
    [(TIL_STATE_STATE.tile t, tsRunning), (TIL_STATE_PHASE.tile t, 0), (TIL_SLAB_STAT_HALF.tile t, 0),
      (TIL_SLAB_STAT_FILLING.tile t, 0), (TIL_SLAB_STAT_RETRY_MAX.tile t, 0), (TIL_CYCLE_CYCLE.tile t, 0)]

/-- SUBST_MASK of a tick (R405). -/
def substMaskOf (ins : List Input) : Nat :=
  ofBits ((List.range (min 32 ins.length)).filter fun k => (ins[k]?).any Input.heldSubst)

/-- The log of a tick that starts; `flags` are those of a tick that does not run. -/
def State.newLog (s : State) (n flags : Nat) (ran : Bool) : TickLog :=
  let v := s.svc n
  let fl := flags + 2 ^ rfSubst * b2n (v.inputs.any Input.heldSubst)
  { flags := fl + 2 ^ rfPoolDiscard * b2n (ran && v.poolDiscard) + 2 ^ rfPoolTaint * b2n (ran && v.poolTaint),
    substMask := substMaskOf v.inputs, poisonGroups := 0, inputs := v.inputs.flatMap Input.entry,
    history := sha512_256 (histBytes v.hist), tick := s.tick, boundaryTs := s.fld TCK_BOUNDARY_TS_TIME_NS,
    modelEpoch := s.modelEpoch, epochDigest := s.svcDigest n, ran := ran }

/-- A service runs the tick from cycle 0. -/
def State.startTick (s : State) (n : Nat) : State :=
  let img := (s.svc n).image
  let l := s.newLog n 0 true
  let down := (imgClusters img).any fun c => !s.cccUp c
  let s := s.modSvc n fun v => { v with log := l, histNext := nextHist v.hist, poolDiscard := false, poolTaint := false }
  let s := s.whenB down fun s => s.tickFlag n rfClusterFault
  ((imgTiles img).foldl State.startTile s).poolTouch n

/-- A service does not run the tick; a pair's service on standby leaves no record of it. -/
def State.skipTick (s : State) (n : Nat) : State :=
  let v := s.svc n
  let pair := v.phase = .standby && ((s.partner n).isSome || (s.partnerOf n).isSome)
  let flags := 2 ^ rfSkipped + 2 ^ (if v.phase = .waiting then rfPoolWait else rfSuspended)
  let l := if pair then TickLog.empty else s.newLog n flags false
  (imgTiles v.image).foldl (fun (s : State) t => (s.setTileState t tsSuspended).setFld (TIL_STATE_PHASE.tile t) 0)
    (s.modSvc n fun v => { v with log := l })

/-- Step 7. -/
def State.stepSeven (s : State) : State :=
  let t := s.boundaryAt + 20000
  let s : State := { s with now := t, runStart := t, runCycle := 0, lastEnd := t, barriers := [], deferred := [] }
  s.svcNums.foldl (fun (s : State) n =>
    let v := s.svc n
    if v.phase = .running then s.startTick n
    else if v.phase.admitted then s.skipTick n
    else s) s

/-! ### The boundary -/

/-- Step 3 once the judgements are made: encoders, inputs, outputs, events, records and quotes. `before` is the tick that
ended: its number, its boundary time and its consort tick. -/
def State.stepThree (s : State) (dmaOk : Bool) (tick ts ctick : Nat) (p : Plan) : State :=
  let s := s.encodersOn.foldl State.encoderSkip s
  let pics := s.encodersOn.filterMap fun k => (s.encoderSource k).map fun x => (k, x)
  let ins := s.svcNums.filter fun n => (s.svc n).phase.admitted || p.starts.contains n
  let s := ins.foldl State.swapInputs s
  let old := s.svcNums.filter fun n => (s.svc n).logged tick
  let s := old.foldl (fun (s : State) n => s.flipOutputs ctick n) s
  let s := pics.foldl (fun (s : State) e =>
    s.encoderTake e.1 ts e.2 ((s.svc (s.fld (VID_ENC_CTL_SERVICE.bank e.1))).overlay e.1)) s
  let s := old.foldl State.sendEvents s
  let s := old.foldl (fun (s : State) n => s.record dmaOk tick n (p.stops.contains n)) s.dropHeld
  s.quotes dmaOk

/-- What follows the start of the programs. -/
def State.afterStart (s : State) (backing : HostWords) : State :=
  let s := (s.cnsTick.poolBoundary backing).pmcMove.quiesceDue
  let div := s.fld TCK_NOTIFY_DIV
  let s := s.whenB (div != 0 && s.tick % div = 0) fun s => s.signal (s.fld HIF_VEC_TICK_VEC)
  let s := s.startUp
  s.whenB s.power.sleepReq.isSome fun s => s.setPower { s.power with lastBoundary := true }

/-- The whole boundary window from a time on. -/
def State.boundaryFrom (s : State) (b : Nat) (grid : Option Int) (dmaOk : Bool) (backing : HostWords) (senses : Senses) : State :=
  let tick := s.tick
  let ts := s.fld TCK_BOUNDARY_TS_TIME_NS
  let ctick := s.ctick.toNat
  let first := !s.ticking
  let rate := s.log.rate
  let overrun := s.services.any fun (e : Nat × Service) => e.2.phase = .running && !(s.openTiles e.1).isEmpty
  let s := ((s.slack b overrun).stepOne b grid).alignChanges
  let s := { s with log := { s.log with rate := [] } }
  let s := s.svcNums.foldl State.endTick s
  let s := s.svcNums.foldl (fun (s : State) n => s.closeLog tick n) { s with now := b + 2000 }
  let s := s.judge tick (s.judged tick)
  let plan := (State.commitEarly (State.clampTake { s with now := b + 4000 })).plan
  let s := s.stepThree dmaOk tick (if first then s.fld TCK_BOUNDARY_TS_TIME_NS else ts) ctick plan
  let c := State.commitEarly (State.clampTake { s with now := b + 4000 })
  let s := (c.state.commitLate c plan).takeEnv
  let s := s.svcNums.foldl State.settleSvc s
  let s := ((s.settleDev plan.held).refills senses).upTo (b + 12000)
  let clock := s.power.clock
  let s := (s.stepFive.upTo (b + 18000)).settle.summaries tick rate
  let runs := (s.services.filter fun (e : Nat × Service) => e.2.phase = .running).flatMap fun e => imgTiles e.2.image
  let s := s.ballast b (s.power.clock != clock) s.env runs
  let s := { s with services := s.services.map fun (e : Nat × Service) => (e.1, e.2.commitHist tick) }
  (s.invalidateStopped plan.stops).stepSeven.afterStart backing

/-- TICK_BOUNDARY: the next boundary, at its time or, where that has passed, now. `dmaOk` false is a failed host-memory write
of its records and quotes; `backing` is what reads of the backing table return; `senses` gives the bits read wrongly of each
page of a carry refill. -/
def State.boundary (s : State) (dmaOk : Bool) (backing : HostWords) (senses : Senses) : State :=
  if !s.up || s.power.lastBoundary then s
  else
    match s.boundaryDue with
    | none => s
    | some (due, grid) => s.boundaryFrom (max s.now due) (if s.now ≤ due then grid else none) dmaOk backing senses

def execTickBoundary (dmaOk : Bool) (backing : HostWords) (senses : Senses) (s : State) : Host.Outcome State Fault Refusal :=
  act s fun s => s.boundary dmaOk backing senses

end Sys2Proof.Machine
end

