-- ==== Sys2Proof/Machine/Buses.lean ====
section
/-! DEFINITION. The other ways into the registers: SPP_SPI transactions (R469), the SMBus target (R578, R579) and the test
access port (R536, R580, R581). -/

namespace Sys2Proof.Machine

/-! ### SPP_SPI (R469) -/

/-- SPP_SPI answers: from READY on, through REST, PIZZICATO and a device reset, which comes after READY and keeps the partition
(R475, R495, R536, R576). -/
def State.spiUp (s : State) : Bool := s.up || s.asleep || s.fld ID_RESET_KIND != 0

/-- BAR0 offset behind an OFFSET of a transaction. -/
def spiOffset (o : Nat) : Option Nat :=
  if o % 4 != 0 then none
  else if o < 0x1000 then some (0xB00000 + o)
  else if 0x2000 ≤ o && o < 0x2040 then some (0x200000 + (o - 0x2000))
  else none

/-- The offset names a register. -/
def spiReg (o : Nat) : Option (Reg × Nat × Nat) :=
  (spiOffset o).bind fun off => (findReg off).map fun r => (r.1, r.2, off)

/-- The 32 bits in force at the offset of a register; nothing is latched. -/
def State.peek32 (s : State) (r : Reg) (start off : Nat) : Nat :=
  bitsOf (s.view r start) (8 * (off - start) + 31) (8 * (off - start))

/-- The answer of a transaction: bytes 9 to 15. -/
def spiAnswer (result data : Nat) : Bytes :=
  let b := leBytes 1 result ++ leBytes 4 data
  b ++ leBytes 2 (crc16 b)

def State.spiReply (s : State) (result data : Nat) : State := s.emit (.spi (spiAnswer result data))

/-- A transaction that does nothing, with its result. -/
def State.spiBad (s : State) (result : Nat) : State := (s.spiReply result 0).sppNote SPP_STATUS_SPI_ERR

/-- What a transaction does, by its OP. With the partition disabled, WRITE and COMMIT are refused; the result byte of that
refusal is not stated, so it is free (R475; log 12). -/
def State.spiOp (s : State) (op o v : Nat) : State :=
  match op, spiReg o with
  | 1, some (r, start, off) =>
    let s' := s.whenB (start = PWR_POWER.off) fun s => { s with freeCount := s.freeCount + 1 }
    s'.spiReply 0 (s.peek32 r start off)
  | 2, some (_, _, off) =>
    if s.sppOn then
      (s.setSpp { s.spp with shadow := s.spp.shadow ++ [(off, BitVec.ofNat 32 v)] }).spiReply 0 0
    else { s with freeCount := s.freeCount + 1 }.spiReply ((Config.freeWord s.freeCount).toNat % 256) 0
  | 3, _ =>
    if !s.sppOn then { s with freeCount := s.freeCount + 1 }.spiReply ((Config.freeWord s.freeCount).toNat % 256) 0
    else if s.spp.spiSet.isSome then s.spiReply 3 0
    else
      (s.setSpp { s.spp with
        shadow := [], spiSet := some { records := s.spp.shadow, since := s.now, start := false } }).spiReply 0 0
  | 4, _ => (s.setSpp { s.spp with shadow := [] }).spiReply 0 0
  | 5, _ => s.spiReply 0 (s.viewSpp SPP_COMMIT.off (s.regAt SPP_COMMIT.off) % 2 ^ 32)
  | _, _ => s.spiBad 2

/-- A transaction: bytes 0 to 8 as the controller sends them, and the clock edges of its chip select. Fewer or more than
128 edges is no transaction, and counts as an error (R469). -/
def State.spi (s : State) (mosi : Bytes) (edges : Nat) : State :=
  if !s.spiUp then s
  else if edges != 128 then s.sppNote SPP_STATUS_SPI_ERR
  else
    let b := sliceZ mosi 0 9
    if crc16 (b.take 7) != u16 b 7 then s.spiBad 1
    else if (u8 b 0 = 3 || u8 b 0 = 4 || u8 b 0 = 5) && (spiOffset (u16 b 1)).isNone then s.spiBad 2
    else s.spiOp (u8 b 0) (u16 b 1) (u32 b 3)

def execSppSpiRead (mosi : Bytes) (edges : Nat) (s : State) : Host.Outcome State Fault Refusal :=
  act s fun s => s.spi mosi edges
def execSppSpiWrite (mosi : Bytes) (edges : Nat) (s : State) : Host.Outcome State Fault Refusal :=
  act s fun s => s.spi mosi edges
def execSppSpiCommit (mosi : Bytes) (edges : Nat) (s : State) : Host.Outcome State Fault Refusal :=
  act s fun s => s.spi mosi edges
def execSppSpiAbort (mosi : Bytes) (edges : Nat) (s : State) : Host.Outcome State Fault Refusal :=
  act s fun s => s.spi mosi edges
def execSppSpiStatus (mosi : Bytes) (edges : Nat) (s : State) : Host.Outcome State Fault Refusal :=
  act s fun s => s.spi mosi edges

/-! ### SMBus (R578, R579) -/

/-- The device is powered: every state but OFF. -/
def State.smbusUp (s : State) : Bool := s.dev != stOff && s.boot.rails

/-- A device reset is in progress: from its step 4 up to release. -/
def State.inReset (s : State) : Bool := s.dev == stConfigLoad && s.fld ID_RESET_KIND != 0

/-- A register that SMBus reads in the present state. -/
def State.smbusReads (s : State) (off : Nat) : Bool :=
  let one := [PWR_STATE.off, PWR_TEMP.off, PWR_TEMP_NV.off, PWR_POWER.off, SPP_STATE.off]
  off < 0x1000 || one.contains off ||
    ((off = EVT_LOG_WR.off || off = EVT_LOG_RD.off || (EVT_LOG.off ≤ off && off < EVT_LOG.off + 0x8000)) &&
      !s.asleep && !s.inReset)

/-- The SMBus packet error code of a transfer's bytes (SMBus 3.0; PRESUMED, log 245). -/
def pecOf (b : Bytes) : Byte := BitVec.ofNat 8 (crc8 b)

/-- The target's address byte in a write and in a read. -/
def smbusToWrite : Byte := 0x74
def smbusToRead : Byte := 0x75

/-- A block write of a command carries its PEC byte, and it is right; a block goes least significant byte first (log 245). -/
def pecOk (command : Byte) (block : Bytes) (pec : Option Byte) : Bool :=
  pec == some (pecOf ([smbusToWrite, command, BitVec.ofNat 8 block.length] ++ block))

/-- What a block read returns: its count, its bytes, and the PEC of the whole transfer. -/
def smbusAnswer (command : Byte) (block : Bytes) : Bytes :=
  let b := BitVec.ofNat 8 block.length :: block
  b ++ [pecOf ([smbusToWrite, command, smbusToRead] ++ b)]

/-- ADDR: a write with a missing or wrong PEC is not acknowledged; an offset that is no multiple of 4 is acknowledged and ignored. -/
def execSmbusAddr (offset : Nat) (pec : Option Byte) (s : State) : Host.Outcome State Fault Refusal :=
  act s fun s =>
    if !s.smbusUp then s
    else if !pecOk 0x10 (leBytes 4 offset) pec then s.emit .smbusNack
    else s.whenB (offset % 4 = 0) fun s => s.setBoot { s.boot with smbusAddr := offset % 2 ^ 32 }

/-- READ: the register at ADDR, or a block count of 0; ADDR then advances. -/
def State.smbusGet (s : State) : State :=
  let off := s.boot.smbusAddr
  let s' := (s.noteLog off).whenB (off = PWR_POWER.off) fun s => { s with freeCount := s.freeCount + 1 }
  let t := s'.setBoot { s'.boot with smbusAddr := (off + 4) % 2 ^ 32 }
  let none_ := fun (s : State) => s.emit (.smbus (smbusAnswer 0x11 []))
  let closed := s.setBoot { s.boot with smbusAddr := (off + 4) % 2 ^ 32 }
  match findReg off with
  | none => none_ closed
  | some (r, start) =>
    if !s.smbusReads off then none_ closed
    else if s.logKind off = .uncorrectable then none_ t
    else t.emit (.smbus (smbusAnswer 0x11 (leBytes 4 (s.peek32 r start off))))

def execSmbusRead (s : State) : Host.Outcome State Fault Refusal :=
  act s fun s => s.whenB s.smbusUp State.smbusGet

/-- WRITE: ID_RESET_CTL only. -/
def execSmbusWrite (offset : Nat) (value : Word) (pec : Option Byte) (s : State) : Host.Outcome State Fault Refusal :=
  act s fun s =>
    if !s.smbusUp then s
    else if !pecOk 0x12 (leBytes 4 offset ++ leBytes 4 value.toNat) pec then s.emit .smbusNack
    else if offset = ID_RESET_CTL.off then s.resetCtl 2 value.toNat
    else s

/-- The target is reset: ADDR returns to its first value (log 26). -/
def execSmbusClockTimeout (s : State) : Host.Outcome State Fault Refusal :=
  act s fun s => s.whenB s.smbusUp fun s => s.setBoot { s.boot with smbusAddr := 0 }

/-! ### JTAG (R536, R580, R581) -/

def jtIdcode : Nat := 0
def jtBypass : Nat := 1
def jtSample : Nat := 2
def jtExtest : Nat := 3
def jtClamp : Nat := 4
def jtHighz : Nat := 5

/-- EXTEST, CLAMP and HIGHZ are closed: they act as BYPASS (R581). -/
def State.scanClosed (s : State) : Bool := s.boot.porst && s.sppOn

/-- The test access port takes an instruction. IDCODE puts the device's code between TDI and TDO. -/
def State.jtagTake (s : State) (i : Nat) : State :=
  let s := s.setBoot { s.boot with jtag := i }
  if i = jtIdcode then s.emit (.jtag 0x10864A4B) else s

/-- A boundary-scan instruction that drives pads. -/
def State.jtagDrive (s : State) (i : Nat) : State := s.jtagTake (if s.scanClosed then jtBypass else i)

def execBypass (s : State) : Host.Outcome State Fault Refusal := actAlways s fun s => s.jtagTake jtBypass
def execIdcode (s : State) : Host.Outcome State Fault Refusal := actAlways s fun s => s.jtagTake jtIdcode
def execSamplePreload (s : State) : Host.Outcome State Fault Refusal := actAlways s fun s => s.jtagTake jtSample
def execExtest (s : State) : Host.Outcome State Fault Refusal := actAlways s fun s => s.jtagDrive jtExtest
def execClamp (s : State) : Host.Outcome State Fault Refusal := actAlways s fun s => s.jtagDrive jtClamp
def execHighz (s : State) : Host.Outcome State Fault Refusal := actAlways s fun s => s.jtagDrive jtHighz

/-- JTAG_RESET: the test access port returns to IDCODE (IEEE 1149.1) and nothing else changes. -/
def execJtagReset (s : State) : Host.Outcome State Fault Refusal :=
  actAlways s fun s => s.setBoot { s.boot with jtag := jtIdcode }

end Sys2Proof.Machine
end

