-- ==== Sys2Proof/Machine/Sleep.lean ====
section
/-! DEFINITION. Rest, wake and pizzicato mode (R240, R241, R493 to R503, R550), and the two commands that a pizzicato cycle
shares with every tick: END of a tile program, and what the decoder answers. -/

namespace Sys2Proof.Machine

/-! ### Entry (R494) -/

/-- NV operations and host DMA have ended, and no ATTEST is outstanding (R523). -/
def State.quietForSleep (s : State) : Bool :=
  s.nv.ops.isEmpty && s.nv.batch.isNone && s.nv.hostRead.isNone && !s.mem.pool.any (·.moving) &&
    !(s.hif.accepted.any fun c => c.opcode == opAttest)

/-- The age of each plane that holds programmed pages, with its clock (R241). -/
def State.agesNow (s : State) : Tab (Nat × Nat) :=
  ((List.range 256).filter fun sp => s.nv.blocks.any fun (k, b) => keySp k = sp && b.born.isSome).map
    fun sp => (sp, (s.planeAge sp, Tab.lookD s.nv.clocks sp 0))

/-- E30 is in force: the envelope of every sentry tick, and of the first boundary after a wake. -/
def State.toE30 (s : State) : State :=
  if s.env = 0 then s else ((s.setFld PWR_STATE_ENV_ACT 0).flag PWR_STATUS_ENV_CHANGE).count PWR_ENV_COUNT_COUNT 1

/-- The sentry's program and snapshots stand ready, with the default history record (R500). -/
def State.sentryReady (s : State) : State :=
  let n := s.sentry
  let b := (s.svc n).image
  let s := (imgClusters b).foldl (fun s c => (packWords b c).foldl (fun s e => s.csWrite c e.1 ⟨e.2, false⟩) s) s
  let s := (imgTiles b).foldl (fun (s : State) t =>
    (s.tileWrites t (imgInitWord b t) (cleanWords (imgInit b t))).setFlds
      [(TIL_CFG_STAGE.tile t, imgStage b t), (TIL_STATE_SERVICE.tile t, n), (TIL_STATE_CLASS.tile t, imgClass b)]) s
  s.modSvc n fun v => { v with
    hist := defaultHist b, histNext := defaultHist b,
    inputs := ((imgSnaps b).filter fun e => kindIsInput (snapKind e)).map (newInput fun _ => 0),
    outputs := ((imgSnaps b).filter fun e => kindIsOutput (snapKind e)).map newOutput }

/-- Step 4: the pads are latched, the PLLs stop, and PMC begins to lower the rail. -/
def State.sleepStep4 (s : State) (pz : Bool) : State :=
  let s := (s.setNv { s.nv with sleepAge := s.agesNow }).ptpUnlock.toE30
  let s := (s.whenB pz State.sentryReady).setFld PWR_PAD_CTL_HOLD 1
  let s := s.setPower { s.power with clock := .osc, pllHold := [], pzActive := false }
  (s.setFlds [(PWR_CLK_PLL0_LOCK, 0), (PWR_CLK_PLL1_LOCK, 0), (PWR_CLK_OSC, 1)]).railTo 500

/-- Ports whose wake filter is off are powered down: they lose their link (R495; DESIGN CHOICE, log 243). -/
def State.portsDown (s : State) : State :=
  [0, 1].foldl (fun (s : State) p =>
    s.whenB (s.fld (if p = 0 then PWR_WAKE_CTL_ETH0 else PWR_WAKE_CTL_ETH1) = 0) fun s => s.ethDown p) s

/-- Entry, once NV operations and DMA have ended: step 4, and step 5 when the rail has been acknowledged at 500 mV. PMC does both. -/
def State.sleepEntry (s : State) : State :=
  match s.power.sleepReq with
  | none => s
  | some pz =>
    if !s.power.lastBoundary || !s.quietForSleep || !s.pmcFree then s
    else
      let s := if s.power.railGoal.isSome then s.pmcMove else s.sleepStep4 pz
      if !s.railAt 500 then s
      else
        let s := s.portsDown.setPower { s.power with
          sleepReq := none, lastBoundary := false, pzStart := s.now, pzCycle := 0, pzMisses := 0 }
        let s := s.setFlds [(PWR_SLEEP_CTL_BUSY, 0), (PWR_SLEEP_CTL_RESULT, 1), (PWR_STATE_STATE, if pz then slPizzicato else slRest)]
        ({ s.settle with ticking := false, tickEvent := none } : State).setDev (if pz then stPizzicato else stRest) |>.beginWake

def execSleepEntry (s : State) : Host.Outcome State Fault Refusal := act s State.sleepEntry

/-! ### Wake (R497) -/

/-- What the sentry left: its history record and its place in the stores (R500). -/
def State.sentryGone (s : State) : State :=
  let n := s.sentry
  let b := (s.svc n).image
  ((imgTiles b).foldl State.invalidate (s.clearSegments b)).modSvc n Service.loaded

/-- A record of the always-on queue enters the log (R550). -/
def State.fromQueue (s : State) (entry : Bytes) : State :=
  let r := s.logAppend entry
  r.2.foldl (fun (s : State) off => s.whenB (s.bit EVT_CTL_SAT_EN) fun s => s.event 0x0D 0x81 0 (leBytes 4 off)) r.1

/-- Steps 2 to 5 of a wake, while the reference clock runs: once the rail has been acknowledged at V_E30, the device is READY. -/
def State.wake (s : State) : State :=
  if !s.asleep || s.sleepState != slWaking || !s.power.refclk then s
  else if !(s.railTo (s.vE 0)).railAt (s.vE 0) then s.railTo (s.vE 0)
  else
    let pz := s.dev == stPizzicato
    let l := s.log.sleepQueue
    let s := s.whenB pz State.sentryGone
    let s := (s.setDev stReady).setFlds [(PWR_CLK_PLL0_LOCK, 1), (PWR_CLK_PLL1_LOCK, 1), (PWR_CLK_OSC, 0), (PWR_STATE_STATE, slActive)]
    let s := s.setPower { s.power with wakeCause := none, railGoal := none, pllHold := [], clock := .pll0Half, pzActive := false }
    let s : State := { s with tickFrom := s.now + 1000000, log := { s.log with sleepQueue := [] } }
    let s := ((l.foldl State.fromQueue s).flag PWR_STATUS_WAKE).queueAges
    s.setNv { s.nv with sleepAge := [] }

def execWake (s : State) : Host.Outcome State Fault Refusal := act s State.wake

/-! ### Pizzicato cycles (R501 to R503) -/

/-- The device is between wakes in pizzicato mode. -/
def State.inPizzicato (s : State) : Bool := s.dev == stPizzicato && s.sleepState == slPizzicato

/-- Wake instant of a cycle. -/
def State.cycleAt (s : State) (k : Nat) : Nat := s.power.pzStart + k * s.pzPeriodMs * 1000000

/-- A stream with nothing received. -/
def Stream.emptied (v : Stream) : Stream :=
  { v with ssrc := none, source := none, jitter := [], ends := [], doneTs := [], queue := [], resync := true, skipRasl := false }

/-- A cycle begins: cluster 0 and one stream's intake are powered, and the always-on controller raises the rail; the firmware cores
stay in retention, on the oscillator's side of PWR_CLK (R501). -/
def State.pzBegin (s : State) : State :=
  if !s.inPizzicato || s.power.pzActive || !s.power.refclk then s
  else
    let s := s.upTo (s.cycleAt s.power.pzCycle)
    let s := s.setPower { s.power with pzActive := true, pzCycle := s.power.pzCycle + 1 }
    (((s.setIntake { s.intake with rx := [] }).modStream s.pzStream Stream.emptied).railTo (s.vE 0)).cycleClock

def execPizzicatoCycle (s : State) : Host.Outcome State Fault Refusal := act s State.pzBegin

/-- The sentry's tick of the present cycle runs. -/
def State.sentryRuns (s : State) : Bool := (imgTiles (s.svc s.sentry).image).any fun t => s.tileState t = tsRunning

/-- The device returns to retention. -/
def State.pzRest (s : State) : State :=
  let s := s.pzStop.setFld PWR_CLK_PLL0_LOCK 0
  (s.setPower { s.power with pzActive := false, clock := .osc }).railTo 500

/-- A cycle without a sentry tick. -/
def State.pzMiss (s : State) : State :=
  let s := (s.flag PWR_STATUS_PZ_MISS).count PWR_PZ_MISS_COUNT_COUNT 1
  let s := s.setPower { s.power with pzMisses := s.power.pzMisses + 1 }
  let limit := s.fld PWR_PZ_CTL_MISS_LIMIT
  let s := s.pzRest
  s.whenB (limit != 0 && decide (limit ≤ s.power.pzMisses)) fun s => s.wakeBy 6

/-- The access unit is an IDR picture. -/
def AccessUnit.idr (hevc : Bool) (u : AccessUnit) : Bool :=
  (u.types hevc).any fun t => if hevc then t == 19 || t == 20 else t == 5

/-- No picture has come by IDR_WAIT_MS. An IDR access unit that is complete by then is the decoder's to judge. -/
def State.idrLate (s : State) : State :=
  if !s.inPizzicato || !s.power.pzActive || s.sentryRuns then s
  else if (s.cam s.pzStream).queue.any (AccessUnit.idr (s.hevc s.pzStream)) then s
  else (s.upTo (s.cycleAt (s.power.pzCycle - 1) + s.idrWaitMs * 1000000)).pzMiss

def execIdrWaitTimeout (s : State) : Host.Outcome State Fault Refusal := act s State.idrLate

/-- The picture of the cycle is shaped and held, and the sentry's tick starts 20 µs later. -/
def State.sentryStart (s : State) (x : Shown) (senses : Senses) : State :=
  let n := s.sentry
  let b := (s.svc n).image
  let s := s.modSvc n fun v => { v with
    inputs := v.inputs.map fun (i : Input) =>
      match imgSnap b i.snap with
      | some e => (i.shape e x s.stamp []).swap true
      | none => i,
    outputs := v.outputs.map Output.drop }
  let s := (s.refillSvc senses n).upTo (s.now + 20000)
  let s : State := { s with runStart := s.now, runCycle := 0, lastEnd := s.now, barriers := [], deferred := [] }
  let s := s.ballast (s.now - 20000) true 0 (imgTiles b)
  (s.startTick n).modSvc n fun v => { v with log := { v.log with boundaryTs := s.stamp } }

/-- The decoder's answer in a pizzicato cycle: for the first IDR access unit, once the rail has risen. -/
def State.pzDecoded (s : State) (k : Nat) (r : Decoded) (errors : List (Nat × Bool)) (senses : Senses) : State :=
  if !s.power.pzActive || s.sentryRuns || k != s.pzStream || s.power.clock = .osc then s
  else
    match (s.cam k).queue.filter (AccessUnit.idr (s.hevc k)) with
    | [] => s
    | u :: _ =>
      let errors := s.inVideo errors
      let s := (s.intakeErrors errors).modStream k fun v =>
        { v with queue := [], decoded := [], spsBad := u.spsBad (s.hevc k) v.spsBad }
      if errors.any (·.2) then (s.flag VID_STATUS_FRAME_LOST).pzMiss
      else if (s.cam k).spsBad then (s.flag VID_STATUS_UNSUPPORTED).pzMiss
      else
      match r with
      | .picture p =>
        if pictureOk (s.hevc k) p then
          let s := (s.pictureIn k u [] p).pictureOut k
          match (s.cam k).shown with
          | some x => s.sentryStart x senses
          | none => s
        else (s.flag VID_STATUS_UNSUPPORTED).pzMiss
      | .failed => s.pzMiss
      | .unsupported => (s.flag VID_STATUS_UNSUPPORTED).pzMiss
      | .memory => (s.flag VID_STATUS_MEM_SHORT).pzMiss

/-- DECODE_DONE: what the decoder answers for the access unit of a stream that waits first. -/
def execDecodeDone (stream : Nat) (result : DecodeResult) (s : State) : Host.Outcome State Fault Refusal :=
  act s fun s =>
    if s.asleep then s.whenB s.inPizzicato fun s => s.pzDecoded stream result.answer result.errors result.senses
    else s.decoded stream result.answer result.leaving result.errors

/-! ### The end of a program -/

/-- The sentry has ended on all its tiles: its score decides (R501, R502). -/
def State.sentryEnd (s : State) : State :=
  let n := s.sentry
  let s := s.modSvc n fun v => { v with outputs := v.outputs.map fun (o : Output) => o.flip 0 false, hist := v.histNext }
  let v := s.svc n
  let w := (v.payload.map fun o => (o.egress.read 0).2).getD MWord.zero
  let s := v.payload.elim s fun o => s.noteEgress n o [0]
  let score := if w.poison then 0x80000000 else w.data.toNat % 2 ^ 32
  let s := (s.setFld PWR_PZ_SCORE_SCORE score).count PWR_PZ_CYCLE_COUNT_COUNT 1
  let s := s.setPower { s.power with pzMisses := 0 }
  if w.poison || decide (sext 32 (s.fld PWR_PZ_THRESH_THRESH) ≤ sext 32 score) then
    let s := (v.outputs.filter fun (o : Output) => o.kind = kindEvents).foldl (fun (s : State) o => s.eventsOut n o v.log false) s
    (s.pzStop.flag PWR_STATUS_PZ_WAKE).wakeBy 5
  else s.pzRest

/-- END: the tile becomes DONE. With the last tile's end the slack window starts, and ballast falls (R18, R489). -/
def State.endTile (s : State) (i : Issued) : State :=
  let t := i.tile
  let s := (s.setTileState t tsDone).setFld (TIL_STATE_PHASE.tile t) 0
  let s : State := { s with lastEnd := max s.lastEnd (s.cycleTime i.cycle) }
  let s := s.whenB ((List.range 64).all fun o => s.tileState o != tsRunning) fun s => s.draw s.lastEnd []
  if s.dev == stPizzicato then s.whenB (s.power.pzActive && !s.sentryRuns) State.sentryEnd else s.quiesceDue

def execEndProg (tile : Nat) (s : State) : Host.Outcome State Fault Refusal :=
  act s fun s => s.issue tile opEnd State.endTile

end Sys2Proof.Machine
end

