-- ==== Sys2Proof/Machine/Dispatch.lean ====
section
/-! DEFINITION. One arm for each command. -/

namespace Sys2Proof.Machine

def exec (i : Instr) (s : State) : Host.Outcome State Fault Refusal :=
  match i with
  | .loadProgram data => Sys2Proof.Machine.execLoadProgram data s
  | .bindModel => Sys2Proof.Machine.execBindModel s
  | .startService hist => Sys2Proof.Machine.execStartService hist s
  | .stopService => Sys2Proof.Machine.execStopService s
  | .submitInput => Sys2Proof.Machine.execSubmitInput s
  | .inputDmaDone data => Sys2Proof.Machine.execInputDmaDone data s
  | .nvProgram head => Sys2Proof.Machine.execNvProgram head s
  | .nvErase => Sys2Proof.Machine.execNvErase s
  | .modelSwap => Sys2Proof.Machine.execModelSwap s
  | .scrub senses dmaOk => Sys2Proof.Machine.execScrub senses dmaOk s
  | .fill => Sys2Proof.Machine.execFill s
  | .fwStage data => Sys2Proof.Machine.execFwStage data s
  | .fwActivate => Sys2Proof.Machine.execFwActivate s
  | .attest => Sys2Proof.Machine.execAttest s
  | .configEpoch list => Sys2Proof.Machine.execConfigEpoch list s
  | .query dmaOk => Sys2Proof.Machine.execQuery dmaOk s
  | .cancel => Sys2Proof.Machine.execCancel s
  | .dblCmdTail page value => Sys2Proof.Machine.execDblCmdTail page value s
  | .dblCplHead page value => Sys2Proof.Machine.execDblCplHead page value s
  | .dblResHead page value => Sys2Proof.Machine.execDblResHead page value s
  | .commandAccept entry => Sys2Proof.Machine.execCommandAccept entry s
  | .commandComplete dmaOk => Sys2Proof.Machine.execCommandComplete dmaOk s
  | .coalesceTimeout result ring => Sys2Proof.Machine.execCoalesceTimeout result ring s
  | .tilMemRead tile => Sys2Proof.Machine.execTilMemRead tile s
  | .tilMemWrite tile => Sys2Proof.Machine.execTilMemWrite tile s
  | .tilMemAccessDone tile => Sys2Proof.Machine.execTilMemAccessDone tile s
  | .tilInval tile => Sys2Proof.Machine.execTilInval tile s
  | .bulkInvalidateDone tile => Sys2Proof.Machine.execBulkInvalidateDone tile s
  | .slackRst value => Sys2Proof.Machine.execSlackRst value s
  | .tckPeriodWrite value => Sys2Proof.Machine.execTckPeriodWrite value s
  | .tckSrcWrite value => Sys2Proof.Machine.execTckSrcWrite value s
  | .tckPhaseWrite value => Sys2Proof.Machine.execTckPhaseWrite value s
  | .tckTickinWrite value => Sys2Proof.Machine.execTckTickinWrite value s
  | .nvsPageRead => Sys2Proof.Machine.execNvsPageRead s
  | .nvsPageReadDone rounds => Sys2Proof.Machine.execNvsPageReadDone rounds s
  | .cmpTabLoad slot => Sys2Proof.Machine.execCmpTabLoad slot s
  | .cmpTabClear slot => Sys2Proof.Machine.execCmpTabClear slot s
  | .cmpTabApply => Sys2Proof.Machine.execCmpTabApply s
  | .cmpRegionWrite size value => Sys2Proof.Machine.execCmpRegionWrite size value s
  | .memPoolSettingWrite size value => Sys2Proof.Machine.execMemPoolSettingWrite size value s
  | .memPoolEnWrite value => Sys2Proof.Machine.execMemPoolEnWrite value s
  | .hifRingEnable value => Sys2Proof.Machine.execHifRingEnable value s
  | .hifRingDisable value => Sys2Proof.Machine.execHifRingDisable value s
  | .ringDisableDone ring => Sys2Proof.Machine.execRingDisableDone ring s
  | .hifBar4BaseWrite value => Sys2Proof.Machine.execHifBar4BaseWrite value s
  | .hifEmuEnWrite value => Sys2Proof.Machine.execHifEmuEnWrite value s
  | .secBootGo => Sys2Proof.Machine.execSecBootGo s
  | .hostedLoadDone bundle => Sys2Proof.Machine.execHostedLoadDone bundle s
  | .sppScmdGo => Sys2Proof.Machine.execSppScmdGo s
  | .signedCommandChecked => Sys2Proof.Machine.execSignedCommandChecked s
  | .sppSpiRead mosi edges => Sys2Proof.Machine.execSppSpiRead mosi edges s
  | .sppSpiWrite mosi edges => Sys2Proof.Machine.execSppSpiWrite mosi edges s
  | .sppSpiCommit mosi edges => Sys2Proof.Machine.execSppSpiCommit mosi edges s
  | .sppSpiAbort mosi edges => Sys2Proof.Machine.execSppSpiAbort mosi edges s
  | .sppSpiStatus mosi edges => Sys2Proof.Machine.execSppSpiStatus mosi edges s
  | .cnsLeave value => Sys2Proof.Machine.execCnsLeave value s
  | .cnsEnWrite value => Sys2Proof.Machine.execCnsEnWrite value s
  | .form value => Sys2Proof.Machine.execForm value s
  | .dissolve value => Sys2Proof.Machine.execDissolve value s
  | .cnsPlanWrite index value => Sys2Proof.Machine.execCnsPlanWrite index value s
  | .envReqWrite value => Sys2Proof.Machine.execEnvReqWrite value s
  | .sleepReqRest => Sys2Proof.Machine.execSleepReqRest s
  | .sleepReqPizzicato => Sys2Proof.Machine.execSleepReqPizzicato s
  | .pwrWakeGo => Sys2Proof.Machine.execPwrWakeGo s
  | .padRelease => Sys2Proof.Machine.execPadRelease s
  | .provision => Sys2Proof.Machine.execProvision s
  | .svnCommit => Sys2Proof.Machine.execSvnCommit s
  | .deviceResetRequest value => Sys2Proof.Machine.execDeviceResetRequest value s
  | .evtLogRdWrite value => Sys2Proof.Machine.execEvtLogRdWrite value s
  | .vidStreamCtlWrite value => Sys2Proof.Machine.execVidStreamCtlWrite value s
  | .vidEncCtlWrite value => Sys2Proof.Machine.execVidEncCtlWrite value s
  | .vidMemWrite size value => Sys2Proof.Machine.execVidMemWrite size value s
  | .intPortCtlWrite port value => Sys2Proof.Machine.execIntPortCtlWrite port value s
  | .counterSatClear clear => Sys2Proof.Machine.execCounterSatClear clear s
  | .registerWrite offset wide value => Sys2Proof.Machine.execRegisterWrite offset wide value s
  | .reg64LowHalfRead read => Sys2Proof.Machine.execReg64LowHalfRead read s
  | .reg64LowHalfWrite offset value => Sys2Proof.Machine.execReg64LowHalfWrite offset value s
  | .partialByteWrite offset => Sys2Proof.Machine.execPartialByteWrite offset s
  | .unmappedAccess offset write => Sys2Proof.Machine.execUnmappedAccess offset write s
  | .bar4Read offset length => Sys2Proof.Machine.execBar4Read offset length s
  | .bar4Write offset data => Sys2Proof.Machine.execBar4Write offset data s
  | .bar2Read offset => Sys2Proof.Machine.execBar2Read offset s
  | .bar2Write offset value => Sys2Proof.Machine.execBar2Write offset value s
  | .smbusAddr offset pec => Sys2Proof.Machine.execSmbusAddr offset pec s
  | .smbusRead => Sys2Proof.Machine.execSmbusRead s
  | .smbusWrite offset value pec => Sys2Proof.Machine.execSmbusWrite offset value pec s
  | .smbusClockTimeout => Sys2Proof.Machine.execSmbusClockTimeout s
  | .bypass => Sys2Proof.Machine.execBypass s
  | .idcode => Sys2Proof.Machine.execIdcode s
  | .samplePreload => Sys2Proof.Machine.execSamplePreload s
  | .extest => Sys2Proof.Machine.execExtest s
  | .clamp => Sys2Proof.Machine.execClamp s
  | .highz => Sys2Proof.Machine.execHighz s
  | .jtagReset => Sys2Proof.Machine.execJtagReset s
  | .tickBoundary dmaOk backing senses => Sys2Proof.Machine.execTickBoundary dmaOk backing senses s
  | .sleepEntry => Sys2Proof.Machine.execSleepEntry s
  | .tickInEdge falling => Sys2Proof.Machine.execTickInEdge falling s
  | .tickInTimeout => Sys2Proof.Machine.execTickInTimeout s
  | .boundaryGap => Sys2Proof.Machine.execBoundaryGap s
  | .nop tile => Sys2Proof.Machine.execNop tile s
  | .lka tile => Sys2Proof.Machine.execLka tile s
  | .vec tile => Sys2Proof.Machine.execVec tile s
  | .ftab tile => Sys2Proof.Machine.execFtab tile s
  | .xfer tile faults => Sys2Proof.Machine.execXfer tile faults s
  | .gather op => Sys2Proof.Machine.execGather op s
  | .slabFill tile => Sys2Proof.Machine.execSlabFill tile s
  | .hand tile flips => Sys2Proof.Machine.execHand tile flips s
  | .stage tile => Sys2Proof.Machine.execStage tile s
  | .bar tile => Sys2Proof.Machine.execBar tile s
  | .barrierComplete network => Sys2Proof.Machine.execBarrierComplete network s
  | .sem tile => Sys2Proof.Machine.execSem tile s
  | .semaphoreWaitEnd tile => Sys2Proof.Machine.execSemaphoreWaitEnd tile s
  | .evt tile => Sys2Proof.Machine.execEvt tile s
  | .eventLineWaitEnd tile => Sys2Proof.Machine.execEventLineWaitEnd tile s
  | .rangeCmd tile => Sys2Proof.Machine.execRangeCmd tile s
  | .endProg tile => Sys2Proof.Machine.execEndProg tile s
  | .transferDone tile => Sys2Proof.Machine.execTransferDone tile s
  | .slabPageDelivery tile flips => Sys2Proof.Machine.execSlabPageDelivery tile flips s
  | .repairRound tile flips => Sys2Proof.Machine.execRepairRound tile flips s
  | .ptpMessage => Sys2Proof.Machine.execPtpMessage s
  | .ptpSyncTimeout => Sys2Proof.Machine.execPtpSyncTimeout s
  | .ppsInEdge => Sys2Proof.Machine.execPpsInEdge s
  | .ppsOutSecond => Sys2Proof.Machine.execPpsOutSecond s
  | .pllLockLoss pll => Sys2Proof.Machine.execPllLockLoss pll s
  | .pllRelock pll => Sys2Proof.Machine.execPllRelock pll s
  | .refclkMissing => Sys2Proof.Machine.execRefclkMissing s
  | .refclkReturn => Sys2Proof.Machine.execRefclkReturn s
  | .ethFrameRx port frame => Sys2Proof.Machine.execEthFrameRx port frame s
  | .arpRequest => Sys2Proof.Machine.execArpRequest s
  | .icmpEcho => Sys2Proof.Machine.execIcmpEcho s
  | .igmpQuery => Sys2Proof.Machine.execIgmpQuery s
  | .arpRefresh => Sys2Proof.Machine.execArpRefresh s
  | .arpExpiry => Sys2Proof.Machine.execArpExpiry s
  | .rtpPacket => Sys2Proof.Machine.execRtpPacket s
  | .ssrcRelease stream => Sys2Proof.Machine.execSsrcRelease stream s
  | .jitterTimeout stream => Sys2Proof.Machine.execJitterTimeout stream s
  | .decodeDone stream result => Sys2Proof.Machine.execDecodeDone stream result s
  | .shapeDone service snap marks => Sys2Proof.Machine.execShapeDone service snap marks s
  | .datagramTx port => Sys2Proof.Machine.execDatagramTx port s
  | .ethLinkDown port => Sys2Proof.Machine.execEthLinkDown port s
  | .ethLinkUp port => Sys2Proof.Machine.execEthLinkUp port s
  | .tokenSend => Sys2Proof.Machine.execTokenSend s
  | .verdict => Sys2Proof.Machine.execVerdict s
  | .token => Sys2Proof.Machine.execToken s
  | .join => Sys2Proof.Machine.execJoin s
  | .propose => Sys2Proof.Machine.execPropose s
  | .accept => Sys2Proof.Machine.execAccept s
  | .abortFrame => Sys2Proof.Machine.execAbortFrame s
  | .proposeTimeout => Sys2Proof.Machine.execProposeTimeout s
  | .arm => Sys2Proof.Machine.execArm s
  | .applyFrame => Sys2Proof.Machine.execApplyFrame s
  | .consortCancel => Sys2Proof.Machine.execConsortCancel s
  | .agreementTimeout kind => Sys2Proof.Machine.execAgreementTimeout kind s
  | .tensor => Sys2Proof.Machine.execTensor s
  | .tensorTx => Sys2Proof.Machine.execTensorTx s
  | .chainCmd => Sys2Proof.Machine.execChainCmd s
  | .chainData => Sys2Proof.Machine.execChainData s
  | .chainCredit => Sys2Proof.Machine.execChainCredit s
  | .chainStatus => Sys2Proof.Machine.execChainStatus s
  | .chainCreditTimer session => Sys2Proof.Machine.execChainCreditTimer session s
  | .chainResend session => Sys2Proof.Machine.execChainResend session s
  | .chainTimeout session => Sys2Proof.Machine.execChainTimeout session s
  | .knownExpiry member => Sys2Proof.Machine.execKnownExpiry member s
  | .watchdogExpiry core => Sys2Proof.Machine.execWatchdogExpiry core s
  | .coreFault core fault => Sys2Proof.Machine.execCoreFault core fault s
  | .coreRestarted core => Sys2Proof.Machine.execCoreRestarted core s
  | .activationReadyTimeout core => Sys2Proof.Machine.execActivationReadyTimeout core s
  | .emergencyClearExpiry => Sys2Proof.Machine.execEmergencyClearExpiry s
  | .sensorReading die weight => Sys2Proof.Machine.execSensorReading die weight s
  | .clampRelease => Sys2Proof.Machine.execClampRelease s
  | .avsStatusPoll ack vdone => Sys2Proof.Machine.execAvsStatusPoll ack vdone s
  | .avsWriteTimeout => Sys2Proof.Machine.execAvsWriteTimeout s
  | .regulatorFaultPoll ack millivolts => Sys2Proof.Machine.execRegulatorFaultPoll ack millivolts s
  | .pwrFailAssert => Sys2Proof.Machine.execPwrFailAssert s
  | .pwrFailDeassert strictFails => Sys2Proof.Machine.execPwrFailDeassert strictFails s
  | .ethWakeFrame port frame => Sys2Proof.Machine.execEthWakeFrame port frame s
  | .tickInWake falling => Sys2Proof.Machine.execTickInWake falling s
  | .d3hotEntry => Sys2Proof.Machine.execD3hotEntry s
  | .d0Return => Sys2Proof.Machine.execD0Return s
  | .wake => Sys2Proof.Machine.execWake s
  | .pizzicatoCycle => Sys2Proof.Machine.execPizzicatoCycle s
  | .idrWaitTimeout => Sys2Proof.Machine.execIdrWaitTimeout s
  | .retentionClockTick => Sys2Proof.Machine.execRetentionClockTick s
  | .tableVersionWrite => Sys2Proof.Machine.execTableVersionWrite s
  | .eraseBatchStart => Sys2Proof.Machine.execEraseBatchStart s
  | .eraseDone fails => Sys2Proof.Machine.execEraseDone fails s
  | .pageProgramStart senses source => Sys2Proof.Machine.execPageProgramStart senses source s
  | .pageProgramDone flips => Sys2Proof.Machine.execPageProgramDone flips s
  | .refreshStart senses => Sys2Proof.Machine.execRefreshStart senses s
  | .lineRepair => Sys2Proof.Machine.execLineRepair s
  | .poolWriteBackDone => Sys2Proof.Machine.execPoolWriteBackDone s
  | .poolRestoreDone data => Sys2Proof.Machine.execPoolRestoreDone data s
  | .poolDmaFailure => Sys2Proof.Machine.execPoolDmaFailure s
  | .lpddrTrainingDone failed => Sys2Proof.Machine.execLpddrTrainingDone failed s
  | .railsValid => Sys2Proof.Machine.execRailsValid s
  | .fuseLoadDone => Sys2Proof.Machine.execFuseLoadDone s
  | .porstNDeassert straps => Sys2Proof.Machine.execPorstNDeassert straps s
  | .porstNAssert => Sys2Proof.Machine.execPorstNAssert s
  | .railMonitorTrip rail => Sys2Proof.Machine.execRailMonitorTrip rail s
  | .configLoadDone primary secondary => Sys2Proof.Machine.execConfigLoadDone primary secondary s
  | .standaloneBootDone bundle => Sys2Proof.Machine.execStandaloneBootDone bundle s
  | .nvScan strictFails badTables reads => Sys2Proof.Machine.execNvScan strictFails badTables reads s
  | .nvScanDone => Sys2Proof.Machine.execNvScanDone s
  | .ready => Sys2Proof.Machine.execReady s
  | .pciePerstAssert => Sys2Proof.Machine.execPciePerstAssert s
  | .pciePerstDeassert => Sys2Proof.Machine.execPciePerstDeassert s
  | .functionLevelReset => Sys2Proof.Machine.execFunctionLevelReset s
  | .hotReset => Sys2Proof.Machine.execHotReset s
  | .linkDownReset => Sys2Proof.Machine.execLinkDownReset s
  | .pcieLinkRecovery => Sys2Proof.Machine.execPcieLinkRecovery s
  | .pcieLinkTrained width gen => Sys2Proof.Machine.execPcieLinkTrained width gen s
  | .pictureEncoded encoder coded => Sys2Proof.Machine.execPictureEncoded encoder coded s
  | .igmpCompatTimeout port => Sys2Proof.Machine.execIgmpCompatTimeout port s
  | .igmpReportTimer port => Sys2Proof.Machine.execIgmpReportTimer port s
  | .ptpDelayReqTimer => Sys2Proof.Machine.execPtpDelayReqTimer s
  | .announceReceiptTimeout port => Sys2Proof.Machine.execAnnounceReceiptTimeout port s
  | .zeroInitFillDone service => Sys2Proof.Machine.execZeroInitFillDone service s
  | .programCopyDone service => Sys2Proof.Machine.execProgramCopyDone service s
  | .secOperationDone fuseOk => Sys2Proof.Machine.execSecOperationDone fuseOk s

end Sys2Proof.Machine
end

