-- ==== Sys2Proof/Safety.lean ====
section
/-! DEFINITION. What counts as a safe run, and the terms in which the statements say what a command leaves as it was. -/

namespace Sys2Proof

/-- The next k steps all answer a next state. -/
def Safe (k : Nat) (s : Machine.State) : Bool :=
  match Host.Core.run core k s with
  | .next _ => true
  | .fault _ => false
  | .refused _ => false

namespace Machine

/-- Registers that the event unit writes when an occurrence enters it (R544 to R547). -/
def eventKeys : List Nat :=
  [EVT_SEQ.off, EVT_LOG_WR.off, EVT_LOG_RD.off, EVT_STATUS.off, EVT_SUPPRESS_COUNT.off, EVT_LOST_COUNT.off,
    EVT_TOTAL_COUNT.off]

/-- Every register but those listed, and those of the event unit, keeps its stored value. -/
def KeepsRegs (keys : List Nat) (s t : State) : Prop :=
  ∀ k, k ∉ keys → k ∉ eventKeys → Tab.look t.regs k = Tab.look s.regs k

/-- A state with another's register file, and with its time and all that raising events and messages changes: the event
unit's own state, what has left the device, and messages held pending. -/
def restOf (s t : State) : State :=
  { t with regs := s.regs, now := s.now, log := s.log, out := s.out,
           hif := { t.hif with msixPending := s.hif.msixPending } }

/-- All the rest is as it was. -/
def KeepsRest (s t : State) : Prop := restOf s t = s

/-- The command runs and the next state is s', apart from the time and from what the events of the command change. -/
def Gives (c : Instr) (s s' : State) : Prop := ∃ t, exec c s = .next t ∧ KeepsRest s' t ∧ KeepsRegs [] s' t

/-- What left the device in a step: the list first, and the messages of its events after it. -/
def Sent (s t : State) (l : List Out) : Prop := ∃ r, t.out = s.out ++ l ++ r

/-- The same, with what the command sends. -/
def Sending (c : Instr) (s s' : State) (l : List Out) : Prop :=
  ∃ t, exec c s = .next t ∧ Sent s t l ∧ KeepsRest s' t ∧ KeepsRegs [] s' t

/-- What the device has sent in a step holds a message, among others. -/
def Sends (s t : State) (o : Out) : Prop := ∃ a b, t.out = s.out ++ a ++ o :: b

/-- A host write to a BAR0 offset reaches a register that takes writes (R383, R488, R495, R534, R537). -/
abbrev Reaches (s : State) (off : Nat) : Prop :=
  s.power.tripped = false ∧ s.delivered = true ∧ s.shows off = true ∧ s.takes off = true

/-- The work of a command begins: it is the earliest of its opcode that waits, and u is the state that its work starts
from, with the command at work (R396). -/
abbrev Begins (s : State) (op : Nat) (c : HostCmd) (u : State) : Prop :=
  s.power.tripped = false ∧ s.nextCmd op = some c ∧ u = { s.begin c.id with out := [] }

/-- An accepted command has ended with a completion's STATUS, DETAIL and INFO (R403). -/
def Ended (t : State) (id status detail info : Nat) : Prop :=
  ∃ d ∈ t.hif.accepted, d.id = id ∧ d.result = some (status, detail, info)

/-- No accepted command of a number waits for its end any more. -/
def Over (t : State) (id : Nat) : Prop := ∀ d ∈ t.hif.accepted, d.id = id → d.result ≠ none

/-- A running tile issues its next command, of an opcode (R134, R138): i is the command, and u the state at its issue, with
what reading the copies has found in the cluster store, the words that move before it moved (R186), and TIL_CYCLE. -/
abbrev Issues (s : State) (t op : Nat) (i : Issued) (u : State) : Prop :=
  let c := ({ s with out := [] } : State).fetch t tyCommands (s.tileOf t).pc
  let d := if [opLka, opXfer, opGather, opSlabFill, opHand].contains op then c.1.fetch t tyDescriptors (cmdDescOf c.2)
    else (c.1, [])
  s.power.tripped = false ∧ s.tileState t = tsRunning ∧ (s.tileOf t).wait = none ∧ (s.tileOf t).run = none ∧
    cmdOp c.2 = op ∧ c.2.length = 32 ∧ s.slabDue t (s.issueCycle t c.2) = false ∧
    i = { tile := t, index := (s.tileOf t).pc, cmd := c.2, desc := d.2, cycle := s.issueCycle t c.2,
          shadow := (s.tileOf t).shadow } ∧
    u = ((d.1.upTo (d.1.cycleTime i.cycle)).moveBefore i.cycle).setFld (TIL_CYCLE_CYCLE.tile t) i.cycle

/-- The sequencer of a tile has gone on past a command: the next one is due from a cycle on, and every other tile is as it
was. -/
def GoesOn (u t' : State) (t index cycle : Nat) : Prop :=
  (t'.tileOf t).pc = index + 1 ∧ (t'.tileOf t).cycle = cycle ∧ (t'.tileOf t).wait = none ∧ (t'.tileOf t).run = none ∧
    ∀ o, o ≠ t → t'.tileOf o = u.tileOf o

/-- The registers of the firmware cores (R459). -/
def coreKeys : List Nat := (List.range 11).map fun k => (fwFld SEC_FW_CORE_STATE k).off

/-- Two readings of a stored word hold the same data and check bits: a read that finds a word uncorrectable notes the find
beside it, so that the word counts once (R542). -/
def SameBits (a b : Option CWord) : Prop := (a.map fun c => (c.data, c.chk)) = b.map fun c => (c.data, c.chk)

/-- The registers that a failed host DMA writes (R381, R382). -/
def dmaErrKeys : List Nat := [HIF_STATUS.off, HIF_DMA_ERR_COUNT.off, CFG_AER_UE_STATUS.off, CFG_AER_CTL.off]

/-- The firmware of a bundle runs on every core, from code bank 0 and with an empty bank 1, and the words of bank 0 hold the
image with good check bits (R438, R443, R444). -/
def Loaded (t : State) (b : Bytes) : Prop :=
  t.boot.coresUp = true ∧ ∀ k, k < 11 →
    t.fwState k = fwRunning ∧ t.activeBank k = FwBank.ofImage (bundleImage b (fwKind k)) ∧ t.fwOther k = bankEmpty ∧
      t.otherBank k = FwBank.empty

/-- The staged activations and rollbacks name cores that exist. -/
def CoresExist (s : State) : Prop := ∀ c ∈ s.staged, ∀ k, c.kind = .activate k ∨ c.kind = .rollback k → k < 11

end Machine

end Sys2Proof
end

