-- ==== Sys2Proof/Certificates/Slice0/Obligations.lean ====
section
/-! DEFINITION. What is claimed of the machine, rule by rule. -/

open Sys2Proof Sys2Proof.Machine

/-! ### The block as a whole -/

/-- A step takes the command at the front of the queue and runs it on the state with the rest of the queue; with no command waiting
only time passes; no word spells a command, since the table gives its rows no bits (the model's own shape and its log 3; no
numbered rule). -/
def Obligations.StepRunsTheFrontCommand : Prop :=
  (∀ (c : Instr) (rest : List Instr) (s : State), s.pending = c :: rest → step s = exec c { s with pending := rest }) ∧
  (∀ s : State, s.pending = [] → step s = .next { s with now := s.now + 1000 }) ∧
  (∀ (n w : Nat) (s : State), decodeTableWord n w = none ∧ s.withFetchWord n w = s)

/-- Every command answers a next state: it leaves the queue alone, takes back nothing that has left the device, and does not
turn time back. The model's choices in it: log 4, 5. -/
def Obligations.EveryCommandAnswers : Prop :=
  ∀ (c : Instr) (s : State), ∃ t, exec c s = .next t ∧ t.pending = s.pending ∧ s.now ≤ t.now ∧ ∃ l, t.out = s.out ++ l

/-- No occurrence waits outside the event unit: those of a command have entered it, or were suppressed, by its end. -/
def NoneWaiting (s : State) : Prop := s.log.group = []

/-- The machine right after reset is in that state (the model's own shape, log 46). -/
def Obligations.EventsAreSettledAtReset : Prop := NoneWaiting State.reset

/-- Every step keeps that, from every state that has it: no occurrence of a step is lost or left over (log 46; R543, R545). -/
def Obligations.EventsStaySettled : Prop :=
  ∀ s t : State, NoneWaiting s → step s = .next t → NoneWaiting t

/-- The events that act after a thermal trip: those of the rails and of PORST_N, which lead to a power-on reset, and those of
the test access port. -/
def actsAfterTrip : Instr → Bool
  | .railsValid | .railMonitorTrip _ | .porstNAssert | .jtagReset | .bypass | .idcode | .samplePreload | .extest | .clamp
  | .highz => true
  | _ => false

/-- After a thermal trip every clock is stopped: any other command leaves everything as it was, and only a power-on reset leaves
that state (R488). -/
def Obligations.AThermalTripLastsToAPowerOnReset : Prop :=
  (∀ (c : Instr) (s : State), s.power.tripped = true → actsAfterTrip c = false → exec c s = .next s) ∧
  (∀ (c : Instr) (s t : State), s.power.tripped = true → exec c s = .next t → t.power.tripped = false →
    c = .porstNAssert ∨ ∃ r, c = .railMonitorTrip r)

/-! ### Rings and doorbells (R386 to R393, R407) -/

/-- A doorbell write that its ring accepts moves the ring's index and nothing else (R391).
A doorbell write that fails its check halts the ring, leaves its indices as they were, and sets HIF_STATUS.RING_ERR
(R391, R392). -/
def Obligations.DoorbellsMoveTheirIndexOrHaltTheRing : Prop :=
  (∀ (s : State) (n : Nat) (v : Word), n < 64 →
    (Reaches s (0x1000 + n * 0x1000) → s.ringOn cmdType n = true → s.ringBusy cmdType n = false →
      idxSub (v.toNat % 65536) (s.ring cmdType n).tail ≤
        s.ringSize cmdType n - 1 - idxSub (s.ring cmdType n).tail (s.ring cmdType n).head →
      Gives (.dblCmdTail n v) s (s.setRing cmdType n { s.ring cmdType n with tail := v.toNat % 65536 })) ∧
    (Reaches s (0x1004 + n * 0x1000) → s.ringOn cplType n = true → s.ringBusy cplType n = false →
      idxSub (v.toNat % 65536) (s.ring cplType n).head ≤ idxSub (s.ring cplType n).tail (s.ring cplType n).head →
      Gives (.dblCplHead n v) s (s.setRing cplType n { s.ring cplType n with head := v.toNat % 65536 })) ∧
    (n < 16 → Reaches s (0x1008 + n * 0x1000) → s.ringOn resType n = true → s.ringBusy resType n = false →
      idxSub (v.toNat % 65536) (s.ring resType n).head ≤ idxSub (s.ring resType n).tail (s.ring resType n).head →
      Gives (.dblResHead n v) s (s.setRing resType n { s.ring resType n with head := v.toNat % 65536 }))) ∧
  (∀ (s : State) (n : Nat) (v : Word), n < 64 → Reaches s (0x1000 + n * 0x1000) → s.ringOn cmdType n = true →
    s.ringBusy cmdType n = false →
    s.ringSize cmdType n - 1 - idxSub (s.ring cmdType n).tail (s.ring cmdType n).head <
      idxSub (v.toNat % 65536) (s.ring cmdType n).tail →
    ∃ t, exec (.dblCmdTail n v) s = .next t ∧ t.ringHalted cmdType n = true ∧ t.fld HIF_STATUS_RING_ERR = 1 ∧
      (s.fld HIF_RING_ERR_VALID = 0 → t.fld HIF_RING_ERR_VALID = 1 ∧ t.fld HIF_RING_ERR_CAUSE = 1 ∧
        t.fld HIF_RING_ERR_VALUE = v.toNat % 65536) ∧
      KeepsRest s t ∧
      KeepsRegs [(HIF_RING_CFG_HALTED.bank (ringBank cmdType n)).off, HIF_RING_ERR.off, HIF_STATUS.off] s t)

/-- The selected ring is enabled by a write of HIF_RING_CFG with EN at 1: its settings are stored, it is not halted, and
its indices start at 0 (R388, R389); that records of a result ring were dropped is not forgotten (R406).
A write of HIF_RING_CFG that clears EN disables the selected ring: a command ring with commands whose completions are
not posted is BUSY until they are, and then EN reads 0; a completion ring that a command ring names, and a result ring that
a service names, stay enabled and RING_REJ is set (R390).
Once the completions of a disabled command ring are posted, EN and BUSY read 0 (R390). -/
def Obligations.RingsStartAndEnd : Prop :=
  (∀ (s : State) (v : Word), Reaches s HIF_RING_CFG.off → s.ringOn s.ringSel.1 s.ringSel.2 = false →
    v.toNat.testBit 31 = true → s.bit HIF_STATUS_READY = true → 4 ≤ v.toNat % 32 → v.toNat % 32 ≤ 16 →
    (s.ringSel.1 = cmdType → s.ringOn cplType (bitsOf v.toNat 21 16) = true) →
    s.emuRing s.ringSel.1 s.ringSel.2 = false →
    ∃ t, exec (.hifRingEnable v) s = .next t ∧ t.ringOn s.ringSel.1 s.ringSel.2 = true ∧
      t.ringHalted s.ringSel.1 s.ringSel.2 = false ∧ t.ring s.ringSel.1 s.ringSel.2 = { Ring.reset with dropped := (s.ring s.ringSel.1 s.ringSel.2).dropped } ∧
      t.ringSize s.ringSel.1 s.ringSel.2 = 2 ^ (v.toNat % 32) ∧
      t.ringFld HIF_RING_CFG_PEER s.ringSel.1 s.ringSel.2 = bitsOf v.toNat 21 16 ∧
      t.ringFld HIF_RING_CFG_PRIO s.ringSel.1 s.ringSel.2 =
        bitsOf v.toNat HIF_RING_CFG_PRIO.hi HIF_RING_CFG_PRIO.lo ∧
      t.ringFld HIF_RING_CFG_VECTOR s.ringSel.1 s.ringSel.2 =
        bitsOf v.toNat HIF_RING_CFG_VECTOR.hi HIF_RING_CFG_VECTOR.lo ∧
      KeepsRest { s with hif := t.hif } t ∧
      KeepsRegs [(HIF_RING_CFG_EN.bank (ringBank s.ringSel.1 s.ringSel.2)).off] s t) ∧
  (∀ (s : State) (v : Word), v.toNat.testBit 31 = false → Reaches s HIF_RING_CFG.off →
    s.ringOn s.ringSel.1 s.ringSel.2 = true → s.ringBusy s.ringSel.1 s.ringSel.2 = false →
    (s.ringSel.1 = cmdType → s.outstanding s.ringSel.2 = [] →
      Gives (.hifRingDisable v) s (s.setRingFld HIF_RING_CFG_EN cmdType s.ringSel.2 0)) ∧
    (s.ringSel.1 = cmdType → s.outstanding s.ringSel.2 ≠ [] →
      Gives (.hifRingDisable v) s (s.setRingFld HIF_RING_CFG_BUSY cmdType s.ringSel.2 1)) ∧
    ((s.ringSel.1 = cplType ∧ s.cplUsed s.ringSel.2 = true ∨ s.ringSel.1 = resType ∧ s.resRingUsed s.ringSel.2 = true) →
      Gives (.hifRingDisable v) s (s.setFld HIF_STATUS_RING_REJ 1)) ∧
    ((s.ringSel.1 = cplType ∧ s.cplUsed s.ringSel.2 = false ∨ s.ringSel.1 = resType ∧ s.resRingUsed s.ringSel.2 = false) →
      Gives (.hifRingDisable v) s ((s.setRingFld HIF_RING_CFG_EN s.ringSel.1 s.ringSel.2 0).setRing s.ringSel.1 s.ringSel.2
        { s.ring s.ringSel.1 s.ringSel.2 with unsignalled := 0 }))) ∧
  (∀ (s : State) (n : Nat), s.power.tripped = false → s.ringBusy cmdType n = true → s.outstanding n = [] →
    ∃ t, exec (.ringDisableDone n) s = .next t ∧ t.ringOn cmdType n = false ∧ t.ringBusy cmdType n = false ∧
      KeepsRest s t ∧ KeepsRegs [(HIF_RING_CFG_EN.bank (ringBank cmdType n)).off] s t)

/-! ### Acceptance and completion of commands (R393 to R404) -/

/-- The ring that SCH serves next is one that can be served, of the highest PRIO among those, and within one PRIO the next after
the ring served last, round robin (R394). While host DMA waits, host rings wait with it and the start-up list alone is served (R383,
R384). The model's choices in it: log 36. -/
def Obligations.TheNextRingServed : Prop :=
  ∀ (s : State),
    (s.nextRing = none → ∀ m, m < 64 → s.dmaHeld = true ∨ s.servable m = false) ∧
    ∀ n, s.nextRing = some n →
      (n = listRing ∧ s.listReady = true ∨ n < 64 ∧ s.dmaHeld = false ∧ s.servable n = true) ∧
      ∀ m, m < 64 → s.dmaHeld = false → s.servable m = true → s.prio m ≤ s.prio n ∧
        (s.prio m = s.prio n →
          let last := Tab.lookD s.hif.lastServed (s.prio n) listRing
          (last < m → last < n ∧ n ≤ m) ∧ (n ≤ last → n ≤ m))

/-- SCH accepts the entry at the head of the ring it serves: the head moves on, the completion's place is reserved, and
HIF_CMD_COUNT counts. An entry whose FENCE waits for earlier commands is read once, and its ring is not served until they have
completed; one whose fetch fails halts its ring (R391, R394, R395, R404). After the last boundary before a sleep none is accepted.
The model's choices in it: log 228, 229, 243. -/
def Obligations.AcceptanceTakesAnEntry : Prop :=
  ∀ (s : State) (n : Nat), s.power.tripped = false → s.schUp = true → s.schQuiet = false →
    s.power.lastBoundary = false → s.nextRing = some n → n < 64 →
    let p := s.ringFld HIF_RING_CFG_PEER cmdType n
    (∀ entry e, ((s.ring cmdType n).held <|> entry) = some e →
      ((u8 (padTo 64 (e.take 64)) 1).testBit 0 = false ∨ s.outstanding n = [] →
      ∃ t c, exec (.commandAccept entry) s = .next t ∧ t.hif.accepted = s.hif.accepted ++ [c] ∧ c.id = s.hif.nextId ∧
        c.ring = n ∧ c.index = (s.ring cmdType n).head ∧ c.peer = p ∧ c.bytes = padTo 64 (e.take 64) ∧
        c.started = false ∧ c.result = (headerStatus c.bytes).map (fun st => (st, 0, noInfo (u8 c.bytes 0))) ∧
        (t.ring cmdType n).head = ((s.ring cmdType n).head + 1) % 65536 ∧ (t.ring cmdType n).held = none ∧
        (t.ring cplType p).reserved = (s.ring cplType p).reserved + 1 ∧
        KeepsRest { s with hif := t.hif } t ∧ KeepsRegs [HIF_CMD_COUNT.off] s t) ∧
      ((u8 (padTo 64 (e.take 64)) 1).testBit 0 = true → s.outstanding n ≠ [] →
      ∃ t, exec (.commandAccept entry) s = .next t ∧ t.hif.accepted = s.hif.accepted ∧
        (t.ring cmdType n).head = (s.ring cmdType n).head ∧ (t.ring cmdType n).held = some (padTo 64 (e.take 64)) ∧
        t.servable n = false ∧ KeepsRest { s with hif := t.hif } t ∧ KeepsRegs [] s t)) ∧
    ((s.ring cmdType n).held = none →
    ∃ t, exec (.commandAccept none) s = .next t ∧ t.ringHalted cmdType n = true ∧ t.fld HIF_STATUS_RING_ERR = 1 ∧
      t.fld HIF_STATUS_DMA_ERR = 1 ∧ t.hif.accepted = s.hif.accepted ∧ KeepsRest { s with hif := t.hif } t ∧
      KeepsRegs ([(HIF_RING_CFG_HALTED.bank (ringBank cmdType n)).off, HIF_RING_ERR.off] ++ dmaErrKeys) s t)

/-- The completion of the earliest finished command is written to its ring at the producer index, its first 8 bytes last, and
the index moves on; the reserved place is given back (R393, R394, R403).
When a ring's coalescing delay expires with entries that no signal has told of, the ring signals its vector, and no
entry is left untold; a vector that is held, by a mask or in D3hot, is pending instead (R387). The model's choices in it: log
228. -/
def Obligations.CompletionsArePostedAndSignalled : Prop :=
  (∀ (s : State) (c : HostCmd) (st detail info : Nat), s.power.tripped = false → s.asleep = false → s.hif.d3hot = false →
    s.hif.dmaPaused = false → s.hif.accepted.find? (fun x => x.result.isSome) = some c →
    c.result = some (st, detail, info) → c.ring ≠ listRing → c.peer ≠ noPeer → s.ringOn cplType c.peer = true →
    s.ringHalted cplType c.peer = false →
    let q := s.ring cplType c.peer
    ∃ t, exec (.commandComplete true) s = .next t ∧
      (let a := s.entryAddr cplType c.peer q.tail
       let b := completion c q.phase st detail info
       Sent s t [.dma (a + 8) (b.drop 8), .dma a (b.take 8)]) ∧
      t.hif.accepted = s.hif.accepted.filter (fun x => x.id != c.id) ∧
      (t.ring cplType c.peer).tail = (q.tail + 1) % 65536 ∧ (t.ring cplType c.peer).reserved = q.reserved - 1 ∧
      (t.ring cplType c.peer).phase = (if (q.tail + 1) % 65536 % s.ringSize cplType c.peer = 0 then !q.phase else q.phase) ∧
      KeepsRest { s with hif := t.hif } t ∧ KeepsRegs [] s t) ∧
  (∀ (s : State) (result : Bool) (n : Nat),
    let ty := if result then resType else cplType
    s.power.tripped = false → s.asleep = false → (s.ring ty n).unsignalled ≠ 0 → s.ringFld HIF_RING_CFG_IRQ_EN ty n = 1 →
    s.ringFld HIF_RING_COAL_USEC ty n ≠ 0 →
    ∃ t, exec (.coalesceTimeout result n) s = .next t ∧
      s.now ≤ t.now ∧ (s.ring ty n).firstPosted + 1000 * s.ringFld HIF_RING_COAL_USEC ty n ≤ t.now ∧
      (s.msixHeld (s.ringFld HIF_RING_CFG_VECTOR ty n) = false →
        Sent s t [.msix (s.ringFld HIF_RING_CFG_VECTOR ty n)]) ∧
      (s.msixHeld (s.ringFld HIF_RING_CFG_VECTOR ty n) = true →
        s.ringFld HIF_RING_CFG_VECTOR ty n ∈ t.hif.msixPending) ∧
      KeepsRest (s.setRing ty n { s.ring ty n with unsignalled := 0 }) t ∧
      KeepsRegs [] (s.setRing ty n { s.ring ty n with unsignalled := 0 }) t)

/-- The change of a host command, staged for a boundary (R22, R23). -/
def Staged (u t : State) (c : HostCmd) (k : ChangeKind) (target : Nat) : Prop :=
  t.staged = u.staged ++
    [{ kind := k, target := max target (u.tick + 1), cmd := some c.id, armed := true, agreed := none, ctick := none }]

/-- Outside a consort epoch, STOP_SERVICE, BIND_MODEL, MODEL_SWAP and CONFIG_EPOCH that pass their checks stage their change for
the target boundary, or the next one where that has passed, and change nothing else but a slot that is bound (R22, R271,
R398 to R401). START_SERVICE with every check passed stages the service with its POLICY, its result ring and its starting
record, and stages its start (R22, R121, R399). FW_ACTIVATE outside a consort epoch and an emergency stages the activation
of every core of its kind whose other bank is STAGED, from the target boundary on, and marks the core PENDING (R453, R454).
The model's choices in it: log 20, 53. -/
def Obligations.StagingCommandsStage : Prop :=
  (∀ (s u : State) (c : HostCmd),
    (Begins s opStopService c u → u8 c.bytes 8 < 64 → u.duplicate (.stop (u8 c.bytes 8)) (u64 c.bytes 16) none = false →
      (u.svc (u8 c.bytes 8)).phase.admitted = true → u.partnerOf (u8 c.bytes 8) = none →
      ∃ t, exec .stopService s = .next t ∧ Staged u t c (.stop (u8 c.bytes 8)) (u64 c.bytes 16) ∧
        KeepsRest { u with staged := t.staged } t ∧ KeepsRegs [] u t) ∧
    (Begins s opBindModel c u → u8 c.bytes 8 < 64 → u8 c.bytes 9 = 0xFF → (u.svc (u8 c.bytes 8)).phase = .loaded →
      (u8 c.bytes 10).testBit 0 = false → u.inEpoch = false → u.duplicate (.bind (u8 c.bytes 8) none) 0 none = false →
      ∃ t, exec .bindModel s = .next t ∧ Staged u t c (.bind (u8 c.bytes 8) none) 0 ∧
        KeepsRest { u with staged := t.staged } t ∧ KeepsRegs [] u t) ∧
    (Begins s opBindModel c u → u8 c.bytes 8 < 64 → u8 c.bytes 9 < 16 → (u.svc (u8 c.bytes 8)).phase = .loaded →
      u.bindCheck (u8 c.bytes 9) (u.svc (u8 c.bytes 8)).image = stOk →
      (u8 c.bytes 10).testBit 0 = false → u.inEpoch = false →
      u.duplicate (.bind (u8 c.bytes 8) (some (u8 c.bytes 9))) 0 none = false →
      ∃ t, exec .bindModel s = .next t ∧ Staged u t c (.bind (u8 c.bytes 8) (some (u8 c.bytes 9))) 0 ∧
        (t.slotOf (u8 c.bytes 9)).state = slBound ∧
        (t.slotOf (u8 c.bytes 9)).binds = (u.slotOf (u8 c.bytes 9)).binds + 1 ∧
        KeepsRest { u with staged := t.staged, nv := t.nv } t ∧ KeepsRegs [] u t) ∧
    (Begins s opModelSwap c u → u8 c.bytes 8 < 64 → u8 c.bytes 9 < 16 → (u.svc (u8 c.bytes 8)).phase.admitted = true →
      (u.svc (u8 c.bytes 8)).slot ≠ none → u.bindCheck (u8 c.bytes 9) (u.svc (u8 c.bytes 8)).image = stOk →
      (u8 c.bytes 10).testBit 0 = false → u.inEpoch = false →
      u.duplicate (.swap (u8 c.bytes 8) (u8 c.bytes 9)) (u64 c.bytes 16) none = false →
      ∃ t, exec .modelSwap s = .next t ∧ Staged u t c (.swap (u8 c.bytes 8) (u8 c.bytes 9)) (u64 c.bytes 16) ∧
        (t.slotOf (u8 c.bytes 9)).state = slBound ∧
        (t.slotOf (u8 c.bytes 9)).binds = (u.slotOf (u8 c.bytes 9)).binds + 1 ∧
        KeepsRest { u with staged := t.staged, nv := t.nv } t ∧ KeepsRegs [] u t) ∧
    (∀ l, Begins s opConfigEpoch c u → 1 ≤ u16 c.bytes 24 → u16 c.bytes 24 ≤ 256 →
      (chunks 16 (sliceZ l 0 (16 * u16 c.bytes 24))).all (recordOk epochBlocks) = true → u.inEpoch = false →
      u.duplicate (.config (sliceZ l 0 (16 * u16 c.bytes 24))) (u64 c.bytes 32) none = false →
      ∃ t, exec (.configEpoch (some l)) s = .next t ∧
        Staged u t c (.config (sliceZ l 0 (16 * u16 c.bytes 24))) (u64 c.bytes 32) ∧
        KeepsRest { u with staged := t.staged } t ∧ KeepsRegs [] u t)) ∧
  (∀ (s u : State) (c : HostCmd) (hist : Option Bytes) (h : List RangeEntry), Begins s opStartService c u →
    let n := u8 c.bytes 8
    let img := (u.svc n).image
    u.startCheck c.bytes = (stOk, 0) →
    (if u64 c.bytes 24 != 0 && 0 < imgHistBytes img then hist.map (fun d => histOf (sliceZ d 0 (imgHistBytes img)))
      else some (defaultHist img)) = some h →
    histOk img h = true → u.partner n = none →
    ∃ t, exec (.startService hist) s = .next t ∧ Staged u t c (.start n) (u64 c.bytes 16) ∧
      (t.svc n).phase = .staged ∧ (t.svc n).image = img ∧ (t.svc n).policyStop = (u8 c.bytes 9 == 1) ∧
      (t.svc n).resultRing = (if u8 c.bytes 10 = 0xFF then none else some (u8 c.bytes 10)) ∧ (t.svc n).hist = h ∧
      (∀ k, k ≠ n → t.svc k = u.svc k) ∧
      KeepsRest { u with staged := t.staged, services := t.services, tiles := t.tiles, mem := t.mem } t) ∧
  (∀ (s u : State) (c : HostCmd), Begins s opFwActivate c u → u8 c.bytes 8 ≤ 3 →
    (fwCores (u8 c.bytes 8)).any u.activating = false →
    (fwCores (u8 c.bytes 8)).filter (fun k => u.fwOther k = bankStaged) ≠ [] → u.inEpoch = false → u.emergency = false →
    ∃ t, exec .fwActivate s = .next t ∧
      (∀ k ∈ fwCores (u8 c.bytes 8), u.fwOther k = bankStaged →
        t.fld (fwFld SEC_FW_CORE_PENDING k) = 1 ∧
        ∃ d ∈ t.staged, d.kind = .activate k ∧ d.cmd = some c.id ∧ d.armed = true ∧ u64 c.bytes 16 ≤ d.target ∧
          u.tick < d.target) ∧
      (∀ d ∈ u.staged, d ∈ t.staged) ∧
      KeepsRest { u with staged := t.staged, cores := t.cores, freeCount := t.freeCount } t)

/-- LOAD_PROGRAM, SUBMIT_INPUT, QUERY, FW_STAGE and ATTEST that pass their checks (R399, R400, R402, R452, R517): LOAD_PROGRAM holds
the image for its service, in the program area of T3 unless it stays in an execute-only slot. The model's choices in it: log
6, 124, 230. -/
def Obligations.OtherHostCommandsWork : Prop :=
  ∀ (s u : State) (c : HostCmd),
    (∀ data w img, Begins s opLoadProgram c u → u8 c.bytes 8 < 64 → u8 c.bytes 9 ≤ 2 →
      (u8 c.bytes 9 = 1 → u.inUsable (u64 c.bytes 16) (u32 c.bytes 24) = true) →
      ((u.svc (u8 c.bytes 8)).phase = .none ∨ (u.svc (u8 c.bytes 8)).phase = .loaded) → u.progArea = true →
      u32 u.cfgDev 28 ≠ 0 → (u8 c.bytes 9 = 2 → u8 c.bytes 10 < 16 ∧ (u.slotOf (u8 c.bytes 10)).state = slXo) →
      u.programSource c.bytes data = (w, some img) → loadCode w.loadCtx img = none →
      (∀ a, u8 c.bytes 9 ≠ 2 → u.programPlace (u8 c.bytes 8) (u32 c.bytes 24) = some a →
        ∃ t, exec (.loadProgram data) s = .next t ∧ Ended t c.id stOk 0 0 ∧ (t.svc (u8 c.bytes 8)).phase = .loaded ∧
          (t.svc (u8 c.bytes 8)).image = img ∧ (t.svc (u8 c.bytes 8)).imageAt = some a ∧
          (∀ k, a ≤ k → k < a + img.length → t.dataByte k = img.getD (k - a) 0) ∧
          (∀ k, k < u.usable → k < a ∨ a + (img.length + 15) / 16 * 16 ≤ k → t.dataByte k = u.dataByte k) ∧
          ∀ k, k ≠ u8 c.bytes 8 → t.svc k = u.svc k) ∧
      (u8 c.bytes 9 = 2 →
        ∃ t, exec (.loadProgram data) s = .next t ∧ Ended t c.id stOk 0 0 ∧ (t.svc (u8 c.bytes 8)).phase = .loaded ∧
          (t.svc (u8 c.bytes 8)).image = img ∧ (t.svc (u8 c.bytes 8)).xoSlot = some (u8 c.bytes 10) ∧
          (t.svc (u8 c.bytes 8)).imageAt = none ∧ (∀ k, t.dataByte k = u.dataByte k) ∧
          ∀ k, k ≠ u8 c.bytes 8 → t.svc k = u.svc k)) ∧
    (∀ i, Begins s opSubmitInput c u → u8 c.bytes 8 < 64 → u8 c.bytes 9 < 16 →
      (u.svc (u8 c.bytes 8)).phase.holds = true → u.submitInputOf (u8 c.bytes 8) (u8 c.bytes 9) = some i →
      u32 c.bytes 24 = i.bytes →
      Gives .submitInput s { u with intake :=
        { u.intake with inputDma := u.intake.inputDma ++ [(c.id, u8 c.bytes 8, u8 c.bytes 9)] } }) ∧
    (Begins s opQuery c u → u8 c.bytes 8 ≤ 2 → u8 c.bytes 9 < 64 → c.ring ≠ listRing →
      let d := (if u8 c.bytes 8 = 0 then (List.range 16).flatMap fun i => slotBytes i (u.slotOf i)
        else if u8 c.bytes 8 = 1 then u.serviceRecord (u8 c.bytes 9) else histBytes (u.svc (u8 c.bytes 9)).hist).take
          (u32 c.bytes 24)
      ∃ t, exec (.query true) s = .next t ∧ (d ≠ [] → Sent s t [.dma (u64 c.bytes 16) d]) ∧ Ended t c.id stOk 0 d.length ∧
        KeepsRest { u with hif := t.hif } t ∧ KeepsRegs [] u t) ∧
    (Begins s opAttest c u → c.ring ≠ listRing → u.secUp = true → u.bit SEC_STATUS_CERT_BAD = false →
      Gives .attest s { u with boot := { u.boot with attest := u.boot.attest ++ [c.id] } }) ∧
    (∀ data w img, Begins s opFwStage c u → u8 c.bytes 8 ≤ 3 → u8 c.bytes 9 ≤ 1 →
      (u8 c.bytes 9 = 1 → u.inUsable (u64 c.bytes 16) (u32 c.bytes 24) = true) →
      (fwCores (u8 c.bytes 8)).any u.exchanging = false → u.secUp = true → u.fwSource c.bytes data = (w, some img) →
      (w.verifyFw (u8 c.bytes 8) img).2 = stOk →
      ∃ t, exec (.fwStage data) s = .next t ∧
        ∀ k ∈ fwCores (u8 c.bytes 8), t.fwOther k = bankStaged ∧ t.otherBank k = FwBank.ofImage img)

/-- SCRUB of a range in one tier, aligned, and with every tile of a T0 range FREE ends, and writes its summary record where a
result address is given; CANCEL ends, and takes back the staged changes it names with the commit sets that hold them (R398,
R402). The model's choices in it: log 6, 87. -/
def Obligations.ScrubAndCancelEnd : Prop :=
  ∀ (s u : State) (c : HostCmd),
    (∀ senses tier, Begins s opScrub c u →
      let a := leNat (slice c.bytes 16 5)
      let n := u64 c.bytes 24
      u.scrubTier a n = some tier → a % scrubAlign tier = 0 → n % scrubAlign tier = 0 →
      (tier = 0 → u.scrubBusy a n = false) → (c.fromList = true → u64 c.bytes 32 = 0) →
      let r := if tier = 2 then u.scrubNv senses a n
        else if tier = 3 then u.scrubMem a n ((u8 c.bytes 10).testBit 0)
        else u.scrubSram tier a n ((u8 c.bytes 10).testBit 0)
      ∃ t, exec (.scrub senses true) s = .next t ∧ Over t c.id ∧
        (u64 c.bytes 32 ≠ 0 → Sends s t (.dma (u64 c.bytes 32) (r.2.toBytes tier)))) ∧
    (s.power.tripped = false → s.schUp = true →
      s.hif.accepted.find? (fun c => c.cancels && stages c.opcode && !c.started && c.result = none) = some c →
      (∃ d ∈ s.staged, d.cmd ≠ none ∧ cancelNames c.opcode c.bytes d.kind = true) →
      ∃ t, exec .cancel s = .next t ∧ Over t c.id ∧
        t.staged = s.staged.filter (fun d =>
          !((s.setsOf (s.staged.filter fun d => d.cmd.isSome && cancelNames c.opcode c.bytes d.kind)).contains d)))

/-- The same as Begins for the commands of the weight store, which wait for the start-up scan, for a session of their
member and for host DMA (R270, R384, R434). -/
abbrev NvBegins (s : State) (op : Nat) (c : HostCmd) (u : State) : Prop :=
  s.power.tripped = false ∧ s.schUp = true ∧ s.nvPhase ≠ nvScanning ∧ (s.secQuiet && needsSec op) = false ∧
    s.hif.accepted.find? (fun c =>
      c.opcode = op && !c.started && c.result = none && !c.cancels && !s.chainWaits c && !s.dmaWaits c) = some c ∧
    u = { s.begin c.id with out := [] }

/-- NV_ERASE and NV_PROGRAM on this device begin their work when their checks pass: the slot is ERASING and the blocks of its
extent that are not blank wait for an erase batch, and after them those of a new extent, which becomes the slot's then; the slot is PROGRAMMING with the image's identity and manifest (R261 to R265). The
model's choices in it: log 6, 21, 115. -/
def Obligations.NvCommandsBeginTheirWork : Prop :=
  ∀ (s u : State) (c : HostCmd),
    (NvBegins s opNvErase c u → u.chained c = false →
      let n := u8 c.bytes 8
      let first := u16 c.bytes 12
      let stripes := u16 c.bytes 14
      let mask := BitVec.ofNat 64 (u64 c.bytes 16)
      let v := u.slotOf n
      let old := u.extentBlocks v.firstStripe v.stripes v.slabMask
      let new := if 1 ≤ stripes then u.extentBlocks first stripes mask else []
      let extent := if 1 ≤ stripes then some (first, stripes, mask)
        else if (u8 c.bytes 10).testBit 0 then none else some (v.firstStripe, v.stripes, v.slabMask)
      n < 16 → u.nvPhase ≠ nvFault → u.erasable n (1 ≤ stripes) = true →
      (1 ≤ stripes → first + stripes ≤ 256 ∧ u.meetsSlot n first stripes mask = false) →
      u.nv.refresh = none → u.nv.erases = [] → (∀ p ∈ u.nv.programs, p.slot ≠ n) →
      (u.stillErase old ≠ [] →
        ∃ t, exec .nvErase s = .next t ∧ (t.slotOf n).state = slErasing ∧
          t.nv.erases = [{ cmd := c.id, slot := some n, blocks := u.stillErase old, later := new, covers := old ++ new,
                           slabs := v.slabMask ||| mask, extent := extent, failed := false }] ∧
          KeepsRest { u with nv := t.nv } t ∧ KeepsRegs [] u t) ∧
      (u.stillErase old = [] → u.stillErase new ≠ [] →
        ∃ t, exec .nvErase s = .next t ∧ (t.slotOf n).state = slErasing ∧ (t.slotOf n).firstStripe = first ∧
          (t.slotOf n).stripes = stripes ∧ (t.slotOf n).slabMask = mask ∧
          t.nv.erases = [{ cmd := c.id, slot := some n, blocks := u.stillErase new, later := [], covers := old ++ new,
                           slabs := v.slabMask ||| mask, extent := extent, failed := false }] ∧
          KeepsRest { u with nv := t.nv } t ∧ KeepsRegs [] u t)) ∧
    (∀ h, NvBegins s opNvProgram c u → u.chained c = false →
      let n := u8 c.bytes 8
      let r := u.checkImage (u.slotOf n) h (u64 c.bytes 24)
      n < 16 → u8 c.bytes 9 = 0 → u.nvPhase ≠ nvFault → (u.slotOf n).state = slEmpty → u.secUp = true → u.nv.refresh = none →
      (u8 c.bytes 10).testBit 0 = false →
      ∃ t, exec (.nvProgram (some h)) s = .next t ∧
        (r.1 = stOk → (t.slotOf n).state = slProgramming ∧ (t.slotOf n).imageId = slice (imManifest h) 16 16 ∧
          (t.slotOf n).manifest = imManifest h ∧
          (∃ p, t.nv.programs = u.nv.programs ++ [p] ∧ p.cmd = c.id ∧ p.slot = n ∧ p.key = r.2.2 ∧ p.next = 0 ∧
            p.payload = imPayload h) ∧
          KeepsRest { u with nv := t.nv } t ∧ KeepsRegs [] u t) ∧
        (r.1 ≠ stOk → c.id < sessionBase → Ended t c.id r.1 0 (nvInfo noSlab noSector thisDevice) ∧ KeepsRest { u with hif := t.hif } t ∧
          KeepsRegs [SEC_STATUS.off, SEC_VERIFY_FAIL_COUNT.off] u t))

/-! ### Tile stores, the tick settings, page reads, coding tables and the pool: what the host writes -/

/-- The indirect access to the store of a FREE tile (R97, R98): a read or a write begins; a write stores its word with its valid
bit set; a read leaves the word, its valid bit and what the code found in TIL_MEM_DATA and TIL_MEM_CTL; an access to a tile
that is busy or not FREE is refused with RESULT 3. TIL_INVAL of a FREE tile begins a bulk invalidate; it ends with an empty store,
and the tile of no service FREE (R85, R97, R98). The model's choices in it: log 86. -/
def Obligations.TileStoresAreReachedAndInvalidated : Prop :=
  (∀ (s : State) (t : Nat), t < 64 →
    (Reaches s (TIL_MEM_CTL.off + t * 0x40000) → s.tilBusy t = false → s.tileState t = tsFree →
      let w := s.fld (TIL_MEM_ADDR_WORD.tile t)
      Gives (.tilMemRead t) s ((s.modTile t fun x => { x with access := some (w, none) }).setFld
        (TIL_MEM_CTL_BUSY.tile t) 1) ∧
      ∃ d, (∀ i, i < 4 → bitsOf d.toNat (32 * i + 31) (32 * i) = s.fld ((TIL_MEM_DATA_DATA.tile t).at (4 * i))) ∧
        Gives (.tilMemWrite t) s ((s.modTile t fun x => { x with access := some (w, some d) }).setFld
          (TIL_MEM_CTL_BUSY.tile t) 1)) ∧
    (Reaches s (TIL_MEM_CTL.off + t * 0x40000) → (s.tilBusy t = true ∨ s.tileState t ≠ tsFree) →
      Gives (.tilMemRead t) s ((s.setFld (TIL_MEM_CTL_RESULT.tile t) 3).setFld (TIL_STATUS_HOST_REJ.tile t) 1) ∧
      Gives (.tilMemWrite t) s ((s.setFld (TIL_MEM_CTL_RESULT.tile t) 3).setFld (TIL_STATUS_HOST_REJ.tile t) 1)) ∧
    (∀ w d, s.power.tripped = false → (s.tileOf t).access = some (w, some d) →
      ∃ t', exec (.tilMemAccessDone t) s = .next t' ∧
        Tab.look (t'.tileOf t).store w = some (CWord.enc w ⟨d, false⟩) ∧
        (∀ k, k ≠ w → Tab.look (t'.tileOf t).store k = Tab.look (s.tileOf t).store k) ∧
        (t'.tileOf t).dirty = true ∧ t'.tilBusy t = false ∧ t'.fld (TIL_MEM_CTL_RESULT.tile t) = 0 ∧
        KeepsRest { s with tiles := t'.tiles } t' ∧ KeepsRegs [TIL_MEM_CTL.off + t * 0x40000] s t') ∧
    (∀ w c, s.power.tripped = false → (s.tileOf t).access = some (w, none) → Tab.look (s.tileOf t).store w = some c →
      ∃ t', exec (.tilMemAccessDone t) s = .next t' ∧
        (∀ i, i < 4 → t'.fld ((TIL_MEM_DATA_DATA.tile t).at (4 * i)) =
          bitsOf (c.dec w).2.data.toNat (32 * i + 31) (32 * i)) ∧
        t'.tilBusy t = false ∧ t'.fld (TIL_MEM_CTL_VALID.tile t) = 1 ∧
        t'.fld (TIL_MEM_CTL_RESULT.tile t) =
          (match (c.dec w).1 with | .clean => 0 | .corrected => 1 | .poison => 2 | .uncorrectable => 2) ∧
        ∀ k, SameBits (Tab.look (t'.tileOf t).store k) (Tab.look (s.tileOf t).store k))) ∧
  (∀ (s : State) (t : Nat), t < 64 →
    (Reaches s (TIL_INVAL.off + t * 0x40000) → s.tilBusy t = false → s.tileState t = tsFree →
      Gives (.tilInval t) s
        (s.beginInvalidate t)) ∧
    (s.power.tripped = false → (s.tileOf t).invalidating = true →
      (∀ e ∈ s.services, e.2.phase.holds = true → (imgTiles e.2.image).contains t = false) →
      ∃ t', exec (.bulkInvalidateDone t) s = .next t' ∧ (t'.tileOf t).store = [] ∧ (t'.tileOf t).ftab = [] ∧
        (t'.tileOf t).dirty = false ∧ t'.tilBusy t = false ∧ t'.tileState t = tsFree ∧
        t'.fld (TIL_CFG_FTAB_LOADED.tile t) = 0 ∧ KeepsRest { s with tiles := t'.tiles } t' ∧
        KeepsRegs [TIL_MEM_CTL.off + t * 0x40000, TIL_CFG.off + t * 0x40000, TIL_STATE.off + t * 0x40000] s t'))

/-- Host writes of the tick settings (R60, R61, R412): TCK_PERIOD within its range and with room for every running program,
TCK_PHASE and TCK_TICKIN are stored; while a class A service runs or a consort epoch is formed each is refused with its
status bit, and so is a period out of range. A host write of TCK_CTL stores HOLD_LIMIT and OUT_EN, with 1 in bit 7 resets
the least slack, and changes the source unless it is reserved or locked, which sets SRC_REJ (R56, R60, R61, R18). The
model's choices in it: log 19. -/
def Obligations.TickWritesAreChecked : Prop :=
  (∀ (s : State) (v : Word),
    (Reaches s TCK_PERIOD.off →
      (s.tickLocked = false → s.periodOk (bitsOf v.toNat 16 0) = true →
        Gives (.tckPeriodWrite v) s (s.setFld TCK_PERIOD_PERIOD_US (bitsOf v.toNat 16 0))) ∧
      ((s.tickLocked = true ∨ s.periodOk (bitsOf v.toNat 16 0) = false) →
        Gives (.tckPeriodWrite v) s (s.setFld TCK_STATUS_PER_REJ 1))) ∧
    (Reaches s TCK_PHASE.off →
      (s.tickLocked = false → Gives (.tckPhaseWrite v) s (s.setFld TCK_PHASE_PHASE_US (bitsOf v.toNat 16 0))) ∧
      (s.tickLocked = true → Gives (.tckPhaseWrite v) s (s.setFld TCK_STATUS_SRC_REJ 1))) ∧
    (Reaches s TCK_TICKIN.off →
      (s.tickLocked = false → Gives (.tckTickinWrite v) s
        ((s.setFld TCK_TICKIN_EDGE (bitsOf v.toNat 16 16)).setFld TCK_TICKIN_TOL_US (bitsOf v.toNat 9 0))) ∧
      (s.tickLocked = true → Gives (.tckTickinWrite v) s (s.setFld TCK_STATUS_SRC_REJ 1)))) ∧
  (∀ (s : State) (v : Word) (c : Instr), c = .tckSrcWrite v ∨ c = .slackRst v → Reaches s TCK_CTL.off →
    ∃ t, exec c s = .next t ∧ t.fld TCK_CTL_HOLD_LIMIT = bitsOf v.toNat 15 8 ∧ t.fld TCK_CTL_OUT_EN = bitsOf v.toNat 6 6 ∧
      t.fld TCK_SLACK_MIN_SLACK_US = (if v.toNat.testBit 7 then 0x1FFFF else s.fld TCK_SLACK_MIN_SLACK_US) ∧
      (bitsOf v.toNat 1 0 ≠ 3 → s.tickLocked = false → t.fld TCK_CTL_SRC = bitsOf v.toNat 1 0 ∧
        (t.srcWritten = true ↔ bitsOf v.toNat 1 0 ≠ s.fld TCK_CTL_SRC_ACTIVE)) ∧
      (bitsOf v.toNat 1 0 = 3 ∨ s.tickLocked = true ∧
          (bitsOf v.toNat 1 0 ≠ s.fld TCK_CTL_SRC ∨ bitsOf v.toNat 1 0 ≠ s.fld TCK_CTL_SRC_ACTIVE) →
        t.fld TCK_STATUS_SRC_REJ = 1 ∧ t.fld TCK_CTL_SRC = s.fld TCK_CTL_SRC ∧ t.srcWritten = s.srcWritten) ∧
      KeepsRest { s with srcWritten := t.srcWritten } t ∧
      KeepsRegs [TCK_CTL.off, TCK_SLACK_MIN.off, TCK_STATUS.off] s t)

/-- The host page read (R250): a write of NVS_PAGE_CTL.READ of a mapped page that holds no execute-only data starts it, one of
an address outside the weight store is refused with RESULT 3 and a zero buffer, and so is one while BUSY, which leaves the read in
progress; a page without errors beyond its code lands in the buffer with RESULT 0 and TAG_OK 1; the read waits while its bank programs
or erases. The model's choices in it: log 119. -/
def Obligations.HostPageReads : Prop :=
  ∀ (s : State),
    (Reaches s NVS_PAGE_CTL.off → s.bit NVS_PAGE_CTL_BUSY = true →
      Gives .nvsPageRead s ((s.setNv { s.nv with pageBuf := [] }).setFld NVS_PAGE_CTL_RESULT 3)) ∧
    (Reaches s NVS_PAGE_CTL.off → s.bit NVS_PAGE_CTL_BUSY = false →
      s.slabAddr (s.fld NVS_PAGE_ADDR_PAGE * 4096) = none →
      ∃ t, exec .nvsPageRead s = .next t ∧ t.fld NVS_PAGE_CTL_RESULT = 3 ∧ t.fld NVS_PAGE_CTL_BUSY = 0 ∧
        t.nv.pageBuf = [] ∧ KeepsRest { s with nv := t.nv } t ∧ KeepsRegs [NVS_PAGE_CTL.off, NVS_PAGE_STAT.off] s t) ∧
    (∀ slab page, Reaches s NVS_PAGE_CTL.off → s.bit NVS_PAGE_CTL_BUSY = false → s.nvPhase ≠ nvScanning →
      s.slabAddr (s.fld NVS_PAGE_ADDR_PAGE * 4096) = some (slab, page) →
      (∀ bk, s.mapped slab (s.place slab page).plane (s.place slab page).lblock = some bk →
        (s.block bk).xo = false ∧ ∀ p, s.pageAt bk (s.place slab page).pg = some p → tagKind p.tag ≠ 2) →
      Gives .nvsPageRead s ((s.setNv { s.nv with hostRead := some (s.hostReadOf (s.fld NVS_PAGE_ADDR_PAGE * 4096)) }).setFld
        NVS_PAGE_CTL_BUSY 1)) ∧
    (∀ h slab page bk rounds, s.power.tripped = false → s.nv.hostRead = some h → s.slabAddr h.addr = some (slab, page) →
      s.mapped slab (s.place slab page).plane (s.place slab page).lblock = some bk → s.bankAtWork bk = false →
      s.xoPage slab (s.place slab page) = none →
      let x := decodePage (s.pageAt bk (s.place slab page).pg) (s.place slab page) (rounds.headD [])
      x.blank = false → x.fine = true → (x.tagOk && tagKind x.tag = 3) = false → x.bits < h.warn →
      ∃ t, exec (.nvsPageReadDone rounds) s = .next t ∧ t.nv.pageBuf = x.words.flatMap bytes128 ∧ t.nv.pageTag = x.tag ∧
        t.fld NVS_PAGE_CTL_RESULT = 0 ∧ t.fld NVS_PAGE_CTL_TAG_OK = 1 ∧ t.fld NVS_PAGE_CTL_BUSY = 0 ∧
        t.nv.hostRead = none) ∧
    (∀ h slab page bk rounds, s.power.tripped = false → s.nv.hostRead = some h → s.slabAddr h.addr = some (slab, page) →
      s.mapped slab (s.place slab page).plane (s.place slab page).lblock = some bk → s.bankAtWork bk = true →
      exec (.nvsPageReadDone rounds) s = .next { s with out := [] })

/-- Coding tables (R329, R336, R337): a write of CMP_TAB_CTL with a valid table in the buffer, of a slot that no service pins
and with no operation waiting, leaves the load waiting; one of an invalid table is refused with RESULT 2, and of a pinned
slot with RESULT 1; the waiting operation is applied when no block in flight names the slot. The model's choices in it: log
127. -/
def Obligations.CodingTables : Prop :=
  ∀ (s : State) (slot : Nat), slot < 16 →
    (∀ tab, Reaches s CMP_TAB_CTL.off → tableOf (s.setFld CMP_TAB_CTL_SLOT slot).tabBuf = some tab → s.pins slot = 0 →
      s.mem.tableOp = none →
      Gives (.cmpTabLoad slot) s (((s.setFld CMP_TAB_CTL_SLOT slot).setMem { s.mem with
        tableOp := some (slot, some tab) }).setFld CMP_TAB_CTL_WAITING 1)) ∧
    (Reaches s CMP_TAB_CTL.off → tableOf (s.setFld CMP_TAB_CTL_SLOT slot).tabBuf = none →
      Gives (.cmpTabLoad slot) s (((s.setFld CMP_TAB_CTL_SLOT slot).setFld CMP_TAB_CTL_RESULT 2).setFld
        CMP_STATUS_TAB_REJ 1)) ∧
    (Reaches s CMP_TAB_CTL.off → s.pins slot = 0 → s.mem.tableOp = none →
      Gives (.cmpTabClear slot) s (((s.setFld CMP_TAB_CTL_SLOT slot).setMem { s.mem with
        tableOp := some (slot, none) }).setFld CMP_TAB_CTL_WAITING 1)) ∧
    (Reaches s CMP_TAB_CTL.off → 0 < s.pins slot →
      Gives (.cmpTabClear slot) s (((s.setFld CMP_TAB_CTL_SLOT slot).setFld CMP_TAB_CTL_RESULT 1).setFld
        CMP_STATUS_TAB_REJ 1)) ∧
    (∀ tab, s.power.tripped = false → s.mem.tableOp = some (slot, tab) → s.inFlight slot = 0 →
      ∃ t, exec .cmpTabApply s = .next t ∧ t.codeTable slot = tab ∧ (∀ k, k ≠ slot → t.codeTable k = s.codeTable k) ∧
        t.mem.tableOp = none ∧ t.fld CMP_TAB_CTL_WAITING = 0 ∧ t.fld CMP_TAB_CTL_RESULT = 0)

/-- Writes of a coded region's registers and of the pool's (R298, R339, R340): one that keeps the rules of R339 is stored, and
one that does not, or of a region that a service uses, or of the pool while POOL_EN is 1, is ignored with ACCESS. The
model's choices in it: log 129. -/
def Obligations.RegionAndPoolWrites : Prop :=
  ∀ (s : State) (v : Word) (w : DWord),
    (let k := s.fld CMP_REGION_SEL_REGION
     let t := s.setFld (CMP_REGION_BASE_BASE.bank k) (bitsOf w.toNat 39 9)
     Reaches s CMP_REGION_BASE.off →
      (s.regionUsed k = false → t.regionsOk = true → Gives (.cmpRegionWrite false w) s t) ∧
      (s.regionUsed k = true ∨ t.regionsOk = false → Gives (.cmpRegionWrite false w) s (s.setFld CMP_STATUS_ACCESS 1))) ∧
    (let k := s.fld CMP_REGION_SEL_REGION
     let t := (s.setFld (CMP_REGION_SIZE_EN.bank k) (bitsOf w.toNat 31 31)).setFld (CMP_REGION_SIZE_BLOCKS.bank k)
       (bitsOf w.toNat 22 0)
     Reaches s CMP_REGION_SIZE.off →
      (s.regionUsed k = false → t.regionsOk = true →
        Gives (.cmpRegionWrite true w) s (if !s.regionOn k && t.regionOn k then
          t.setMem { t.mem with map := Tab.keep t.mem.map fun n => n / 32768 != k } else t)) ∧
      (s.regionUsed k = true ∨ t.regionsOk = false → Gives (.cmpRegionWrite true w) s (s.setFld CMP_STATUS_ACCESS 1))) ∧
    (∀ size : Bool,
      let t := s.setFld (if size then MEM_POOL_SIZE_FRAMES else MEM_POOL_BASE_FRAME) (v.toNat % 65536)
      Reaches s (if size then MEM_POOL_SIZE.off else MEM_POOL_BASE.off) →
      (s.bit MEM_CTL_POOL_EN = false → (t.fld MEM_POOL_BASE_FRAME + t.fld MEM_POOL_SIZE_FRAMES) * frameBytes ≤ s.usable →
        t.regionsOk = true → Gives (.memPoolSettingWrite size v) s t) ∧
      (s.bit MEM_CTL_POOL_EN = true → Gives (.memPoolSettingWrite size v) s (s.setFld MEM_STATUS_ACCESS 1))) ∧
    (Reaches s MEM_CTL.off →
      let t := (s.setFld MEM_CTL_WARN (bitsOf v.toNat 15 8)).setFld MEM_CTL_REPAIR_EN (bitsOf v.toNat 2 2)
      (v.toNat.testBit 1 = true → Gives (.memPoolEnWrite v) s (t.setFld MEM_CTL_POOL_EN 1)) ∧
      (v.toNat.testBit 1 = false → s.mem.pool = [] → Gives (.memPoolEnWrite v) s (t.setFld MEM_CTL_POOL_EN 0)) ∧
      (v.toNat.testBit 1 = false → s.mem.pool ≠ [] → s.bit MEM_CTL_POOL_EN = true →
        Gives (.memPoolEnWrite v) s (t.setFld MEM_STATUS_ACCESS 1)))

/-- FILL of an aligned range in usable memory that no service holds writes its pattern to every byte of the range and to no
other, and ends OK (R28, R317). INPUT_DMA_DONE: the payload of the earliest SUBMIT_INPUT whose read does not wait lands in the
FILL buffer of the named input, which becomes READY; the READY buffer before it is discarded and its command ends; every other input
and service keeps what it has; a failed read ends the command; while the read waits nothing happens (R28, R383, R384,
R400). PROGRAM_COPY_DONE: a staged service's program lies in its tiles and clusters: each tile holds the image's initial words at
INIT_WORD, and each cluster word holds the last word that the packing places there (R133). ZERO_INIT_FILL_DONE: the staged
service's ZERO_INIT ranges, and those of the pool that hold frames, hold zeros, and no other usable byte has changed (R297). The
model's choices in it: log 76, 87. -/
def Obligations.CopiesAndInputsLand : Prop :=
  (∀ (s u : State) (c : HostCmd),
    (Begins s opFill c u →
      let a := leNat (slice c.bytes 16 5)
      let n := u64 c.bytes 24
      a % 256 = 0 → n % 256 = 0 → u.inUsable a n = true → u.serviceRange a (a + n) = false →
      ∃ t, exec .fill s = .next t ∧ Ended t c.id stOk 0 0 ∧ (∀ k, a ≤ k → k < a + n → t.inited k = true) ∧
        (∀ k, a ≤ k → k < a + n → t.dataByte k = (sliceZ c.bytes 32 4).getD (k % 4) 0) ∧
        (∀ k, k < u.usable → k < a ∨ a + n ≤ k → t.dataByte k = u.dataByte k) ∧
        KeepsRest { u with mem := t.mem, hif := t.hif } t ∧ KeepsRegs [] u t) ∧
    (s.power.tripped = false → (s.intake.inputDma.find? fun e => !(s.dmaHeld && s.inputHosted e)) = none →
      ∀ data, Gives (.inputDmaDone data) s s) ∧
    (∀ id n src, s.power.tripped = false →
      (s.intake.inputDma.find? fun e => !(s.dmaHeld && s.inputHosted e)) = some (id, n, src) →
      (∃ t, exec (.inputDmaDone none) s = .next t ∧ Over t id ∧ t.fld HIF_STATUS_DMA_ERR = 1 ∧
        t.intake = { s.intake with inputDma := s.intake.inputDma.filter fun e => e.1 != id } ∧
        KeepsRest { s with intake := t.intake, hif := t.hif } t ∧ KeepsRegs dmaErrKeys s t) ∧
      (∀ d i b rest, s.submitInputOf n src = some i →
        takeFirst (fun x : Buf => decide (x.state = .fill)) i.bufs = some (b, rest) →
        ∃ t, exec (.inputDmaDone (some d)) s = .next t ∧
          t.intake.inputDma = s.intake.inputDma.filter (fun e => e.1 != id) ∧
          t.intake.inputReady = (s.intake.inputReady.filter fun e => !(e.2.1 = n && e.2.2 = i.snap)) ++ [(id, n, i.snap)] ∧
          (∀ e ∈ s.intake.inputReady, e.2.1 = n → e.2.2 = i.snap → Over t e.1) ∧
          (t.svc n).inputs.length = (s.svc n).inputs.length ∧
          (∀ (k : Nat) (x : Input), (s.svc n).inputs[k]? = some x → x.snap ≠ i.snap → (t.svc n).inputs[k]? = some x) ∧
          (∀ k : Nat, (s.svc n).inputs[k]? = some i → ∃ (j : Input) (y : Buf), (t.svc n).inputs[k]? = some j ∧ y ∈ j.bufs ∧ y.state = .ready ∧
            y.words = (b.ofBytes (sliceZ d 0 i.bytes)).words ∧ y.landing = landingDigest kindSubmit (sliceZ d 0 i.bytes) ∧
            y.marked = 0 ∧ (∀ z ∈ j.bufs, z.state = .ready → z = y) ∧
            ∀ z ∈ rest, z.state ≠ .ready → z ∈ j.bufs) ∧
          (∀ m, m ≠ n → t.svc m = s.svc m) ∧
          KeepsRest { s with intake := t.intake, services := t.services, hif := t.hif } t ∧ KeepsRegs [] s t))) ∧
  (∀ (s : State) (n : Nat), s.power.tripped = false → (s.svc n).phase = .staged →
    ((s.svc n).copied = false → s.schUp = true →
      let b := (s.svc n).image
      ∃ t, exec (.programCopyDone n) s = .next t ∧ t.svc n = { s.svc n with copied := true } ∧
        (∀ k, k ≠ n → t.svc k = s.svc k) ∧
        (∀ o ∈ imgTiles b, t.fld (TIL_CFG_STAGE.tile o) = imgStage b o % 4 ∧
          (∀ k w, (words128 (imgInit b o))[k]? = some w →
            Tab.look (t.tileOf o).store (imgInitWord b o + k) = some (CWord.enc (imgInitWord b o + k) ⟨w, false⟩)) ∧
          ∀ k, k < imgInitWord b o ∨ imgInitWord b o + (words128 (imgInit b o)).length ≤ k →
            Tab.look (t.tileOf o).store k = Tab.look (s.tileOf o).store k) ∧
        (∀ o, o ∉ imgTiles b → t.tileOf o = s.tileOf o) ∧
        (∀ c ∈ imgClusters b, ∀ k, k < 262144 →
          match (packWords b c).reverse.find? (fun e => e.1 == k) with
          | some e => Tab.look (t.clusterOf c).store k = some (CWord.enc k ⟨e.2, false⟩)
          | none => (s.clusterOf c).segs.getLsbD (k / 4096) = true →
              Tab.look (t.clusterOf c).store k = Tab.look (s.clusterOf c).store k) ∧
        (∀ c, c ∉ imgClusters b → t.clusterOf c = s.clusterOf c) ∧
        KeepsRest { s with services := t.services, tiles := t.tiles, clusters := t.clusters } t ∧
        KeepsRegs ((imgTiles b).map fun o => (TIL_CFG_STAGE.tile o).off) s t) ∧
    ((s.svc n).zeroed = false → (∀ r ∈ s.mem.pool, r.wherein ≠ .writingBack) →
      let rs := (imgMemRanges (s.svc n).image).filter (·.zero)
      let ps := (s.poolOf n).filter fun r => (rs.map (·.num)).contains r.range && decide (r.wherein = .held)
      (∀ r ∈ rs, r.pool = false → r.base % 16 = 0 ∧ r.size % 16 = 0 ∧ r.base + r.size ≤ s.usable) →
      (∀ r ∈ ps, r.base % 16 = 0 ∧ r.size % 16 = 0 ∧ r.frames.length = r.pages ∧
        ∀ f ∈ r.frames, (f + 1) * frameBytes ≤ s.usable) →
      ∃ t, exec (.zeroInitFillDone n) s = .next t ∧ t.svc n = { s.svc n with zeroed := true } ∧
        (∀ k, k ≠ n → t.svc k = s.svc k) ∧
        (∀ r ∈ rs, r.pool = false → ∀ k, r.base ≤ k → k < r.base + r.size → t.dataByte k = 0) ∧
        (∀ r ∈ ps, ∀ o, r.base ≤ o → o < r.base + r.size → t.dataByte (r.place o) = 0) ∧
        (∀ k, k < s.usable → (∀ r ∈ rs, r.pool = false → k < r.base ∨ r.base + r.size ≤ k) →
          (∀ r ∈ ps, ∀ o, r.base ≤ o → o < r.base + r.size → r.place o ≠ k) → t.dataByte k = s.dataByte k) ∧
        KeepsRest { s with services := t.services, mem := t.mem } t ∧ KeepsRegs [] s t))

/-! ### Security, signed commands and SPP_SPI (R443 to R446, R464 to R470, R512, R513) -/

/-- Loading (R443 to R446, R483, R508): GO while no core runs begins a load over PCIe, and one after the cores run is refused
with RESULT 5. A bundle in order, all of whose images verify, starts every core, from flash as over PCIe; a bundle that
fails starts none: RESULT says why, or BOOT_FAIL is set where the device boots standalone. A bundle over PCIe waits while host DMA does (R383,
R384). The model's choices in it: log
164, 188. -/
def Obligations.LoadsStartEveryCoreOrNone : Prop :=
  ∀ (s : State),
    (Reaches s SEC_BOOT_CTL.off → s.bit SEC_BOOT_CTL_BUSY = false → s.boot.coresUp = false → s.dev = stReleased →
      (s.standalone = false ∨ s.boot.bootFailed = true) →
      Gives .secBootGo s ((s.setFld SEC_BOOT_CTL_BUSY 1).setFld SEC_BOOT_CTL_RESULT 0)) ∧
    (Reaches s SEC_BOOT_CTL.off → s.bit SEC_BOOT_CTL_BUSY = false → s.boot.coresUp = true →
      Gives .secBootGo s (s.setFld SEC_BOOT_CTL_RESULT 5)) ∧
    (s.power.tripped = false → s.dmaHeld = true → ∀ bundle, Gives (.hostedLoadDone bundle) s s) ∧
    (s.power.tripped = false → s.dmaHeld = false → s.bit SEC_BOOT_CTL_BUSY = true →
      (∃ t, exec (.hostedLoadDone none) s = .next t ∧ t.fld SEC_BOOT_CTL_RESULT = 4 ∧ t.fld SEC_BOOT_CTL_BUSY = 0 ∧
        t.fld HIF_STATUS_DMA_ERR = 1 ∧ KeepsRest s t ∧ KeepsRegs (SEC_BOOT_CTL.off :: dmaErrKeys) s t) ∧
      (∀ b, bundleOk (sliceZ b 0 (s.fld SEC_BOOT_LEN_BYTES)) = false →
        Gives (.hostedLoadDone (some b)) s ((s.setFld SEC_BOOT_CTL_BUSY 0).setFld SEC_BOOT_CTL_RESULT 2)) ∧
      (∀ b, (s.checkBundle (sliceZ b 0 (s.fld SEC_BOOT_LEN_BYTES))).2 = stOk →
        ∃ t, exec (.hostedLoadDone (some b)) s = .next t ∧ Loaded t (sliceZ b 0 (s.fld SEC_BOOT_LEN_BYTES)) ∧
          t.fld SEC_BOOT_CTL_RESULT = 1 ∧ t.fld SEC_BOOT_CTL_BUSY = 0 ∧ Sends s t (.avsRate 5) ∧
          KeepsRest { s with cores := t.cores, boot := { s.boot with coresUp := true }, power := t.power } t ∧
          KeepsRegs (coreKeys ++ [SEC_BOOT_CTL.off, HIF_STATUS.off, HIF_EMU_CTL.off, PWR_CLK.off, PWR_AVS.off,
            SEC_STATUS.off]) s t)) ∧
    (s.power.tripped = false → s.dev = stReleased → s.standalone = true → s.boot.coresUp = false → s.boot.bootFailed = false →
      (∀ b, u32 s.cfgDev 32 ≠ 0 → (s.checkBundle (sliceZ b 0 (u32 s.cfgDev 36))).2 = stOk →
        ∃ t, exec (.standaloneBootDone (some b)) s = .next t ∧ Loaded t (sliceZ b 0 (u32 s.cfgDev 36)) ∧
          Sends s t (.avsRate 5) ∧
          KeepsRest { s with cores := t.cores, boot := { s.boot with coresUp := true }, power := t.power } t ∧
          KeepsRegs (coreKeys ++ [HIF_STATUS.off, HIF_EMU_CTL.off, PWR_CLK.off, PWR_AVS.off, SEC_STATUS.off]) s t) ∧
      (∀ bundle : Option Bytes, (∀ b, bundle = some b → (s.checkBundle (sliceZ b 0 (u32 s.cfgDev 36))).2 ≠ stOk) →
        ∃ t, exec (.standaloneBootDone bundle) s = .next t ∧ t.fld SEC_FW_STATUS_BOOT_FAIL = 1 ∧
          KeepsRest { s with boot := { s.boot with bootFailed := true } } t ∧
          KeepsRegs [SEC_FW_STATUS.off, SEC_STATUS.off, SEC_VERIFY_FAIL_COUNT.off] s t))

/-- The fuse operations (R512, R513): PROVISION where no owner is fused and SVN_COMMIT with no image staged begin, and are
refused with RESULT 2 and RESULT 3 otherwise; the owner's hash is fused, and MIN_SVN rises and never falls. The model's
choices in it: log 184. -/
def Obligations.FuseOperations : Prop :=
  ∀ (s : State),
    (Reaches s SEC_CTL.off → s.bit SEC_CTL_BUSY = false → s.secUp = true →
      (s.boot.fuses.ownerHash = none → Gives .provision s
        (((s.setBoot { s.boot with secOp := some (.provision s.provBuf) }).setFld SEC_CTL_BUSY 1).setFld SEC_CTL_RESULT 0)) ∧
      (s.boot.fuses.ownerHash ≠ none → Gives .provision s ((s.setFld SEC_CTL_RESULT 2).setFld SEC_STATUS_CMD_REJ 1)) ∧
      (s.fwPending = false → Gives .svnCommit s
        (((s.setBoot { s.boot with secOp := some (.svn s.svnFloor) }).setFld SEC_CTL_BUSY 1).setFld SEC_CTL_RESULT 0)) ∧
      (s.fwPending = true → Gives .svnCommit s ((s.setFld SEC_CTL_RESULT 3).setFld SEC_STATUS_CMD_REJ 1))) ∧
    (∀ key, s.power.tripped = false → s.boot.secOp = some (.provision key) →
      Gives (.secOperationDone true) s ((((s.setBoot { s.boot with
          secOp := none, fuses := { s.boot.fuses with ownerHash := some (sha512_256 key) } }).setFld SEC_CTL_BUSY 0).setFld
        SEC_CTL_RESULT 1).setFld SEC_STATUS_PROVISIONED 1)) ∧
    (∀ v, s.power.tripped = false → s.boot.secOp = some (.svn v) → s.boot.fuses.minSvn < v →
      Gives (.secOperationDone true) s ((((s.setBoot { s.boot with
          secOp := none, fuses := { s.boot.fuses with minSvn := v } }).setFld SEC_CTL_BUSY 0).setFld
        SEC_CTL_RESULT 1).setFld SEC_STATUS_SVN_RAISED 1)) ∧
    (∀ v ok, s.power.tripped = false → s.boot.secOp = some (.svn v) → v ≤ s.boot.fuses.minSvn →
      Gives (.secOperationDone ok) s (((s.setBoot { s.boot with secOp := none }).setFld SEC_CTL_BUSY 0).setFld
        SEC_CTL_RESULT 1))

/-- Signed commands (R470): GO submits the buffer while SEC runs; a command with a wrong format ends with RESULT 3, and one that
verifies, names this device and has a SEQ above the last one ends with RESULT 1, its SEQ is kept and its set waits for a
boundary. The model's choices in it: log 180. -/
def Obligations.SignedCommands : Prop :=
  ∀ (s : State),
    (Reaches s SPP_SCMD_CTL.off → s.sppOn = true → s.spp.checking = none → s.secUp = true →
      Gives .sppScmdGo s (((s.setSpp { s.spp with checking := some s.scmdBuf }).setFld SPP_SCMD_CTL_BUSY 1).setFld
        SPP_SCMD_CTL_RESULT 0)) ∧
    (∀ b, s.power.tripped = false → s.spp.checking = some b → s.secUp = true → s.secQuiet = false →
      s.boot.soundpostWait = false → s.boot.startDue = false → s.sppOn = true →
      ∃ t, exec .signedCommandChecked s = .next t ∧ t.fld SPP_SCMD_CTL_RESULT = s.scmdResult b ∧
        t.fld SPP_SCMD_CTL_BUSY = 0 ∧ t.spp.checking = none ∧ (scmdFormat b = false → t.fld SPP_SCMD_CTL_RESULT = 3) ∧
        (s.scmdResult b = 1 → t.fld SPP_SEQ_SEQ = u32 b 16 ∧
          t.spp.signedSets = s.spp.signedSets ++ [{ records := scmdRecords b, since := s.now, start := false }]) ∧
        (s.scmdResult b ≠ 1 → t.fld SPP_STATUS_SCMD_REJ = 1 ∧ t.fld SPP_SEQ_SEQ = s.fld SPP_SEQ_SEQ ∧
          t.spp.signedSets = s.spp.signedSets) ∧
        KeepsRest { s with spp := t.spp } t ∧
        KeepsRegs [SPP_SCMD_CTL.off, SPP_SEQ.off, SPP_STATUS.off, SEC_STATUS.off, SEC_VERIFY_FAIL_COUNT.off] s t)

/-- The bytes of a controller carry a transaction of 128 edges with the right check (R469). -/
def Carries (mosi : Bytes) (op o v : Nat) : Prop :=
  let b := sliceZ mosi 0 9
  crc16 (b.take 7) = u16 b 7 ∧ u8 b 0 = op ∧ u16 b 1 = o ∧ u32 b 3 = v

/-- SPP_SPI (R469): READ answers the register in force, WRITE adds a record to the shadow set, COMMIT submits the set unless one
waits, ABORT empties it, STATUS answers SPP_COMMIT; each answer has RESULT 0. One whose check fails does nothing but answer 1. -/
def Obligations.SpiTransactions : Prop :=
  ∀ (s : State) (mosi : Bytes) (o v : Nat), s.power.tripped = false → s.spiUp = true →
    (∀ r start off, Carries mosi 1 o v → spiReg o = some (r, start, off) → start ≠ PWR_POWER.off →
      Sending (.sppSpiRead mosi 128) s s [.spi (spiAnswer 0 (s.peek32 r start off))]) ∧
    (∀ r start off, Carries mosi 2 o v → spiReg o = some (r, start, off) → s.sppOn = true →
      Sending (.sppSpiWrite mosi 128) s
        (s.setSpp { s.spp with shadow := s.spp.shadow ++ [(off, BitVec.ofNat 32 v)] }) [.spi (spiAnswer 0 0)]) ∧
    (Carries mosi 3 o v → spiOffset o ≠ none → s.sppOn = true →
      (s.spp.spiSet = none → Sending (.sppSpiCommit mosi 128) s (s.setSpp { s.spp with
        shadow := [], spiSet := some { records := s.spp.shadow, since := s.now, start := false } }) [.spi (spiAnswer 0 0)]) ∧
      (s.spp.spiSet ≠ none → Sending (.sppSpiCommit mosi 128) s s [.spi (spiAnswer 3 0)])) ∧
    (Carries mosi 4 o v → spiOffset o ≠ none →
      Sending (.sppSpiAbort mosi 128) s (s.setSpp { s.spp with shadow := [] }) [.spi (spiAnswer 0 0)]) ∧
    (Carries mosi 5 o v → spiOffset o ≠ none →
      Sending (.sppSpiStatus mosi 128) s s
        [.spi (spiAnswer 0 (s.viewSpp SPP_COMMIT.off (s.regAt SPP_COMMIT.off) % 2 ^ 32))]) ∧
    (crc16 ((sliceZ mosi 0 9).take 7) ≠ u16 (sliceZ mosi 0 9) 7 → ∀ c : Instr,
      c = .sppSpiRead mosi 128 ∨ c = .sppSpiWrite mosi 128 ∨ c = .sppSpiCommit mosi 128 ∨ c = .sppSpiAbort mosi 128 ∨
        c = .sppSpiStatus mosi 128 →
      ∃ t, exec c s = .next t ∧ Sends s t (.spi (spiAnswer 1 0)) ∧ KeepsRest s t ∧ KeepsRegs [SPP_STATUS.off] s t)

/-! ### Writes of the consort, power, event and video registers -/

/-- Host writes of CNS_CTL, CNS_EPOCH_CTL and CNS_PLANk (R421, R427, R437): the fields are stored; LEAVE in an epoch ends it at
the next boundary; FORM and DISSOLVE of a device that does not lead are ignored with ACCESS, those of the leader form the
epoch or name the tick of its end; a plan byte of a staged or running service stays, and its write sets ACCESS. The model's choices in it: log 19, 156. -/
def Obligations.ConsortWrites : Prop :=
  ∀ (s : State) (v : Word),
    (Reaches s CNS_CTL.off → (s.cnsOn = false ∨ bitsOf v.toNat 28 28 = s.fld CNS_CTL_PORT) →
      (s.cnsOn = false ∨ v.toNat.testBit 31 = true) → ∀ c : Instr, c = .cnsLeave v ∨ c = .cnsEnWrite v →
      ∃ t, exec c s = .next t ∧ t.fld CNS_CTL_EN = bitsOf v.toNat 31 31 ∧ t.fld CNS_CTL_AUTO_REJOIN = bitsOf v.toNat 30 30 ∧
        t.fld CNS_CTL_PORT = bitsOf v.toNat 28 28 ∧ t.fld CNS_CTL_PCP_TOKEN = bitsOf v.toNat 27 25 ∧
        t.fld CNS_CTL_PCP_TENSOR = bitsOf v.toNat 24 22 ∧ t.fld CNS_CTL_VLAN = bitsOf v.toNat 21 19 ∧
        KeepsRest { s with consort := { s.consort with leave := s.consort.leave || (v.toNat.testBit 29 && s.inEpoch) } } t ∧
        KeepsRegs [CNS_CTL.off] s t) ∧
    (Reaches s CNS_EPOCH_CTL.off → s.cnsLeader = false → (v.toNat.testBit 31 = true ∨ v.toNat.testBit 30 = true) →
      ∀ c : Instr, c = .form v ∨ c = .dissolve v →
      Gives c s ((s.setFld CNS_EPOCH_CTL_MASK (bitsOf v.toNat 15 0)).setFld CNS_STATUS_ACCESS 1)) ∧
    (Reaches s CNS_EPOCH_CTL.off → s.cnsLeader = true → v.toNat.testBit 31 = true → v.toNat.testBit 30 = false →
      Gives (.form v) s ((s.setFld CNS_EPOCH_CTL_MASK (bitsOf v.toNat 15 0)).setCns { s.consort with form := true })) ∧
    (Reaches s CNS_EPOCH_CTL.off → s.cnsLeader = true → s.inEpoch = true → v.toNat.testBit 31 = false →
      v.toNat.testBit 30 = true →
      ∃ t, exec (.dissolve v) s = .next t ∧ t.consort.dissolve = some (s.ctick + cnsLead).toNat ∧
        t.consort.endAt = some (s.ctick + cnsLead).toNat) ∧
    (∀ k, k < 16 → Reaches s (CNS_PLAN.off + 4 * k) →
      ∃ t, exec (.cnsPlanWrite k v) s = .next t ∧
        (∀ b, b < 4 → t.planByte (4 * k + b) =
          if (s.svc (4 * k + b)).phase.holds then s.planByte (4 * k + b) else bitsOf v.toNat (8 * b + 7) (8 * b)) ∧
        ((∃ b, b < 4 ∧ (s.svc (4 * k + b)).phase.holds = true) → t.fld CNS_STATUS_ACCESS = 1) ∧
        KeepsRest s t ∧ KeepsRegs [CNS_PLAN.off + 4 * k, CNS_STATUS.off] s t)

/-- A host write of PWR_CTL stores PF_CLAMP and ENV_REQ, and PMC moves the rail to V_E of the envelope asked for when that
differs from what the regulator has reached; while PMC is down a change of ENV_REQ is ignored with ACCESS (R480, R483,
R486). The model's choices in it: log 172. -/
def Obligations.EnvelopeRequests : Prop :=
  ∀ (s : State) (v : Word), Reaches s PWR_CTL.off →
    (s.pmcDown = false →
      ∃ t, exec (.envReqWrite v) s = .next t ∧ t.fld PWR_CTL_ENV_REQ = bitsOf v.toNat 1 0 ∧
        t.fld PWR_CTL_PF_CLAMP = bitsOf v.toNat 7 7 ∧ KeepsRest { s with power := t.power } t ∧
        KeepsRegs [PWR_CTL.off, PWR_AVS.off] s t ∧
        (s.up = true → s.pmcFree = true → s.power.railGoal = none → s.power.write = none → s.envForced = false → s.bit PWR_EMERG_REG_FAULT = false →
          s.bit PWR_EMERG_PWR_FAIL = false →
          let e := min (min 2 (bitsOf v.toNat 1 0)) (s.fld SPP_LIMIT_ENV_MAX)
          let mv := max (s.vE e) (s.vE s.env)
          mv ≠ s.power.acked → 500 ≤ mv → mv ≤ 900 →
          Sent s t [.avs mv] ∧ t.fld PWR_AVS_VSET = mv ∧ t.fld PWR_AVS_BUSY = 1 ∧ t.fld PWR_AVS_VDONE = 0)) ∧
    (s.pmcDown = true → bitsOf v.toNat 1 0 ≠ s.fld PWR_CTL_ENV_REQ →
      Gives (.envReqWrite v) s ((s.setFld PWR_CTL_PF_CLAMP (bitsOf v.toNat 7 7)).setFld PWR_STATUS_ACCESS 1))

/-- Requests for sleep (R493, R500): one that passes every check is at work with RESULT 0 and PWR_STATE ENTERING; one that does
not is refused with its cause in RESULT and SLEEP_REJ. A wake source that is enabled wakes a device in REST or PIZZICATO
whose reference clock runs: PWR_WAKE_CTL.CAUSE names it and PWR_STATE is WAKING (R496, R497, R574). Releasing the pads in
ACTIVE clears HOLD, and every held pin takes its functional level (R498). The model's choices in it: log 173, 174. -/
def Obligations.SleepIsRequestedAndLeft : Prop :=
  (∀ (s : State) (c : Instr) (pizzicato : Bool),
    (c = .sleepReqRest ∧ pizzicato = false ∨ c = .sleepReqPizzicato ∧ pizzicato = true) → Reaches s PWR_SLEEP_CTL.off →
    (s.sleepCause pizzicato = 0 → Gives c s ((((s.setPower { s.power with
      sleepReq := some pizzicato, lastBoundary := false, wakeCause := none }).setFld PWR_SLEEP_CTL_BUSY 1).setFld
      PWR_SLEEP_CTL_RESULT 0).setFld PWR_STATE_STATE slEntering)) ∧
    (s.sleepCause pizzicato ≠ 0 →
      Gives c s ((s.setFld PWR_SLEEP_CTL_RESULT (s.sleepCause pizzicato)).setFld PWR_STATUS_SLEEP_REJ 1))) ∧
  (∀ (s : State) (c : Instr) (cause : Nat),
    (c = .pwrWakeGo ∧ cause = 3 ∧ Reaches s PWR_WAKE.off ∧ s.bit PWR_WAKE_CTL_PCIE_EN = true ∨
      (∃ port frame, c = .ethWakeFrame port frame ∧ cause = 1 + port ∧ port < 2 ∧ s.linkUp port = true ∧
        s.passesWake port frame = true ∧ s.power.tripped = false) ∨
      (∃ falling, c = .tickInWake falling ∧ cause = 4 ∧ s.bit PWR_WAKE_CTL_TICKIN_EN = true ∧
        s.bit TCK_TICKIN_EDGE = falling ∧ s.power.tripped = false)) →
    s.asleep = true → s.sleepState ≠ slWaking → s.power.refclk = true → s.power.wakeCause = none →
    ∃ t, exec c s = .next t ∧ t.fld PWR_WAKE_CTL_CAUSE = cause ∧ t.sleepState = slWaking ∧ t.power.wakeCause = some cause ∧
      (s.power.pzActive = false → KeepsRest { s with power := t.power } t ∧
        KeepsRegs [PWR_WAKE_CTL.off, PWR_STATE.off] s t)) ∧
  (∀ (s : State), Reaches s PWR_PAD_CTL.off → s.bit PWR_PAD_CTL_HOLD = true → s.sleepState = slActive →
    Sending .padRelease s (s.setFld PWR_PAD_CTL_HOLD 0)
      [.pin "TICK_OUT" false, .pin "PPS_OUT" false, .pin "ALERT_A_N" s.alertALevel, .pin "ALERT_B_N" s.alertBLevel,
        .pin "HB_OUT" (s.bit SPP_STATE_HB), .drive "XSPI" s.xspiOn])

/-- What a device reset makes of the state (R537). -/
def ResetBy (s t : State) (kind : Nat) : Prop :=
  t.dev = stConfigLoad ∧ t.fld ID_RESET_KIND = kind ∧
    t.fld ID_RESET_COUNT = min 0xFFFF (s.fld ID_RESET_COUNT + 1) ∧ t.services = [] ∧ t.staged = [] ∧ t.tiles = [] ∧
    t.hif.accepted = [] ∧ t.hif.cmdRings = [] ∧ t.tick = s.tick ∧ t.mem.cells = s.mem.cells ∧
    t.mem.init = s.mem.init ∧ t.boot.fuses = s.boot.fuses ∧ t.spp.signedSets = s.spp.signedSets ∧
    t.nv.tablesA = s.nv.tablesA ∧ t.nv.slotsA = s.nv.slotsA

/-- A device reset that PCIe or SMBus asks for with the key (R537): the device is in CONFIG_LOAD, ID_RESET tells of it, every
service, staged change, tile store and ring is gone, and the registers of PWR and SPP, the tick count, LPDDR content and the
fuses are kept; one with a wrong key is refused with RESULT 3, and one while a class A service runs with RESULT 2. The
model's choices in it: log 24, 52, 186, 190. -/
def Obligations.DeviceResets : Prop :=
  ∀ (s : State) (v : Word), v.toNat.testBit 0 = true →
    (Reaches s ID_RESET_CTL.off →
      (bitsOf v.toNat 31 16 = resetKey → s.stagedA = false → s.up = true →
        ∃ t, exec (.deviceResetRequest v) s = .next t ∧ ResetBy s t 1) ∧
      (bitsOf v.toNat 31 16 ≠ resetKey → Gives (.deviceResetRequest v) s (s.setFld ID_RESET_CTL_RESULT 3)) ∧
      (bitsOf v.toNat 31 16 = resetKey → (s.stagedA = true ∨ s.up = false) →
        Gives (.deviceResetRequest v) s (s.setFld ID_RESET_CTL_RESULT 2))) ∧
    (s.smbusUp = true → s.power.tripped = false → ∀ pec, pecOk 0x12 (leBytes 4 ID_RESET_CTL.off ++ leBytes 4 v.toNat) pec = true →
      (bitsOf v.toNat 31 16 = resetKey → s.stagedA = false → s.up = true →
        ∃ t, exec (.smbusWrite ID_RESET_CTL.off v pec) s = .next t ∧ ResetBy s t 2) ∧
      (bitsOf v.toNat 31 16 ≠ resetKey → Gives (.smbusWrite ID_RESET_CTL.off v pec) s (s.setFld ID_RESET_CTL_RESULT 3)) ∧
      (bitsOf v.toNat 31 16 = resetKey → (s.stagedA = true ∨ s.up = false) →
        Gives (.smbusWrite ID_RESET_CTL.off v pec) s (s.setFld ID_RESET_CTL_RESULT 2)))

/-- Writes of the registers of a stream, an encoder, the video memory and a port (R361, R378, R380, R342): a stream whose frames
fit the video memory is enabled with its settings; an encoder that is not enabled, and a port that is not enabled, take
theirs; the video memory moves only while no stream and no encoder is enabled. The model's choices in it: log 19, 143. -/
def Obligations.VideoAndPortWrites : Prop :=
  ∀ (s : State) (v : Word),
    (let k := s.fld VID_STREAM_SEL_SEL
     Reaches s VID_STREAM_CTL.off → s.streamOn k = false → v.toNat.testBit 31 = true →
      s.vidUsable = true → s.streamFrames + bitsOf v.toNat 20 13 ≤ s.fld VID_MEM_SIZE_FRAMES →
      ∃ t, exec (.vidStreamCtlWrite v) s = .next t ∧ t.streamOn k = true ∧
        t.fld (VID_STREAM_CTL_PORT.bank k) = bitsOf v.toNat 30 29 ∧ t.fld (VID_STREAM_CTL_CODEC.bank k) = bitsOf v.toNat 28 28 ∧
        t.fld (VID_STREAM_CTL_PT.bank k) = bitsOf v.toNat 27 21 ∧ t.fld (VID_STREAM_CTL_MEM.bank k) = bitsOf v.toNat 20 13 ∧
        t.fld (VID_STREAM_CTL_JITTER_MS.bank k) = bitsOf v.toNat 12 5 ∧ t.fld (VID_STREAM_STAT_STATE.bank k) = vsWait) ∧
    (let k := s.fld VID_ENC_SEL_SEL % 16
     Reaches s VID_ENC_CTL.off → s.bit (VID_ENC_CTL_EN.bank k) = false → v.toNat.testBit 31 = false →
      ∃ t, exec (.vidEncCtlWrite v) s = .next t ∧ t.fld (VID_ENC_CTL_EN.bank k) = 0 ∧
        t.fld (VID_ENC_CTL_CODEC.bank k) = bitsOf v.toNat 30 30 ∧ t.fld (VID_ENC_CTL_SCALE.bank k) = bitsOf v.toNat 29 28 ∧
        t.fld (VID_ENC_CTL_EGR.bank k) = bitsOf v.toNat 27 24 ∧ t.fld (VID_ENC_CTL_STREAM.bank k) = bitsOf v.toNat 23 19 ∧
        t.fld (VID_ENC_CTL_SERVICE.bank k) = bitsOf v.toNat 18 13 ∧ t.fld (VID_ENC_CTL_GOP.bank k) = bitsOf v.toNat 12 5 ∧
        KeepsRest { s with intake := t.intake } t ∧ KeepsRegs [(VID_ENC_CTL_EN.bank k).off] s t) ∧
    (∀ size : Bool,
      let t := s.setFld (if size then VID_MEM_SIZE_FRAMES else VID_MEM_BASE_FRAME) (v.toNat % 65536)
      Reaches s (if size then VID_MEM_SIZE.off else VID_MEM_BASE.off) →
      ((∀ k, k < 32 → s.streamOn k = false) → (∀ k, k < 16 → s.bit (VID_ENC_CTL_EN.bank k) = false) →
        t.vidMeets = false → Gives (.vidMemWrite size v) s t) ∧
      (∀ k, k < 32 → s.streamOn k = true → Gives (.vidMemWrite size v) s (s.setFld VID_STATUS_ACCESS 1))) ∧
    (∀ p, p < 2 → Reaches s (INT_PORT_CTL.off + 4 * p) → s.portOn p = false →
      ∃ t, exec (.intPortCtlWrite p v) s = .next t ∧ t.fld (portCtl INT_PORT_CTL_EN p) = bitsOf v.toNat 0 0 ∧
        t.fld (portCtl INT_PORT_CTL_SPEED p) = bitsOf v.toNat 1 1 ∧ t.fld (portCtl INT_PORT_CTL_FEC p) = bitsOf v.toNat 5 4 ∧
        t.fld (portCtl INT_PORT_CTL_ICMP_EN p) = bitsOf v.toNat 6 6 ∧
        t.fld (portCtl INT_PORT_CTL_UNTAGGED_EN p) = bitsOf v.toNat 7 7 ∧
        t.fld (portCtl INT_PORT_CTL_PREFIX p) = bitsOf v.toNat 13 8 ∧ KeepsRest s t ∧
        KeepsRegs [INT_PORT_CTL.off + 4 * p] s t)

/-! ### Register accesses in general (R10 to R15, R316, R386, R407, R551) -/

/-- Blocks and registers whose host writes go by the access codes alone. -/
def plainReg (off : Nat) : Bool :=
  (off / 0x100000 == 6 && off != INT_PORT_CTL.off && off != INT_PORT_CTL.off + 4) ||
    (off / 0x100000 == 4 && off != NVS_PAGE_CTL.off) || off == EVT_CTL.off

/-- A 32-bit write under the access codes (R10, R11): every RW bit takes the value's, every RW1C bit that is written 1 clears,
and every other bit stays; nothing else changes. A partial write has no effect (R14). The halves of a 64-bit register (R13):
a read of the low half returns it and latches the high half, a write of the low half is held until the high half is written;
a 64-bit read returns the whole register, and a read with partial byte enables returns the bytes requested and latches nothing.
A write of 1 to the SAT bit of a counter of the common layout zeroes it (R551); an occurrence in that cycle is counted after the clear,
and one that saturates the counter leaves SAT at 1 and COUNT at its maximum (R553). The event log's read index moves on within
the unread records, and a write past them is ignored with ACCESS (R547). The model's choices in it: log 38. -/
def Obligations.RegistersFollowTheirAccessCodes : Prop :=
  (∀ (s : State) (off : Nat) (r : Reg) (v : DWord), findReg off = some (r, off) → r.width = 32 → plainReg off = true →
    Reaches s off →
    (∃ t, exec (.registerWrite off false v) s = .next t ∧ KeepsRest s t ∧ KeepsRegs [off] s t ∧
      ∀ i, i < 32 →
        ((r.maskOf (· == .rw)).testBit i = true → (r.maskOf (· == .rw1c)).testBit i = false →
          (t.regAt off).testBit i = v.toNat.testBit i) ∧
        ((r.maskOf (· == .rw)).testBit i = false → (r.maskOf (· == .rw1c)).testBit i = true →
          (t.regAt off).testBit i = ((s.regAt off).testBit i && !v.toNat.testBit i)) ∧
        ((r.maskOf (· == .rw)).testBit i = false → (r.maskOf (· == .rw1c)).testBit i = false →
          (t.regAt off).testBit i = (s.regAt off).testBit i)) ∧
    Gives (.partialByteWrite off) s s) ∧
  (∀ (s : State) (off : Nat) (r : Reg), findReg off = some (r, off) → r.width = 64 →
    (s.power.tripped = false → s.delivered = true → s.shows off = true → blockOf off ≠ 13 → cfgSpace off = false →
      Sending (.reg64LowHalfRead ⟨off, true, 0xFF⟩) s s [.read (leBytes 8 (s.view r off)) false] ∧
      (∀ en, en < 15 → Sending (.reg64LowHalfRead ⟨off, false, en⟩) s s
        [.read (enabledBytes en (leBytes 4 (s.view r off % 2 ^ 32))) false]) ∧
      Sending (.reg64LowHalfRead ⟨off, false, 0xF⟩) s
        (s.setHif { s.hif with latched := Tab.put s.hif.latched off (BitVec.ofNat 32 (s.view r off / 2 ^ 32)) })
        [.read (leBytes 4 (s.view r off % 2 ^ 32)) false]) ∧
    (∀ v : Word, Reaches s off → blockOf off ≠ 11 → blockOf off ≠ 14 →
      Gives (.reg64LowHalfWrite off v) s
        (s.setHif { s.hif with heldLow := Tab.put s.hif.heldLow off (BitVec.ofNat 32 v.toNat) })) ∧
    (Reaches s off → r.isCounter = true → blockOf off = 4 ∨ blockOf off = 5 ∨ blockOf off = 6 →
      ∀ n, n < 2 ^ 48 → ∃ t, exec (.counterSatClear ⟨off, n⟩) s = .next t ∧ KeepsRest s t ∧ KeepsRegs [off] s t ∧
        t.regAt off = if (s.regAt off).testBit 63 = false ∧ 2 ^ 48 ≤ s.regAt off % 2 ^ 48 + n then 2 ^ 63 + (2 ^ 48 - 1) else n)) ∧
  (∀ (s : State) (v : Word), Reaches s EVT_LOG_RD.off → NoneWaiting s →
    ((v.toNat % 65536 + 65536 - s.fld EVT_LOG_RD_INDEX) % 65536 ≤ s.unread →
      ∃ t, exec (.evtLogRdWrite v) s = .next t ∧ t.fld EVT_LOG_RD_INDEX = v.toNat % 65536 ∧ KeepsRest s t ∧
        KeepsRegs [] s t) ∧
    (s.unread < (v.toNat % 65536 + 65536 - s.fld EVT_LOG_RD_INDEX) % 65536 →
      ∃ t, exec (.evtLogRdWrite v) s = .next t ∧ t.fld EVT_LOG_RD_INDEX = s.fld EVT_LOG_RD_INDEX ∧
        t.fld EVT_STATUS_ACCESS = 1 ∧ KeepsRest s t ∧ KeepsRegs [] s t))

/-- UNMAPPED_ACCESS: an access to an offset that holds no register, or to a block that is hidden, changes nothing, and a read of it
returns 0 (R15). BAR4_READ and BAR4_WRITE reach the memory behind the window: a read returns its bytes and changes no data; a write
stores exactly the bytes given, what a narrow end leaves of its word being what the read of that word gives (R316, R318, R386); a
write to a range of an admitted service is ignored; an access outside usable memory reads as 0, changes no data and sets
MEM_STATUS.ACCESS with a record of KIND 4 (R322); a sleeping device records nothing. BAR2 emulation (R407): while it is off an
access changes nothing and a read returns 0; while it is on and SCH runs an access is taken, and a read returns four bytes; while
SCH is down a read returns all ones and EMU_LOST is set; a sleeping device answers 0. A write stores the window's base (R386); EN is
stored while every ring that emulation takes is disabled, and ACTIVE follows it while SCH runs and reads 0 while it is down;
otherwise the write is ignored with ACCESS. The model's choices in it: log 7, 40, 41, 51. -/
def Obligations.TheOtherBarsAnswer : Prop :=
  (∀ (s : State) (off : Nat), s.power.tripped = false → s.delivered = true →
    (findReg off = none ∨ s.shows off = false → Sending (.unmappedAccess off false) s s [.read (leBytes 4 0) false] ∧
      Gives (.unmappedAccess off true) s s) ∧
    (∀ n, s.asleep = false → s.inUsable (s.bar4Addr off) n = true →
      let r := ({ s with out := [] } : State).memBytes (s.bar4Addr off) n
      ∃ t, exec (.bar4Read off n) s = .next t ∧ Sends s t (.read r.2.1 r.2.2) ∧ t.mem.cells = s.mem.cells ∧
        t.mem.init = s.mem.init ∧ (r.2.2 = true → t.fld MEM_STATUS_POISON_READ = 1) ∧
        KeepsRest { s with mem := { s.mem with repairQueue := t.mem.repairQueue, found := t.mem.found } } t ∧
        KeepsRegs [MEM_STATUS.off, MEM_ERR_REC.off, MEM_CE_COUNT.off, MEM_UE_COUNT.off] s t) ∧
    (∀ n, s.asleep = true → Sending (.bar4Read off n) s s [.read (List.replicate n 0) false]) ∧
    (∀ n, s.asleep = false → s.inUsable (s.bar4Addr off) n = false →
      ∃ t, exec (.bar4Read off n) s = .next t ∧ Sent s t [.read (List.replicate n 0) false] ∧ t.fld MEM_STATUS_ACCESS = 1 ∧
        (s.bit MEM_ERR_REC_VALID = false → t.fld MEM_ERR_REC_VALID = 1 ∧ t.fld MEM_ERR_REC_KIND = 4 ∧
          t.fld MEM_ERR_REC_WORD = s.bar4Addr off / 16 % 2 ^ 36) ∧
        KeepsRest s t ∧ KeepsRegs [MEM_STATUS.off, MEM_ERR_REC.off] s t) ∧
    (∀ b : Bytes, s.asleep = false → s.inUsable (s.bar4Addr off) b.length = true →
      s.rangeHeld SvcPhase.admitted (s.bar4Addr off) (s.bar4Addr off + b.length) = false → b ≠ [] →
      let a := s.bar4Addr off
      let first := a / 16 * 16
      let r := ({ s with out := [] } : State).memRead first ((a + b.length + 15) / 16 - a / 16)
      ∃ t, exec (.bar4Write off b) s = .next t ∧
        (∀ k, a ≤ k → k < a + b.length → t.inited k = true ∧ t.dataByte k = b.getD (k - a) 0) ∧
        (∀ k, first ≤ k → k < (a + b.length + 15) / 16 * 16 → k < a ∨ a + b.length ≤ k →
          t.dataByte k = (wordBytes r.2).getD (k - first) 0) ∧
        (∀ k, k < s.usable → k < first ∨ (a + b.length + 15) / 16 * 16 ≤ k → t.dataByte k = s.dataByte k) ∧
        KeepsRest { s with mem := t.mem } t ∧
        KeepsRegs [MEM_STATUS.off, MEM_ERR_REC.off, MEM_CE_COUNT.off, MEM_UE_COUNT.off] s t ∧
        (a % 16 = 0 → b.length % 16 = 0 → KeepsRegs [] s t)) ∧
    (∀ b : Bytes, s.asleep = true ∨ s.inUsable (s.bar4Addr off) b.length = true ∧
        s.rangeHeld SvcPhase.admitted (s.bar4Addr off) (s.bar4Addr off + b.length) = true →
      Gives (.bar4Write off b) s s) ∧
    (∀ b : Bytes, s.asleep = false → s.inUsable (s.bar4Addr off) b.length = false →
      ∃ t, exec (.bar4Write off b) s = .next t ∧ t.fld MEM_STATUS_ACCESS = 1 ∧
        (s.bit MEM_ERR_REC_VALID = false → t.fld MEM_ERR_REC_VALID = 1 ∧ t.fld MEM_ERR_REC_KIND = 4 ∧
          t.fld MEM_ERR_REC_WORD = s.bar4Addr off / 16 % 2 ^ 36) ∧
        KeepsRest s t ∧ KeepsRegs [MEM_STATUS.off, MEM_ERR_REC.off] s t)) ∧
  (∀ (s : State) (off : Nat) (v : Word), s.power.tripped = false → s.delivered = true →
    (s.asleep = true → Sending (.bar2Read off) s s [.read (leBytes 4 0) false] ∧ Gives (.bar2Write off v) s s) ∧
    (s.asleep = false → s.bit HIF_EMU_CTL_EN = false →
      Sending (.bar2Read off) s s [.read (leBytes 4 0) false] ∧ Gives (.bar2Write off v) s s) ∧
    (s.asleep = false → s.bit HIF_EMU_CTL_EN = true → s.bit HIF_STATUS_SCH_DOWN = true →
      Sending (.bar2Read off) s (s.setFld HIF_STATUS_EMU_LOST 1) [.read (leBytes 4 0xFFFFFFFF) false] ∧
      Gives (.bar2Write off v) s (s.setFld HIF_STATUS_EMU_LOST 1)) ∧
    (s.asleep = false → s.bit HIF_EMU_CTL_EN = true → s.bit HIF_STATUS_SCH_DOWN = false →
      (∃ b : Bytes, b.length = 4 ∧ Sending (.bar2Read off) s (s.setHif { s.hif with emuCount := s.hif.emuCount + 1 })
        [.read b false]) ∧
      Gives (.bar2Write off v) s (s.setHif { s.hif with emuCount := s.hif.emuCount + 1 }))) ∧
  (∀ (s : State) (v : Word),
    (Reaches s HIF_BAR4_BASE.off →
      Gives (.hifBar4BaseWrite v) s (s.setFld HIF_BAR4_BASE_WINDOW v.toNat)) ∧
    (Reaches s HIF_EMU_CTL.off → s.emuRingsOff = true →
      Gives (.hifEmuEnWrite v) s ((s.setFld HIF_EMU_CTL_EN (v.toNat % 2)).setFld HIF_EMU_CTL_ACTIVE
        (if s.bit HIF_STATUS_SCH_DOWN then 0 else v.toNat % 2))) ∧
    (Reaches s HIF_EMU_CTL.off → s.emuRingsOff = false →
      Gives (.hifEmuEnWrite v) s (s.setFld HIF_STATUS_ACCESS 1)))

/-- SMBus (R578, R579): ADDR takes an address, READ returns four bytes of the register there with their PEC and moves on, a write
whose PEC is missing or wrong is not acknowledged and does nothing, WRITE reaches ID_RESET_CTL alone, and a clock timeout sets the
address back. The test access port (R580): BYPASS and SAMPLE/PRELOAD are taken,
IDCODE shows the device's code, and a reset selects it without showing it (the model's reading, log 84). The model's choices
in it: log 84, 193. -/
def Obligations.SmbusAndTheTestPort : Prop :=
  ∀ (s : State),
    (s.power.tripped = false → s.smbusUp = true →
      (∀ off pec, pecOk 0x10 (leBytes 4 off) pec = true →
        (off % 4 = 0 → Gives (.smbusAddr off pec) s (s.setBoot { s.boot with smbusAddr := off % 2 ^ 32 })) ∧
        (off % 4 ≠ 0 → Gives (.smbusAddr off pec) s s)) ∧
      (∀ off pec, pecOk 0x10 (leBytes 4 off) pec = false → Sending (.smbusAddr off pec) s s [.smbusNack]) ∧
      (∀ off v pec, pecOk 0x12 (leBytes 4 off ++ leBytes 4 v.toNat) pec = true →
        (off ≠ ID_RESET_CTL.off ∨ v.toNat.testBit 0 = false → Gives (.smbusWrite off v pec) s s) ∧
        (off = ID_RESET_CTL.off → v.toNat.testBit 0 = true → bitsOf v.toNat 31 16 ≠ resetKey →
          Gives (.smbusWrite off v pec) s (s.setFld ID_RESET_CTL_RESULT 3))) ∧
      (∀ off v pec, pecOk 0x12 (leBytes 4 off ++ leBytes 4 v.toNat) pec = false →
        Sending (.smbusWrite off v pec) s s [.smbusNack]) ∧
      (∀ r start, findReg s.boot.smbusAddr = some (r, start) → s.boot.smbusAddr < 0x1000 →
        Sending .smbusRead s (s.setBoot { s.boot with smbusAddr := (s.boot.smbusAddr + 4) % 2 ^ 32 })
          [.smbus (smbusAnswer 0x11 (leBytes 4 (s.peek32 r start s.boot.smbusAddr)))]) ∧
      Gives .smbusClockTimeout s (s.setBoot { s.boot with smbusAddr := 0 })) ∧
    Gives .bypass s (s.setBoot { s.boot with jtag := jtBypass }) ∧
    Sending .idcode s (s.setBoot { s.boot with jtag := jtIdcode }) [.jtag 0x10864A4B] ∧
    Gives .samplePreload s (s.setBoot { s.boot with jtag := jtSample }) ∧
    Gives .jtagReset s (s.setBoot { s.boot with jtag := jtIdcode })

/-- While PORST_N is deasserted and the SPP_EN strap is 1, EXTEST, CLAMP and HIGHZ act as BYPASS: what they do then is what it does.
While it is asserted, and without the soundpost partition, they act as themselves (R581). -/
def Obligations.ScanIsClosedInService : Prop :=
  ∀ (c : Instr) (s : State), c = .extest ∨ c = .clamp ∨ c = .highz →
    (s.boot.porst = true → s.bit ID_STRAPS_SPP_EN = true →
      exec c s = exec .bypass s ∧ Gives c s (s.setBoot { s.boot with jtag := jtBypass })) ∧
    (s.boot.porst = false ∨ s.bit ID_STRAPS_SPP_EN = false →
      (c = .extest → Gives c s (s.setBoot { s.boot with jtag := jtExtest })) ∧
      (c = .clamp → Gives c s (s.setBoot { s.boot with jtag := jtClamp })) ∧
      (c = .highz → Gives c s (s.setBoot { s.boot with jtag := jtHighz })))

/-! ### Tile programs (R133 to R155, R157 to R178, R191 to R199, R216 to R221) -/

/-- NOP, VEC, FTAB, LKA, RANGE and END at their issue (R133, R140, R142, R146 to R151, R154, R155): the sequencer goes on after
the command's issue span, and after END the tile is DONE. A VEC writes only its destination, and a lane-wise one with an
integer output type writes there what the sub-operation gives for each element; an FTAB fills its slot; an LKA swaps the
staging halves where its SWAP is set and writes only its results and wide accumulators, and one that is streamed, or whose half a
ring FILL is still filling, goes on step by step (R142, R168); a RANGE of a layer on one tile sets
FALLBACK where a unit has no history or saturated more than T times; when no other tile runs, its END starts the slack window,
and ballast falls (R489). The model's choices in it: log 95, 97, 99. -/
def Obligations.ComputeCommandsRun : Prop :=
  ∀ (s : State) (t : Nat) (i : Issued) (u : State), t < 64 →
    (Issues s t opNop i u →
      ∃ t', exec (.nop t) s = .next t' ∧ GoesOn u t' t i.index (i.cycle + 2) ∧
        t'.tileOf t = { u.tileOf t with pc := i.index + 1, cycle := i.cycle + 2, wait := none, run := none } ∧
        KeepsRest { u with tiles := t'.tiles } t' ∧ KeepsRegs [TIL_STATE.off + 0x40000 * t] u t') ∧
    (Issues s t opVec i u → i.shadow = false →
      let c := i.cmd
      let n := vecCount c
      let sub := vecSub c
      ∃ t', exec (.vec t) s = .next t' ∧ GoesOn u t' t i.index (i.cycle + vecSpan c) ∧
        (∀ w, w < u16 c 14 ∨ u16 c 14 + ceilDiv n (tyPer (if sub = 10 then vecIn c else vecOut c)) ≤ w →
          SameBits (Tab.look (t'.tileOf t).store w) (Tab.look (u.tileOf t).store w)) ∧
        (sub ∈ [0, 1, 2, 3, 4, 5, 6, 11] → (vecOut c = 0 ∨ vecOut c = 3) →
          let a := (u.operand t (u16 c 8) (vecIn c) n true false).2
          let b := (u.operand t (u16 c 10) (vecIn c) n ([0, 1, 2, 3, 4, 5, 11].contains sub) ((u8 c 2).testBit 4)).2
          let d := (u.operand t (u16 c 12) (vecIn c) n (sub = 3) ((u8 c 2).testBit 5)).2
          (vElems (vecOut c) n (t'.tileReads t (u16 c 14) (ceilDiv n (tyPer (vecOut c)))).2).map (·.1) =
            (List.range n).map fun k => vecLane sub (vecIn c) (vecOut c) [] (a.getD k (0, false)).1 (b.getD k (0, false)).1
              (d.getD k (0, false)).1) ∧
        KeepsRest { u with tiles := t'.tiles } t' ∧
        KeepsRegs [TIL_STATE.off + 0x40000 * t, TIL_STATUS.off + 0x40000 * t, TIL_CE_COUNT.off + 0x40000 * t,
          TIL_UE_COUNT.off + 0x40000 * t] u t') ∧
    (Issues s t opFtab i u → i.shadow = false →
      ∃ t', exec (.ftab t) s = .next t' ∧ GoesOn u t' t i.index (i.cycle + 66) ∧
        (let ws := (u.tileReads t (u16 i.cmd 10) 66).2
         Tab.look (t'.tileOf t).ftab (u8 i.cmd 8 % 8) = some { words := ws.map (·.data), poison := anyPoison ws }) ∧
        (t'.fld (TIL_CFG_FTAB_LOADED.tile t)).testBit (u8 i.cmd 8 % 8) = true ∧
        (∀ w, SameBits (Tab.look (t'.tileOf t).store w) (Tab.look (u.tileOf t).store w)) ∧
        KeepsRest { u with tiles := t'.tiles } t' ∧
        KeepsRegs [TIL_STATE.off + 0x40000 * t, TIL_STATUS.off + 0x40000 * t, TIL_CE_COUNT.off + 0x40000 * t,
          TIL_UE_COUNT.off + 0x40000 * t, TIL_CFG.off + 0x40000 * t] u t') ∧
    (Issues s t opLka i u → i.shadow = false →
      let half := if (u8 i.cmd 1).testBit 0 then 1 - u.feeding t else u.feeding t
      let filled := ∃ r, (u.tileOf t).slab = some r ∧ r.ring = true ∧ b2n r.half1 = half ∧ r.delivered < r.pages.length
      ((u8 i.cmd 1).testBit 1 = false → ¬ filled →
        ∃ t', exec (.lka t) s = .next t' ∧ GoesOn u t' t i.index (i.cycle + lkaSpan i.cmd (u.bSlabOf t)) ∧
          t'.feeding t = half ∧
          (∀ w, (∀ b, b < u16 i.cmd 8 → w < u16 i.cmd 24 + b * u16 i.cmd 26 ∨ u16 i.cmd 24 + b * u16 i.cmd 26 + 512 ≤ w) →
            w < u16 i.cmd 28 ∨ u16 i.cmd 28 + 512 * u16 i.cmd 8 ≤ w →
            SameBits (Tab.look (t'.tileOf t).store w) (Tab.look (u.tileOf t).store w)) ∧
          KeepsRest { u with tiles := t'.tiles, services := t'.services } t' ∧
          KeepsRegs [TIL_STATE.off + 0x40000 * t, TIL_STATUS.off + 0x40000 * t, TIL_CE_COUNT.off + 0x40000 * t,
            TIL_UE_COUNT.off + 0x40000 * t, TIL_SAT_COUNT.off + 0x40000 * t, TIL_STEP_COUNT.off + 0x40000 * t,
            TIL_SLAB_STAT.off + 0x40000 * t] u t') ∧
      ((u8 i.cmd 1).testBit 1 = true ∨ filled →
        ∃ t', exec (.lka t) s = .next t' ∧ t'.feeding t = half ∧ (t'.tileOf t).pc = i.index ∧
          (t'.tileOf t).cycle = i.cycle ∧ (∃ r, (t'.tileOf t).run = some r ∧ r.next = 0) ∧
          (t'.tileOf t).store = (u.tileOf t).store ∧ (∀ o, o ≠ t → t'.tileOf o = u.tileOf o) ∧
          KeepsRest { u with tiles := t'.tiles } t' ∧
          KeepsRegs [TIL_STATE.off + 0x40000 * t, TIL_STATUS.off + 0x40000 * t, TIL_CE_COUNT.off + 0x40000 * t,
            TIL_UE_COUNT.off + 0x40000 * t, TIL_SLAB_STAT.off + 0x40000 * t] u t')) ∧
    (∀ d r, Issues s t opRange i u → i.shadow = false →
      (imgRanges (s.svc (s.tileSvc t)).image)[u8 i.cmd 8]? = some d → d.tiles ≤ 1 →
      (s.tileOf t).ranged.find? (fun r => r.idx = u8 i.cmd 8) = some r →
      ∃ t', exec (.rangeCmd t) s = .next t' ∧ GoesOn u t' t i.index (i.cycle + 96 + d.window) ∧
        (t'.svc (u.tileSvc t)).log.flags.testBit rfFallback =
          ((u.svc (u.tileSvc t)).log.flags.testBit rfFallback || r.units.any fun x => x.noHist || decide (d.t < x.sat)) ∧
        KeepsRest { u with tiles := t'.tiles, services := t'.services } t') ∧
    (Issues s t opEnd i u → s.dev ≠ stPizzicato →
      (∀ c ∈ s.staged, ∀ k, c.kind = .activate k ∨ c.kind = .rollback k → k < 11) →
      ∃ t', exec (.endProg t) s = .next t' ∧ t'.tileState t = tsDone ∧ t'.fld (TIL_STATE_PHASE.tile t) = 0 ∧
        t'.lastEnd = max u.lastEnd (u.cycleTime i.cycle) ∧ t'.tiles = u.tiles ∧
        t'.power = (if (List.range 64).all fun o => o == t || u.tileState o != tsRunning then u.power.draw t'.lastEnd []
          else u.power) ∧
        KeepsRest { u with lastEnd := t'.lastEnd, cores := t'.cores, power := t'.power, freeCount := t'.freeCount } t')

/-- Semaphores, event lines and barriers at their issue, and the ends of their waits (R152, R153, R191, R192, R196, R197): a
signal, a raise or an arrival is recorded with its cycle and the sequencer goes on after two cycles; a wait holds the
sequencer; it ends at the later of its planned cycle, its issue, and the cycle at which what it waits for arrives, which is
a breach when that is later than both; of the signals that a wait finds counted, those beyond 15 are lost (R197, R198). The model's choices in it: log 100, 102, 104. -/
def Obligations.SynchronisationCommandsRun : Prop :=
  ∀ (s : State) (t : Nat) (i : Issued) (u : State), t < 64 →
    (Issues s t opSem i u → i.shadow = false →
      let x := u.tileOf t
      let dir := u8 i.cmd 8 % 4
      (u8 i.cmd 9 = 0 →
        ∃ t', exec (.sem t) s = .next t' ∧ GoesOn u t' t i.index (i.cycle + 2) ∧
          Tab.lookD (t'.tileOf t).sems dir [] =
            Tab.lookD x.sems dir [] ++ [i.cycle] ∧
          KeepsRest { u with tiles := t'.tiles } t' ∧ KeepsRegs [TIL_STATE.off + 0x40000 * t] u t') ∧
      (u8 i.cmd 9 ≠ 0 → Gives (.sem t) s
        (u.setTile t { x with cycle := i.cycle, wait := some (.semaphore dir (u32 i.cmd 12)) }))) ∧
    (Issues s t opEvt i u → i.shadow = false →
      let x := u.tileOf t
      let line := u8 i.cmd 8 % 4
      let key := 4 * u16 i.cmd 10 + line
      (u8 i.cmd 9 = 0 →
        ∃ t', exec (.evt t) s = .next t' ∧ GoesOn u t' t i.index (i.cycle + 2) ∧
          Tab.lookD (t'.tileOf t).raises line [] = Tab.lookD x.raises line [] ++ [i.cycle] ∧
          KeepsRest { u with tiles := t'.tiles } t' ∧ KeepsRegs [TIL_STATE.off + 0x40000 * t] u t') ∧
      (u8 i.cmd 9 ≠ 0 →
        let k := Tab.lookD x.lineWaits key 0 + 1
        Gives (.evt t) s (u.setTile t { x with
          lineWaits := Tab.put x.lineWaits key k, cycle := i.cycle,
          wait := some (.eventLine (u16 i.cmd 10) line k (u32 i.cmd 12)) }))) ∧
    (Issues s t opBar i u → i.shadow = false →
      let n := u8 i.cmd 8 % 4
      let inst := u16 i.cmd 10
      let planned := ((u.plan (u.tileSvc t) n inst).map fun e => u32 e 12).getD 0
      (u8 i.cmd 9 = 1 →
        ∃ t', exec (.bar t) s = .next t' ∧ GoesOn u t' t i.index (i.cycle + 2) ∧
          (t'.barrier n).arrivals = (u.barrier n).arrivals ++ [{ inst := inst, tile := t, cycle := i.cycle, pairs := [] }] ∧
          KeepsRest { u with tiles := t'.tiles, barriers := t'.barriers } t' ∧
          KeepsRegs [TIL_STATE.off + 0x40000 * t] u t') ∧
      (u8 i.cmd 9 ≠ 1 → Tab.look (u.barrier n).ended inst = none →
        ∃ t', exec (.bar t) s = .next t' ∧ (t'.tileOf t).wait = some (.barrier n inst planned) ∧
          (t'.tileOf t).pc = (u.tileOf t).pc ∧ (t'.tileOf t).cycle = i.cycle ∧
          (∀ o, o ≠ t → t'.tileOf o = u.tileOf o) ∧
          KeepsRest { u with tiles := t'.tiles, barriers := t'.barriers } t' ∧ KeepsRegs [] u t')) ∧
    (∀ dir planned n c r, s.power.tripped = false → (s.tileOf t).wait = some (.semaphore dir planned) →
      neighbour t dir = some n → Tab.lookD (s.tileOf n).sems ((dir + 2) % 4) [] = c :: r →
      let due := max planned (s.tileOf t).cycle
      ∃ t', exec (.semaphoreWaitEnd t) s = .next t' ∧ (t'.tileOf t).wait = none ∧
        (t'.tileOf t).pc = (s.tileOf t).pc + 1 ∧ (t'.tileOf t).cycle = max due (c + 4) ∧
        Tab.lookD (t'.tileOf n).sems ((dir + 2) % 4) [] = semLeft (c :: r) (max due (c + 4)) ∧
        (r.length < 15 → Tab.lookD (t'.tileOf n).sems ((dir + 2) % 4) [] = r) ∧ (∀ o, o ≠ t → o ≠ n → t'.tileOf o = s.tileOf o) ∧
        (planned < max (s.tileOf t).cycle (c + 4) → t'.fld FAB_STATUS_SEM_LATE = 1) ∧
        (due < c + 4 → t'.fld TCK_STATUS_BREACH = 1 ∧ (t'.svc (s.tileSvc t)).log.flags.testBit rfBreach = true) ∧
        (c + 4 ≤ due → t'.services = s.services ∧ t'.fld TCK_STATUS_BREACH = s.fld TCK_STATUS_BREACH) ∧
        KeepsRest { s with tiles := t'.tiles, services := t'.services } t') ∧
    (∀ src line k planned c, s.power.tripped = false → (s.tileOf t).wait = some (.eventLine src line k planned) →
      (Tab.lookD (s.tileOf src).raises line [])[k - 1]? = some c →
      let due := max planned (s.tileOf t).cycle
      ∃ t', exec (.eventLineWaitEnd t) s = .next t' ∧ GoesOn s t' t (s.tileOf t).pc (max due (c + 8)) ∧
        (planned < max (s.tileOf t).cycle (c + 8) → t'.fld FAB_STATUS_EVT_LATE = 1) ∧
        (due < c + 8 → t'.fld TCK_STATUS_BREACH = 1 ∧ (t'.svc (s.tileSvc t)).log.flags.testBit rfBreach = true) ∧
        (c + 8 ≤ due → t'.services = s.services ∧ t'.fld TCK_STATUS_BREACH = s.fld TCK_STATUS_BREACH) ∧
        KeepsRest { s with tiles := t'.tiles, services := t'.services } t') ∧
    (∀ n inst e svc, s.power.tripped = false → s.openInst n = some inst →
      let l := (s.barrier n).arrivals.filter fun a => a.inst = inst
      (∀ a ∈ l, s.tileSvc a.tile = svc) → s.plan svc n inst = some e →
      (∀ k ∈ bitList 64 (u64 e 4), ∃ a ∈ l, a.tile = k) →
      let pairs := l.foldl (fun p a => joinPairs p a.pairs) []
      let last := l.foldl (fun m a => max m a.cycle) ((s.barrier n).ended.foldl (fun m x => max m x.2.1) 0)
      let cycle := last + 12 + (if u8 e 1 = 1 then ceilDiv pairs.length 2 else 0)
      ∃ t', exec (.barrierComplete n) s = .next t' ∧ Tab.look (t'.barrier n).ended inst = some (cycle, pairs) ∧
        (u32 e 12 < cycle → t'.fld FAB_STATUS_BAR_LATE = 1) ∧
        (∀ k, k ∈ imgTiles (s.svc svc).image → ∀ p, (s.tileOf k).wait = some (.barrier n inst p) →
          (t'.tileOf k).wait = none ∧ (t'.tileOf k).pc = (s.tileOf k).pc + 1 ∧
          (t'.tileOf k).cycle = max (max (u32 e 12) (s.tileOf k).cycle) cycle) ∧
        (∀ k, (s.tileOf k).wait = none → t'.tileOf k = s.tileOf k) ∧
        KeepsRest { s with tiles := t'.tiles, services := t'.services, barriers := t'.barriers } t')

/-- XFER, GATHER, HAND and STAGE at their issue, and the end of a transfer (R157 to R165, R172 to R174): with one of the four
places free, a transfer takes it at its issue and the sequencer goes on after two cycles; so it does after a later member of a
merged chain, which takes none. A transfer of one row from LPDDR
leaves in the tile's store the words read there; a gather writes for an index out of range a row of zero words that are
marked; each leaves every other word of the stores as it was. A transfer that a fault of the LPDDR controller holds up is a breach
(R47). The words of a hand-over move after its issue, in the cycles of their flits: by the end of a transfer each word whose cycle
has come has moved as the links leave it, and no other word has changed (R178, R186, R190). A STAGE takes a hand-over that has
arrived, or waits for it; the transfer that is done first gives its place back, and a hand-over is
counted at its consumer. The model's choices in it: log 71, 106, 107, 234. -/
def Obligations.TransferCommandsRun : Prop :=
  ∀ (s : State) (t : Nat) (i : Issued) (u : State), t < 64 →
    let free := ((u.tileOf t).xfers.filter fun x => i.cycle < x.done).length < 4
    (∀ f : TransferFaults, Issues s t opXfer i u → i.shadow = false → free →
      let img := (s.svc (s.tileSvc t)).image
      let d := (imgDescs img s.env t).getD (cmdDesc i.cmd) []
      (u8 i.cmd 1).testBit 0 = false →
      ∃ t', exec (.xfer t f) s = .next t' ∧ (t'.tileOf t).pc = i.index + 1 ∧ (t'.tileOf t).cycle = i.cycle + 2 ∧
        (∃ o, (t'.tileOf t).xfers = (u.tileOf t).xfers ++ [o] ∧ o.kind = .transfer ∧ o.desc = cmdDesc i.cmd ∧
          o.issue = i.cycle) ∧
        (f.stall ≠ 0 → isLpddr (xfRemote i.desc) = true →
          t'.fld TCK_STATUS_BREACH = 1 ∧ (t'.svc (u.tileSvc t)).log.flags.testBit rfBreach = true) ∧
        (chainFrom (imgCmds img s.env t) i.index = [i.index] → d.length = 32 → xfOut d = false → xfCode d = false →
          isLpddr (xfRemote d) = true → xfRemote d % 16 = 0 → remoteTile (xfRemote i.desc) = none → u16 d 16 = 1 → u16 d 18 = 1 →
          let n := xfRow d / 16
          (∀ k, k < n → (t'.tileRead t (xfLocal d + k)).2 =
            (u.remoteRead (s.tileSvc t) (xfRemote d) n).2.getD k MWord.zero) ∧
          (∀ w, w < xfLocal d ∨ xfLocal d + n ≤ w →
            Tab.look (t'.tileOf t).store w = Tab.look (u.tileOf t).store w) ∧
          (∀ o, o ≠ t → t'.tileOf o = u.tileOf o) ∧
          (f.stall = 0 → KeepsRest { u with tiles := t'.tiles, mem := t'.mem, freeCount := t'.freeCount } t'))) ∧
    (∀ flips stall, Issues s t opGather i u → i.shadow = false → free →
      let d := i.desc
      ∃ t', exec (.gather ⟨t, flips, stall⟩) s = .next t' ∧ (t'.tileOf t).pc = i.index + 1 ∧ (t'.tileOf t).cycle = i.cycle + 2 ∧
        (∃ o, (t'.tileOf t).xfers = (u.tileOf t).xfers ++ [o] ∧ o.kind = .gather ∧ o.desc = cmdDesc i.cmd ∧
          o.issue = i.cycle) ∧
        (stall ≠ 0 → isLpddr (xfRemote d) = true →
          t'.fld TCK_STATUS_BREACH = 1 ∧ (t'.svc (u.tileSvc t)).log.flags.testBit rfBreach = true) ∧
        (∀ e, xfOut d = false → isLpddr (xfRemote d) = true → xfRemote d % 16 = 0 → u32 d 20 % 16 = 0 → gaCount d = 1 →
          gatherIndices d (u.tileReads t (u16 d 10) 1).2 = [e] →
          (∀ k, k < xfRow d / 16 → (t'.tileRead t (xfLocal d + k)).2 =
            if e.2 = true ∨ u32 d 24 ≤ e.1 then ⟨0, true⟩
            else (u.remoteRead (s.tileSvc t) (xfRemote d + e.1 * u32 d 20) (xfRow d / 16)).2.getD k MWord.zero) ∧
          (e.2 = true ∨ u32 d 24 ≤ e.1 → (t'.svc (s.tileSvc t)).log.flags.testBit rfIndexRange = true) ∧
          (∀ w, w < xfLocal d ∨ xfLocal d + xfRow d / 16 ≤ w →
            SameBits (Tab.look (t'.tileOf t).store w) (Tab.look (u.tileOf t).store w)) ∧
          (∀ o, o ≠ t → t'.tileOf o = u.tileOf o))) ∧
    (∀ flips, Issues s t opHand i u → i.shadow = false → free →
      let d := i.desc
      let x := u.tileOf t
      let dst := u8 d 4
      let n := u32 d 8 / 16
      let w := u16 d 6 + Tab.lookD x.handCount (cmdDesc i.cmd) 0 % (if (u8 d 1).testBit 0 then 2 else 1) * u16 d 12
      dst < 64 → w < 65536 →
      ∃ t', exec (.hand t flips) s = .next t' ∧ (t'.tileOf t).pc = i.index + 1 ∧ (t'.tileOf t).cycle = i.cycle + 2 ∧
        (∃ o, (t'.tileOf t).xfers = x.xfers ++ [o] ∧ o.kind = .hand ∧ o.issue = i.cycle ∧ o.consumer = dst ∧
          o.counter = bitsOf (u8 d 1) 3 2 ∧
          o.moves.map (fun m => (m.src, m.srcWord, m.dst, m.dstWord, m.zero, m.flips)) =
            (List.range n).map (fun k =>
              (t, u16 d 2 + k, dst, w + k, false, (flips.filter fun f => f.1 = k).map (·.2))) ∧
          ∀ m ∈ o.moves, i.cycle + 4 ≤ m.cycle) ∧
        (t'.tileOf t).store = x.store ∧ (∀ o, o ≠ t → t'.tileOf o = u.tileOf o) ∧
        KeepsRest { u with tiles := t'.tiles, services := t'.services, deferred := t'.deferred } t') ∧
    (Issues s t opStage i u → i.shadow = false →
      let x := u.tileOf t
      let counter := u8 i.cmd 8 % 4
      (Tab.lookD x.hands counter [] = [] →
        Gives (.stage t) s (u.setTile t { x with cycle := i.cycle, wait := some (.hand counter) })) ∧
      (∀ c r, Tab.lookD x.hands counter [] = c :: r → c ≤ i.cycle →
        ∃ t', exec (.stage t) s = .next t' ∧ GoesOn u t' t i.index (i.cycle + 2) ∧
          Tab.lookD (t'.tileOf t).hands counter [] = r ∧ KeepsRest { u with tiles := t'.tiles } t' ∧
          KeepsRegs [TIL_STATE.off + 0x40000 * t] u t')) ∧
    (∀ o, s.power.tripped = false → firstDone (s.tileOf t).xfers = some o →
      let w := (({ s with out := [] } : State).upTo (s.cycleTime o.done)).moveBefore (o.done + 1)
      ∃ t', exec (.transferDone t) s = .next t' ∧ (t'.tileOf t).xfers.length + 1 = (s.tileOf t).xfers.length ∧
        (∀ k, (t'.tileOf k).store = (w.tileOf k).store) ∧
        (∀ m, s.movesBefore (o.done + 1) = [m] →
          (t'.tileRead m.dst m.dstWord).2 =
            (crossLink (if m.zero then ⟨0, true⟩ else (s.tileRead m.src m.srcWord).2) (m.flips.map (·.1))).2 ∧
          ∀ k v, ¬ (k = m.dst ∧ v = m.dstWord) →
            SameBits (Tab.look (t'.tileOf k).store v) (Tab.look (s.tileOf k).store v)) ∧
        (s.movesBefore (o.done + 1) = [] → ∀ k, (t'.tileOf k).store = (s.tileOf k).store) ∧
        (o.kind ≠ .hand → (∀ k, k ≠ t → t'.tileOf k = w.tileOf k) ∧ KeepsRest { w with tiles := t'.tiles } t' ∧
          KeepsRegs [TIL_STATE.off + 0x40000 * t] w t') ∧
        (o.kind = .hand → (s.tileOf o.consumer).wait ≠ some (.hand o.counter) →
          let l := Tab.lookD (s.tileOf o.consumer).hands o.counter []
          Tab.lookD (t'.tileOf o.consumer).hands o.counter [] = if l.length < 15 then l ++ [o.done] else l)) ∧
    (∀ f : TransferFaults, Issues s t opXfer i u → i.shadow = false → (u8 i.cmd 1).testBit 0 = true →
      ∃ t', exec (.xfer t f) s = .next t' ∧ (t'.tileOf t).pc = i.index + 1 ∧ (t'.tileOf t).cycle = i.cycle + 2 ∧
        (t'.tileOf t).store = (u.tileOf t).store ∧ (∀ o, o ≠ t → t'.tileOf o = u.tileOf o) ∧
        (f.stall = 0 → KeepsRest { u with tiles := t'.tiles } t' ∧ KeepsRegs [TIL_STATE.off + 0x40000 * t] u t'))

/-- Slab reads (R167, R216, R217): FILL begins a fill; a page that the code corrects is delivered with its bytes unmarked, in
the words that the fill gives them; a repair round that succeeds delivers its page again, unmarked, and leaves the repair
queue. The model's choices in it: log 105, 110. -/
def Obligations.SlabReadsRun : Prop :=
  ∀ (s : State) (t : Nat), t < 64 →
    (∀ i u, Issues s t opSlabFill i u → s.pageDue t = none → (s.tileOf t).slab = none →
      ∃ t' r, exec (.slabFill t) s = .next t' ∧ GoesOn u t' t i.index (i.cycle + 2) ∧
        (t'.tileOf t).slab = some r ∧ r.issue = i.cycle ∧ r.ring = (u8 i.desc 1).testBit 0 ∧
        r.half1 = (u8 i.desc 1).testBit 1 ∧ r.dst = u16 i.desc 2 ∧ r.length = u32 i.desc 8 ∧
        r.offset = u32 i.desc 4 + (s.svc (s.tileSvc t)).slot.elim 0 s.slotBase ∧ r.ringWords = u16 i.desc 12 ∧
        r.delivered = 0 ∧ t'.fld (TIL_SLAB_STAT_FILLING.tile t) = 1 ∧ (t'.tileOf t).store = (u.tileOf t).store ∧
        KeepsRest { u with tiles := t'.tiles } t' ∧
        KeepsRegs [TIL_STATE.off + 0x40000 * t, TIL_SLAB_STAT.off + 0x40000 * t] u t') ∧
    (∀ r due bk flips, s.power.tripped = false → (s.tileOf t).slab = some r → s.pageDue t = some due →
      (s.tileOf t).run = none → r.stalled = false → r.ring = false →
      let page := r.pages.getD r.delivered 0
      let pl := s.place t page
      let lo := max r.offset (page * 4096)
      let hi := min (r.offset + r.length) ((page + 1) * 4096)
      let k := (lo - r.offset) / 16
      s.mapped t pl.plane pl.lblock = some bk → (s.upTo (s.cycleTime due)).bankAtWork bk = false →
      s.movesBefore (max due (s.fillCycle t r (16 * (k + (hi - lo) / 16)))) = [] →
      let x := decodePage (s.pageAt bk pl.pg) pl flips
      x.fine = true → x.blank = false → (x.tagOk = true → tagKind x.tag ≠ 3) → s.isXo bk x = false →
      ∃ t', exec (.slabPageDelivery t flips) s = .next t' ∧
        (∃ r', (t'.tileOf t).slab = some r' ∧ r'.delivered = r.delivered + 1) ∧
        (∀ j w, (slice x.words (lo % 4096 / 16) ((hi - lo) / 16))[j]? = some w →
          Tab.look (t'.tileOf t).store (s.fillWord t r (k + j)) = some (CWord.enc (s.fillWord t r (k + j)) ⟨w, false⟩)) ∧
        (∀ w, (∀ j, j < (hi - lo) / 16 → w ≠ s.fillWord t r (k + j)) →
          Tab.look (t'.tileOf t).store w = Tab.look (s.tileOf t).store w) ∧
        (∀ o, o ≠ t → t'.tileOf o = s.tileOf o)) ∧
    (∀ r e bk flips p b, s.power.tripped = false → s.roundDue t = some (r, e) → r.round < 8 →
      let pl := s.place t r.page
      s.mapped t pl.plane pl.lblock = some bk → s.pageAt bk pl.pg = some p →
      repairRoundBits (some p) pl r.round (if r.round = 0 then r.sensed else flips) = some b →
      ∃ t', exec (.repairRound t flips) s = .next t' ∧
        (∀ j w, (slice p.words (r.lo / 16) ((r.hi - r.lo) / 16))[j]? = some w →
          Tab.look (t'.tileOf t).store (r.dst + j) = some (CWord.enc (r.dst + j) ⟨w, false⟩)) ∧
        (t'.tileOf t).repairs.length < (s.tileOf t).repairs.length ∧
        s.fld (TIL_SLAB_STAT_RETRY_MAX.tile t) ≤ t'.fld (TIL_SLAB_STAT_RETRY_MAX.tile t) ∧
        (∀ o, o ≠ t → t'.tileOf o = s.tileOf o))

/-! ### Requantisation (R113, R114, R116, R117) -/

/-- Integer requantisation. The shift rounds to the nearest integer, ties to even; a product of x and M is shifted right by the low six
bits of S, the zero point is added, and the clamp follows (R114). The clamp is the maximum with max(LO, type minimum) and then
the minimum with min(HI, type maximum), so that where these cross every output is the latter; only a value outside the type's
range counts as saturated, not one that LO or HI cuts (R117). So an element of the integer path without a range unit leaves a closing
bank, from the corrected value of its accumulator. -/
def Obligations.IntegerRequantisation : Prop :=
  (∀ (p q : Int) (s : Nat), rshiftRne p s = q ↔
    -(2 ^ s) ≤ 2 * (p - q * 2 ^ s) ∧ 2 * (p - q * 2 ^ s) ≤ 2 ^ s ∧ (2 * (p - q * 2 ^ s) = 2 ^ s ∨ 2 * (p - q * 2 ^ s) = -(2 ^ s) →
      q % 2 = 0)) ∧
  (∀ (out : Nat) (lo hi t : Int), out = 0 ∨ out = 1 →
    let least : Int := max lo (if out = 0 then -128 else -32768)
    let most : Int := min hi (if out = 0 then 127 else 32767)
    clampOut out lo hi t = min (max t least) most ∧ (most ≤ least → clampOut out lo hi t = most) ∧
      (least ≤ most → least ≤ clampOut out lo hi t ∧ clampOut out lo hi t ≤ most)) ∧
  (∀ (out : Nat) (lo hi x m zo : Int) (sh : Nat), out = 0 ∨ out = 1 →
    let t := rshiftRne (x * m) (sh % 64) + zo
    (rqInt out lo hi x m sh zo).1 = clampOut out lo hi t ∧
    ((rqInt out lo hi x m sh zo).2 = true ↔ if out = 0 then t < -128 ∨ 127 < t else t < -32768 ∨ 32767 < t)) ∧
  (∀ (j : LkaJob) (b sp : Nat) (k : ScaleBlock) (units : List RangeUnit) (r o : Nat) (acc rs : Int) (wide : Nat) (mark : Bool),
    k.float = false → k.out = 0 ∨ k.out = 1 → j.inUnit o = false →
    (j.elem b sp k units r o acc rs wide mark).out = some (trunc (if k.out = 0 then 8 else 16)
      (rqInt k.out k.lo k.hi (sat32 (acc - k.zw * rs - k.ct.getD o 0)) (k.m.getD o 0) (k.sh.getD o 0) (k.zo.getD o 0)).1))

/-! ### The tick source and the boundary (R18 to R20, R56 to R60, R472) -/

/-- What the device does on its own, boundaries apart, and what wakes it in REST and PIZZICATO and on the way there and back. -/
def ofSleep : Instr → Bool
  | .sleepEntry | .wake | .pizzicatoCycle | .idrWaitTimeout | .ethWakeFrame _ _ | .tickInWake _ | .pwrWakeGo
  | .d0Return | .retentionClockTick | .refclkMissing | .refclkReturn => true
  | _ => false

/-- TICK_BOUNDARY (R18, R20, R56, R60): a boundary takes the next tick number, at its due time or now where that has passed; the
period and the phase set before it come into force, and a tick-source event that was due has been used; from 13 µs after it every
tile whose service runs, and no other, draws I_tile of the tick's envelope (R489). While the device is
not READY, RUNNING or HELD, after the last boundary before sleep, and while the source has none due, none is made. The
counter does not advance in sleep, nor on the way there and back, so that the first boundary after wake carries the number
that follows the last one before sleep (R20). The model's choices in it: log 4, 176. -/
def Obligations.BoundariesNumberTheTicks : Prop :=
  (∀ (s : State) (dmaOk : Bool) (backing : HostWords) (senses : Senses), s.power.tripped = false →
    (∀ due grid, s.up = true → s.power.lastBoundary = false → s.boundaryDue = some (due, grid) →
      ∃ t, exec (.tickBoundary dmaOk backing senses) s = .next t ∧ t.tick = (s.tick + 1) % 2 ^ 64 ∧
        t.boundaryAt = max s.now due ∧ t.ticking = true ∧ t.tickEvent = none ∧
        t.fld TCK_PERIOD_ACT_PERIOD_US = s.fld TCK_PERIOD_PERIOD_US ∧ t.phaseAct = s.fld TCK_PHASE_PHASE_US ∧
        (let runs := (t.services.filter fun e => e.2.phase = .running).flatMap fun e => imgTiles e.2.image
         t.power.draws = runs.foldl (fun l o => Tab.put l o (iTile t.env)) [] ∧ t.power.railAt = t.boundaryAt + 13000)) ∧
    ((s.up = false ∨ s.power.lastBoundary = true ∨ s.boundaryDue = none) →
      Gives (.tickBoundary dmaOk backing senses) s s)) ∧
  (∀ (c : Instr) (s t : State), ofSleep c = true → exec c s = .next t → t.tick = s.tick)

/-- TICK_IN and the watch over the ticks (R57, R58, R472): an edge within its window makes the boundary due; one that comes too
soon is ignored and counted; where none comes by the end of the window the device makes the boundary itself and counts the
miss, and after HOLD_LIMIT of them in a row the internal source takes over. No boundary within two periods, while a class A
service runs, sets GAP and ALERT_A. The model's choices in it: log 31, 63, 64. -/
def Obligations.TheTickSourceIsWatched : Prop :=
  ∀ (s : State), s.power.tripped = false →
    (∀ falling, s.tickInOn = true → s.bit TCK_TICKIN_EDGE = falling → s.tickEvent = none → s.now ≤ s.edgeUntil →
      (s.edgeFrom ≤ s.now → Gives (.tickInEdge falling) s { s with tickEvent := some s.now, missed := 0 }) ∧
      (s.now < s.edgeFrom →
        ∃ t, exec (.tickInEdge falling) s = .next t ∧ t.fld TCK_STATUS_EARLY = 1 ∧
          (s.bit TCK_EDGE_COUNT_SAT = false → s.fld TCK_EDGE_COUNT_COUNT < 2 ^ 48 - 1 →
            t.fld TCK_EDGE_COUNT_COUNT = s.fld TCK_EDGE_COUNT_COUNT + 1) ∧
          KeepsRest s t ∧ KeepsRegs [TCK_STATUS.off, TCK_EDGE_COUNT.off] s t)) ∧
    (s.tickInOn = true → s.tickEvent = none →
      ∃ t, exec .tickInTimeout s = .next t ∧ t.fld TCK_STATUS_MISSED = 1 ∧
        (let limit := s.fld TCK_CTL_HOLD_LIMIT
         (limit ≠ 0 ∧ limit ≤ s.missed + 1 → t.fld TCK_CTL_SRC_ACTIVE = 0 ∧ t.fld TCK_STATUS_SRC_FALLBACK = 1) ∧
         (limit = 0 ∨ s.missed + 1 < limit → t.fld TCK_CTL_SRC_ACTIVE = s.fld TCK_CTL_SRC_ACTIVE)) ∧
        KeepsRest { s with tickEvent := some s.edgeUntil, missed := s.missed + 1 } t ∧
        KeepsRegs [TCK_STATUS.off, TCK_EDGE_COUNT.off, TCK_CTL.off] s t) ∧
    (s.sppOn = true → s.bit SPP_WDOG_GAP_EN = true → s.runningA = true → s.ticking = true → s.gapSeen = false →
      ∃ t, exec .boundaryGap s = .next t ∧ t.fld SPP_STATUS_GAP = 1 ∧ t.fld SPP_STATUS_ALERT_A = 1 ∧
        (s.bit SPP_ALERT_REC_VALID = false → t.fld SPP_ALERT_REC_VALID = 1 ∧ t.fld SPP_ALERT_REC_CAUSE = 2) ∧
        (s.bit SPP_CTL_AUTO_HOLD = true → t.fld SPP_CTL_HOLD = 1) ∧
        KeepsRest { s with gapSeen := true, spp := t.spp } t ∧
        KeepsRegs [SPP_STATUS.off, SPP_ALERT_REC.off, SPP_CTL.off] s t)

/-! ### Power, clocks and sleep (R240, R241, R479 to R503, R574) -/

/-- The AVSBus handshake and the regulator (R484 to R486): a poll that is not acknowledged counts, and the fourth in a row, like
a write not done within 2 ms, is a regulator fault; VDone acknowledges the voltage, and in a pizzicato cycle V_E30 powers PLL_0
(R487, R501); a voltage read within 10 mV of the one
set ends a fault. The tiles' part of the core-rail current never changes faster than 20 mA in a nanosecond, whatever the tiles
come to draw, until it is what they draw (R489). The model's choices in it: log 33, 167. -/
def Obligations.TheRegulatorIsFollowed : Prop :=
  (∀ (s : State), s.power.tripped = false →
    (∀ mv t0, s.power.write = some (mv, t0) →
      (∀ ack vdone, ack % 4 ≠ 0 → s.power.nacks < 3 → Gives (.avsStatusPoll ack vdone) s
        ((s.setFld PWR_AVS_ACK ack).setPower { s.power with nacks := s.power.nacks + 1 })) ∧
      (∀ c : Instr, (∃ ack vdone, c = .avsStatusPoll ack vdone ∧ ack % 4 ≠ 0 ∧ 3 ≤ s.power.nacks) ∨ c = .avsWriteTimeout →
        ∃ t, exec c s = .next t ∧ t.fld PWR_EMERG_REG_FAULT = 1 ∧ t.fld PWR_STATUS_REG_FAULT = 1 ∧ t.fld PWR_AVS_BUSY = 0 ∧
          t.power.write = none ∧ KeepsRest { s with power := t.power } t ∧
          KeepsRegs [PWR_AVS.off, PWR_EMERG.off, PWR_STATUS.off, PWR_REG_FAULT_COUNT.off] s t) ∧
      (∀ ack, ack % 4 = 0 →
        Gives (.avsStatusPoll ack false) s ((s.setFld PWR_AVS_ACK ack).setPower { s.power with nacks := 0 }) ∧
        ∃ t, exec (.avsStatusPoll ack true) s = .next t ∧ t.power.acked = mv ∧ t.power.nacks = 0 ∧
          KeepsRest { s with power := t.power } t ∧ KeepsRegs [PWR_AVS.off, PWR_CLK.off] s t ∧
          (s.asleep = false → KeepsRegs [PWR_AVS.off] s t) ∧
          (s.asleep = true → s.power.pzActive = true → s.power.refclk = true → mv = s.vE 0 →
            t.pllLocked 0 = true ∧ t.power.clock = .pll0Half))) ∧
    (∀ ack mv, s.bit PWR_EMERG_REG_FAULT = true → s.pmcUp = true → ack % 4 = 0 → mv ≤ s.fld PWR_AVS_VSET + 10 →
      s.fld PWR_AVS_VSET ≤ mv + 10 →
      ∃ t, exec (.regulatorFaultPoll ack mv) s = .next t ∧ t.fld PWR_EMERG_REG_FAULT = 0 ∧
        KeepsRest { s with power := t.power } t ∧ KeepsRegs [PWR_AVS.off, PWR_EMERG.off] s t)) ∧
  (∀ (p : Power) (l : Tab Nat) (t d : Nat), p.rail (t + d) ≤ p.rail t + 20 * d ∧ p.rail t ≤ p.rail (t + d) + 20 * d ∧
    (p.draw t l).rail t = p.rail t ∧
    (p.aim ≤ p.railFrom + 20 * (t - p.railAt) → p.railFrom ≤ p.aim + 20 * (t - p.railAt) → p.rail t = p.aim))

/-- Temperatures and power failure (R231, R268, R476, R487, R488, R491, R492): readings show in PWR_TEMP; one at 125 °C or more
trips the device, one at or above T_clamp makes the clamp due, and one that comes to stand at or above TALERT sets its bit; the clamp ends when every sensor has been below for a
second; PWR_FAIL_N stops NV activity and begins an emergency, which ends with it; a second after the last emergency CLEAR_MS
is 0. The model's choices in it: log 28, 29, 169, 170, 242. -/
def Obligations.EmergenciesComeAndGo : Prop :=
  ∀ (s : State), s.power.tripped = false →
    (∀ die weight, let core := hottest (sext 8 (s.fld PWR_TEMP_TJ_CORE)) (die.take 16)
      let hi := max (hottest core (weight.take s.boot.fuses.dies)) core
      ∃ t, exec (.sensorReading die weight) s = .next t ∧ t.fld PWR_TEMP_TJ_CORE = degByte core ∧
        t.fld PWR_TEMP_TJ_MAX = degByte hi ∧
        (125 ≤ hi → t.power.tripped = true ∧ t.dev = stOff ∧ Sends s t (.pin "THERM_TRIP_N" false)) ∧
        (hi < 125 → t.power.clampDue = (s.power.clampDue || (decide (s.tClamp ≤ hi) && !s.bit PWR_EMERG_CLAMP)) ∧
          (t.power.coolSince.isSome ↔ hi < s.tClamp - 5) ∧
          (s.sppOn = true → s.power.hot = false → (s.fld SPP_LIMIT_TALERT : Int) ≤ hi → t.fld SPP_STATUS_TALERT = 1) ∧ KeepsRest { s with power := t.power } t ∧
          KeepsRegs [PWR_TEMP.off, PWR_TEMP_NV.off, SPP_STATUS.off] s t)) ∧
    (∀ t0, s.power.coolSince = some t0 → s.bit PWR_EMERG_CLAMP = true →
      ∃ t, exec .clampRelease s = .next t ∧ t.fld PWR_EMERG_CLAMP = 0 ∧
        (s.bit PWR_EMERG_PWR_FAIL = false → s.bit PWR_EMERG_REG_FAULT = false →
          t.power.clearAt = some (max s.now (t0 + 1000000000) + 1000000000)) ∧
        KeepsRest { s with power := t.power } t ∧ KeepsRegs [PWR_EMERG.off, PWR_AVS.off] s t) ∧
    (s.bit PWR_EMERG_PWR_FAIL = false →
      ∃ t, exec .pwrFailAssert s = .next t ∧ t.fld PWR_EMERG_PWR_FAIL = 1 ∧ t.fld PWR_STATUS_PF = 1 ∧ t.power.clearAt = none ∧
        (s.nvPhase = nvReady → t.nvPhase = nvQuiesced ∧ t.nv.ops = [])) ∧
    (∀ fails, s.bit PWR_EMERG_PWR_FAIL = true →
      ∃ t, exec (.pwrFailDeassert fails) s = .next t ∧ t.fld PWR_EMERG_PWR_FAIL = 0 ∧
        (s.nvPhase = nvQuiesced → t.nvPhase = (if s.recoveryFree fails then nvReady else nvQuiesced))) ∧
    (∀ t0, s.power.clearAt = some t0 → (∀ c ∈ s.staged, ∀ k, c.kind = .activate k ∨ c.kind = .rollback k → k < 11) →
      ∃ t, exec .emergencyClearExpiry s = .next t ∧ t.power.clearAt = none ∧ t.fld PWR_EMERG_CLEAR_MS = 0)

/-- Clocks (R21, R482, R574): losing the lock of the PLL that feeds the arithmetic clock switches the clock at once, a breach on
every running tile; a PLL that locks again no longer holds E30; without the reference clock both PLLs are unlocked until it
is back. The model's choices in it: log 171. -/
def Obligations.ClocksAreLostAndFound : Prop :=
  ∀ (s : State), s.power.tripped = false →
    (∀ p, s.pllRuns p = true → p < 2 → s.pllLocked p = true → s.power.clock.pll = some p →
      ∃ t, exec (.pllLockLoss p) s = .next t ∧ t.pllLocked p = false ∧ t.fld PWR_STATUS_PLL_LOSS = 1 ∧
        t.power.clock = (if p = 1 ∧ s.pllLocked 0 = true then .pll0Half else .osc) ∧ p ∈ t.power.pllHold ∧
        (∀ k, k < 64 → s.tileState k = tsRunning → t.fld TCK_STATUS_BREACH = 1 ∧
          (t.svc (s.tileSvc k)).log.flags.testBit rfBreach = true) ∧ t.tiles = s.tiles) ∧
    (∀ p, s.pllRuns p = true → s.power.refclk = true → p < 2 →
      ∃ t, exec (.pllRelock p) s = .next t ∧ t.pllLocked p = true ∧ p ∉ t.power.pllHold ∧
        KeepsRest { s with power := t.power } t ∧ KeepsRegs [PWR_CLK.off, PWR_AVS.off] s t) ∧
    (s.power.refclk = true → s.pllRuns 1 = true →
      ∃ t, exec .refclkMissing s = .next t ∧ t.power.refclk = false ∧ t.pllLocked 0 = false ∧ t.pllLocked 1 = false ∧
        ((∀ p, s.power.clock.pll = some p → s.pllLocked p = true) → t.fld PWR_STATUS_PLL_LOSS = 1)) ∧
    (s.power.refclk = false → s.pllRuns 1 = true →
      ∃ t, exec .refclkReturn s = .next t ∧ t.power.refclk = true ∧ t.pllLocked 0 = true ∧ t.pllLocked 1 = true ∧
        KeepsRest { s with power := t.power } t ∧ KeepsRegs [PWR_CLK.off, PWR_AVS.off] s t)

/-- Sleep (R241, R485, R494, R497, R500 to R503): entry begins after the last boundary, with NV and DMA quiet, while PMC runs: pads
held, E30 in force, both PLLs off and the rail asked for 0.5 V; once the regulator has acknowledged it the device is in REST or
PIZZICATO. A wake asks for V_E30, and leads to READY in ACTIVE once it is acknowledged; a
pizzicato cycle powers the intake with nothing received, and PLL_0 at V_E30; without a picture by IDR_WAIT_MS the cycle is a miss, and
MISS_LIMIT misses in a row wake the device; the retention clocks go on. The model's choices in it: log 65, 176, 177, 242. -/
def Obligations.SleepEndsWhereItSays : Prop :=
  ∀ (s : State), s.power.tripped = false →
    (∀ pz, s.power.sleepReq = some pz → s.power.lastBoundary = true → s.quietForSleep = true → s.pmcFree = true →
      s.power.write = none →
      (s.power.railGoal = none → s.bit PWR_EMERG_REG_FAULT = false → s.power.acked ≠ 500 →
        ∃ t, exec .sleepEntry s = .next t ∧ t.dev = s.dev ∧ t.fld PWR_PAD_CTL_HOLD = 1 ∧ t.env = 0 ∧
          t.pllLocked 0 = false ∧ t.pllLocked 1 = false ∧ t.power.clock = .osc ∧ t.power.railGoal = some 500 ∧
          (∃ t0, t.power.write = some (500, t0)) ∧ t.power.sleepReq = some pz ∧ t.power.pzActive = false ∧
          Sends s t (.avs 500) ∧ (pz = false → t.services = s.services ∧ t.tiles = s.tiles ∧ t.mem = s.mem)) ∧
      (s.power.railGoal = some 500 → s.power.acked = 500 → s.power.wakeCause = none →
        ∃ t, exec .sleepEntry s = .next t ∧ t.dev = (if pz then stPizzicato else stRest) ∧
          t.sleepState = (if pz then slPizzicato else slRest) ∧ t.fld PWR_SLEEP_CTL_BUSY = 0 ∧
          t.fld PWR_SLEEP_CTL_RESULT = 1 ∧ t.ticking = false ∧ t.power.sleepReq = none ∧ t.power.acked = 500 ∧
          t.services = s.services ∧ t.tiles = s.tiles ∧ t.mem = s.mem)) ∧
    (s.asleep = true → s.sleepState = slWaking → s.power.refclk = true → s.power.write = none → s.power.acked ≠ s.vE 0 →
      s.bit PWR_EMERG_REG_FAULT = false → 500 ≤ s.vE 0 → s.vE 0 ≤ 900 →
      ∃ t, exec .wake s = .next t ∧ t.dev = s.dev ∧ t.sleepState = slWaking ∧ (∃ t0, t.power.write = some (s.vE 0, t0)) ∧
        Sends s t (.avs (s.vE 0)) ∧ KeepsRest { s with power := t.power } t ∧ KeepsRegs [PWR_AVS.off] s t) ∧
    (s.asleep = true → s.sleepState = slWaking → s.power.refclk = true → s.power.write = none → s.power.acked = s.vE 0 →
      ∃ t, exec .wake s = .next t ∧ t.dev = stReady ∧ t.sleepState = slActive ∧ t.pllLocked 0 = true ∧ t.pllLocked 1 = true ∧
        t.power.clock = .pll0Half ∧ t.power.acked = s.vE 0 ∧ t.power.wakeCause = none ∧ t.fld PWR_STATUS_WAKE = 1 ∧
        t.log.sleepQueue = [] ∧ t.tickFrom = s.now + 1000000 ∧
        (s.dev = stRest → t.services = s.services ∧ t.tiles = s.tiles ∧ t.mem = s.mem)) ∧
    (s.inPizzicato = true → s.power.pzActive = false → s.power.refclk = true →
      ∃ t, exec .pizzicatoCycle s = .next t ∧ t.power.pzActive = true ∧ t.power.pzCycle = s.power.pzCycle + 1 ∧
        t.intake.rx = [] ∧ s.cycleAt s.power.pzCycle ≤ t.now ∧
        (s.power.write = none → s.power.acked = s.vE 0 → t.pllLocked 0 = true ∧ t.power.clock = .pll0Half) ∧
        (s.power.write = none → s.power.acked ≠ s.vE 0 → s.bit PWR_EMERG_REG_FAULT = false → 500 ≤ s.vE 0 → s.vE 0 ≤ 900 →
          Sends s t (.avs (s.vE 0)) ∧ ∃ t0, t.power.write = some (s.vE 0, t0)) ∧ KeepsRest { s with power := t.power, intake := t.intake } t ∧
        KeepsRegs [PWR_AVS.off, PWR_CLK.off] s t) ∧
    (s.inPizzicato = true → s.power.pzActive = true → s.sentryRuns = false → s.power.wakeCause = none → s.power.refclk = true →
      (s.cam s.pzStream).queue.any (AccessUnit.idr (s.hevc s.pzStream)) = false →
      ∃ t, exec .idrWaitTimeout s = .next t ∧ t.fld PWR_STATUS_PZ_MISS = 1 ∧ t.power.pzActive = false ∧
        t.power.railGoal = some 500 ∧
        t.power.pzMisses = s.power.pzMisses + 1 ∧
        (let limit := s.fld PWR_PZ_CTL_MISS_LIMIT
         (limit ≠ 0 ∧ limit ≤ s.power.pzMisses + 1 → t.sleepState = slWaking ∧ t.fld PWR_WAKE_CTL_CAUSE = 6) ∧
         (limit = 0 ∨ s.power.pzMisses + 1 < limit → t.sleepState = slPizzicato))) ∧
    (s.asleep = false → s.np ≤ 4 → ∃ t, exec .retentionClockTick s = .next t ∧
      (∀ slab p, slab < 64 → p < s.np →
        Tab.lookD t.nv.clocks (slab * 4 + p) 0 = Tab.lookD s.nv.clocks (slab * 4 + p) 0 + ageFactor (s.nvTemp p)) ∧
      KeepsRest { s with nv := t.nv } t ∧ KeepsRegs [] s t)

/-! ### PTP, the Ethernet ports and the cameras (R343 to R372, R59, R349 to R351) -/

/-- The PTP clock (R349 to R351, R59): a one-step Sync of the chosen master gives INT_PTP_OFFSET; without lock, one beyond 1 s
steps the clock by it, and the sixteenth in a row within LOCK_NS brings lock; no Sync for 3 s ends it. The delay request
leaves on the master's port; a master not heard for three intervals is forgotten; a whole second raises PPS_OUT, and an edge
of PPS_IN is time-stamped. The model's choices in it: log 22, 23, 139. -/
def Obligations.ThePtpClockFollowsItsMaster : Prop :=
  ∀ (s : State), s.power.tripped = false →
    (∀ f rest m, takeFirst s.isPtp s.intake.rx = some (f, rest) → f.etherType = etPtp → s.ptOk f.body = true →
      ptType f.body = ptSync → ptTwoStep f.body = false → s.intake.ptp.master = some m → m.1 = f.port →
      m.2.1 = ptSender f.body →
      let offset := f.ptpTime - (ptTime f.body 34 + ptCorr f.body) - s.intake.ptp.pathDelay
      let fine := offset.natAbs ≤ max 1 (s.fld INT_PTP_CTL_LOCK_NS)
      ∃ t, exec .ptpMessage s = .next t ∧ t.fld INT_PTP_OFFSET_OFFSET = trunc 64 offset ∧ t.intake.rx = rest ∧
        (s.bit INT_PTP_STATUS_LOCK = false → 1000000000 < offset.natAbs →
          t.intake.ptp.shift = s.ptpNs - s.sinceRelease - offset ∧ t.fld INT_STATUS_PTP_STEP = 1 ∧
          t.fld INT_PTP_STATUS_LOCK = 0) ∧
        (s.bit INT_PTP_STATUS_LOCK = false → offset.natAbs ≤ 1000000000 → fine → 15 ≤ s.intake.ptp.good →
          t.fld INT_PTP_STATUS_LOCK = 1) ∧
        KeepsRest { s with intake := t.intake, consort := t.consort, freeCount := t.freeCount } t ∧
        KeepsRegs [INT_PTP_OFFSET.off, INT_PTP_STATUS.off, INT_STATUS.off, TCK_STATUS.off] s t) ∧
    (s.bit INT_PTP_STATUS_LOCK = true →
      ∃ t, exec .ptpSyncTimeout s = .next t ∧ t.fld INT_PTP_STATUS_LOCK = 0 ∧ t.fld INT_STATUS_PTP_UNLOCK = 1 ∧
        (s.ptpMode = true → t.fld TCK_STATUS_HOLDOVER = 1) ∧
        KeepsRest { s with intake := t.intake, consort := t.consort } t ∧
        KeepsRegs [INT_PTP_STATUS.off, INT_STATUS.off, TCK_STATUS.off] s t) ∧
    (∀ m, s.intake.ptp.master = some m → s.bit INT_PTP_CTL_TRANSPORT = false → s.linkUp m.1 = true → s.portOn m.1 = true →
      s.txFree m.1 (min 6 (s.fld INT_PTP_CTL_PCP)) = true →
      let q := (s.intake.ptp.delaySeq + 1) % 65536
      ∃ t b, exec .ptpDelayReqTimer s = .next t ∧ Sends s t (.frame m.1 (min 6 (s.fld INT_PTP_CTL_PCP)) b) ∧
        KeepsRest { s with intake := { s.intake with ptp := { s.intake.ptp with
          delaySeq := q, delayReq := some (q, s.ptpNs), peer := none } } } t ∧ KeepsRegs [] s t) ∧
    (∀ p t0, p < 2 → foreignDue (s.foreigns p) = some t0 →
      ∃ t, exec (.announceReceiptTimeout p) s = .next t ∧
        t.foreigns p = (s.foreigns p).filter (fun f => decide (max s.now t0 < f.last + 3 * f.interval))) ∧
    (s.bit INT_PTP_CTL_PPS_OUT_EN = true → s.intakeOn = true → s.bit PWR_PAD_CTL_HOLD = false →
      Sending .ppsOutSecond s
        (s.setIntake { s.intake with ppsNext := max s.intake.ppsNext (ceilDiv s.ptpNs.toNat 1000000000) + 1 })
        [.pin "PPS_OUT" true, .pin "PPS_OUT" false]) ∧
    (s.intakeOn = true → Gives .ppsInEdge s ((s.setFld INT_PPS_IN_TS_TIME s.stamp).setFld INT_STATUS_PPS_IN 1))

/-- Frames and what the ports answer by themselves (R343 to R348): a frame of a wrong length, of IPv6 or with a service tag is
dropped and counted; a request for the port's address waits and is answered with its MAC; an entry of the cache is asked for
again before it expires; a general query is answered when its timer ends; the links follow their events. The model's choices
in it: log 131 to 138. -/
def Obligations.ThePortsAnswer : Prop :=
  ∀ (s : State), s.power.tripped = false →
    (∀ p b, (s.intakeOn = false ∨ s.portOn p = false ∨ s.linkUp p = false) → Gives (.ethFrameRx p b) s s) ∧
    (∀ p b, s.intakeOn = true → s.portOn p = true → s.linkUp p = true → n16 b 12 ≠ etPause →
      (b.length < 14 ∨ 1518 < b.length ∨ n16 b 12 = etIp6 ∨ n16 b 12 = etServiceTag) →
      ∃ t, exec (.ethFrameRx p b) s = .next t ∧ t.fld INT_STATUS_RX_DROP = 1 ∧ KeepsRest s t ∧
        KeepsRegs [INT_STATUS.off, INT_RX_DROP_COUNT.off] s t) ∧
    (∀ p b, s.intakeOn = true → s.portOn p = true → s.linkUp p = true → s.dev ≠ stPizzicato →
      s.bit (portCtl INT_PORT_CTL_UNTAGGED_EN p) = true → s.fld CNS_ETHERTYPE_TYPE ≠ etArp → 14 ≤ b.length →
      b.length ≤ 1518 → n16 b 12 = etArp → isArp (b.drop 14) 1 = true → n32 (b.drop 14) 24 = s.portIp p →
      Gives (.ethFrameRx p b) s (s.setIntake { s.intake with rx := s.intake.rx ++ [{
        port := p, dst := beNat (b.take 6), src := n48 b 6, vlan := none, etherType := etArp, body := b.drop 14,
        ptpTime := s.ptpNs, time := s.stamp, waited := none }] })) ∧
    (∀ f rest, takeFirst (fun f => decide (f.etherType = etArp)) s.intake.rx = some (f, rest) → s.linkUp f.port = true →
      s.portOn f.port = true →
      let b := ethFrame (n48 f.body 8) (s.portMac f.port) f.vlan 0 etArp (s.arpPacket f.port 2 (n48 f.body 8) (n32 f.body 14))
      ∃ t, exec .arpRequest s = .next t ∧ t.intake.rx = rest ∧ KeepsRest { s with intake := t.intake } t ∧ KeepsRegs [] s t ∧
        (s.txFree f.port 0 = true → t.intake.egress = s.intake.egress ∧ Sends s t (.frame f.port 0 b)) ∧
        (s.txFree f.port 0 = false →
          ∃ d, t.intake.egress = s.intake.egress ++ [d] ∧ d.port = f.port ∧ d.pcp = 0 ∧ d.raw = some b)) ∧
    (∀ f rest mac, takeFirst isEcho s.intake.rx = some (f, rest) → s.bit (portCtl INT_PORT_CTL_ICMP_EN f.port) = true →
      inetChecksum (ipBody f.body) = 0 → s.linkUp f.port = true → s.portOn f.port = true → s.txFree f.port 0 = true →
      s.hopMac f.port (s.nextHop f.port (ipSrc f.body)) = some mac →
      ∃ b, Sending .icmpEcho s (s.setIntake { s.intake with rx := rest })
        [.frame f.port 0 (ethFrame mac (s.portMac f.port) f.vlan 0 etIp b)]) ∧
    (∀ e, s.intake.arp.find? (fun e => !e.refreshed) = some e → s.linkUp e.port = true → s.portOn e.port = true →
      s.txFree e.port 0 = true →
      ∃ t, exec .arpRefresh s = .next t ∧
        Sends s t (.frame e.port 0 (ethFrame macAll (s.portMac e.port) e.vlan 0 etArp (s.arpPacket e.port 1 0 e.ip))) ∧
        t.intake.arp = s.intake.arp.map (fun x => if x = e then { x with refreshed := true } else x)) ∧
    (∀ e l, s.intake.arp = e :: l →
      ∃ t, exec .arpExpiry s = .next t ∧ e.learnt + 300000000000 ≤ t.now ∧ t.intake.arp = l ∧
        KeepsRest { s with intake := t.intake } t ∧ KeepsRegs [] s t) ∧
    (∀ f rest, takeFirst isQuery s.intake.rx = some (f, rest) → inetChecksum (ipBody f.body) = 0 →
      12 ≤ (ipBody f.body).length → n32 (ipBody f.body) 4 = 0 → f.port < 2 → s.igmpDue f.port = [] →
      ∃ t, exec .igmpQuery s = .next t ∧ t.intake.rx = rest ∧ t.igmpDue f.port = [.answer 0 []] ∧
        KeepsRest { s with intake := t.intake } t ∧ KeepsRegs [] s t) ∧
    (∀ p d l, p < 2 → s.igmpDue p = d :: l →
      ∃ t, exec (.igmpReportTimer p) s = .next t ∧ t.igmpDue p = l ∧
        KeepsRest { s with intake := t.intake } t ∧ KeepsRegs [INT_STATUS.off, INT_TX_DROP_COUNT.off] s t) ∧
    (∀ p e, p < 2 → Tab.look s.intake.igmpV2 p = some e → s.intake.igmpV2.wf = true →
      ∃ t, exec (.igmpCompatTimeout p) s = .next t ∧ t.v2Mode p = false ∧ t.igmpDue p = [] ∧
        KeepsRest { s with intake := t.intake } t ∧ KeepsRegs [] s t) ∧
    (∀ p, p < 2 →
      (s.linkUp p = true → Gives (.ethLinkDown p) s ((s.setFld (linkFld p) 0).setFld
        (if p = 0 then INT_STATUS_LINK0_DOWN else INT_STATUS_LINK1_DOWN) 1)) ∧
      (s.portOn p = true → s.intakeOn = true → Gives (.ethLinkUp p) s (s.setFld (linkFld p) 1)))

/-- Cameras and egress (R353, R356 to R358, R367, R372 to R374): a packet of the stream enters its jitter buffer and one of
another payload type is dropped; an SSRC that has been silent is released; an access unit not complete in time is lost; a
decoded picture waits for its turn and is shown in display order; a unit that meets a marked word, or that the decoder refuses, is
lost with its cause, and so is one whose region no burst reaches (R288); a shaped picture makes its buffer READY; a datagram leaves on its port; an encoder that finishes takes the
picture that waits. The model's choices in
it: log 58, 141 to 146, 249. -/
def Obligations.CamerasAndEgressRun : Prop :=
  ∀ (s : State) (k : Nat), k < 32 → s.power.tripped = false →
    (∀ f rest p w, takeFirst s.isRtp s.intake.rx = some (f, rest) → s.streamOf f = some k →
      rtpPayload (udpData f.body) = some p →
      let b := udpData f.body
      let v := (s.cam k).from (n32 b 8) s.now
      (u8 b 1 % 128 ≠ s.fld (VID_STREAM_CTL_PT.bank k) →
        ∃ t, exec .rtpPacket s = .next t ∧ t.fld INT_STATUS_RX_DROP = 1 ∧
          KeepsRest { s with intake := { s.intake with rx := rest } } t ∧
          KeepsRegs [INT_STATUS.off, INT_RX_DROP_COUNT.off] s t) ∧
      (u8 b 1 % 128 = s.fld (VID_STREAM_CTL_PT.bank k) → s.fld (VID_STREAM_SSRC_SSRC.bank k) = n32 b 8 →
        n32 b 8 ≠ 0 → payloadOk (s.hevc k) p = true →
        v.insert (n16 b 2) (n32 b 4) ((u8 b 1).testBit 7) p f.time s.now = (w, true) → w.complete = none →
        Gives .rtpPacket s (({ s with intake := { s.intake with rx := rest } } : State).setStream k w))) ∧
    ((s.cam k).ssrc.isSome = true → s.fld (VID_STREAM_SSRC_SSRC.bank k) = 0 →
      Gives (.ssrcRelease k) s (s.setStream k { s.cam k with ssrc := none })) ∧
    (∀ p l, (s.cam k).jitter = p :: l → (∀ q ∈ l, p.came ≤ q.came) →
      ∃ t, exec (.jitterTimeout k) s = .next t ∧ p.came + s.jitterNs k ≤ t.now ∧ t.fld VID_STATUS_FRAME_LOST = 1 ∧
        (∀ q ∈ (t.cam k).jitter, q.ts ≠ p.ts) ∧ (s.cam k).lost < (t.cam k).lost ∧
        KeepsRest { s with intake := t.intake } t) ∧
    (∀ u rest, s.asleep = false → (s.cam k).queue = u :: rest →
      (∀ r n, s.vidUsable = false →
        ∃ t, exec (.decodeDone k ⟨r, n, [], []⟩) s = .next t ∧ t.fld VID_STATUS_FRAME_LOST = 1 ∧
          (s.cam k).lost < (t.cam k).lost ∧ KeepsRest { s with intake := t.intake } t) ∧
      (∀ p, s.vidUsable = true → pictureOk (s.hevc k) p = true → u.spsBad (s.hevc k) (s.cam k).spsBad = false →
        (∃ t, exec (.decodeDone k ⟨.picture p, 0, [], []⟩) s = .next t ∧ (t.cam k).shown = (s.cam k).shown ∧
          (t.cam k).decoded = (s.cam k).decoded ++ [{ unit := u, pic := p, resync := (s.cam k).resyncDue }] ∧
          (t.cam k).queue = rest ∧ (t.cam k).frames = (s.cam k).frames ∧ KeepsRest { s with intake := t.intake } t ∧
          KeepsRegs [(VID_STREAM_STAT_STATE.bank k).off, (VID_STREAM_FRAME_COUNT_COUNT.bank k).off] s t) ∧
        (∀ d l, firstShown ((s.cam k).decoded ++ [{ unit := u, pic := p, resync := (s.cam k).resyncDue }]) = some (d, l) →
          ∃ t x, exec (.decodeDone k ⟨.picture p, 1, [], []⟩) s = .next t ∧ (t.cam k).shown = some x ∧ x.pic = d.pic ∧
            x.ts = d.unit.ts ∧ x.arrival = d.unit.arrival ∧ x.resync = d.resync ∧ (t.cam k).decoded = l ∧
            (t.cam k).queue = rest ∧ (t.cam k).frames = (s.cam k).frames + 1 ∧
            t.fld (VID_STREAM_STAT_WIDTH.bank k) = p.width ∧ t.fld (VID_STREAM_STAT_HEIGHT.bank k) = p.height ∧
            KeepsRest { s with intake := t.intake } t ∧
            KeepsRegs [(VID_STREAM_STAT_STATE.bank k).off, (VID_STREAM_FRAME_COUNT_COUNT.bank k).off] s t)) ∧
      (∀ r n a, s.vidRegion.1 ≤ a → a < s.vidRegion.2 →
        ∃ t, exec (.decodeDone k ⟨r, n, [(a, true)], []⟩) s = .next t ∧ t.fld VID_STATUS_FRAME_LOST = 1 ∧ t.fld MEM_STATUS_UE = 1 ∧
          (s.cam k).lost < (t.cam k).lost ∧ KeepsRest { s with intake := t.intake, mem := t.mem } t) ∧
      (∀ r n, s.vidUsable = true → u.spsBad (s.hevc k) (s.cam k).spsBad = true →
        ∃ t, exec (.decodeDone k ⟨r, n, [], []⟩) s = .next t ∧ t.fld (VID_STREAM_STAT_STATE.bank k) = vsUnsupported ∧
          t.fld VID_STATUS_UNSUPPORTED = 1 ∧ (s.cam k).lost < (t.cam k).lost ∧ KeepsRest { s with intake := t.intake } t) ∧
      (∀ r st f, (r = .failed ∧ st = vsWait ∧ f = VID_STATUS_RESYNC ∧ (s.cam k).fault = false ∨
          r = .unsupported ∧ st = vsUnsupported ∧ f = VID_STATUS_UNSUPPORTED ∨
          r = .memory ∧ st = vsMemory ∧ f = VID_STATUS_MEM_SHORT) →
        ∀ n, s.vidUsable = true → u.spsBad (s.hevc k) (s.cam k).spsBad = false →
        ∃ t, exec (.decodeDone k ⟨r, n, [], []⟩) s = .next t ∧ t.fld (VID_STREAM_STAT_STATE.bank k) = st ∧ t.fld f = 1 ∧
          (s.cam k).lost < (t.cam k).lost ∧ KeepsRest { s with intake := t.intake } t)) ∧
    (∀ n snap blocks i e x rest, (s.svc n).inputs.find? (fun i => i.snap = snap && i.kind = kindCamera) = some i →
      imgSnap (s.svc n).image snap = some e →
      takeFirst (fun x => x.1 = n && x.2.1 = snap) (s.cam i.source).toShape = some (x, rest) →
      Gives (.shapeDone n snap ⟨blocks, []⟩) s ((s.setStream i.source { s.cam i.source with toShape := rest }).modSvc n fun v =>
        { v with inputs := v.inputs.map fun j => if j.snap = snap then j.shape e x.2.2 s.stamp blocks else j })) ∧
    (∀ p d mac, nextDatagram p s.intake.egress = some d → s.linkUp p = true → s.portOn p = true →
      (∀ e ∈ s.intake.egress, e.raw = none) → s.hopMac p (s.nextHop p d.dst) = some mac →
      ∃ t b, exec (.datagramTx p) s = .next t ∧
        Sends s t (.frame p d.pcp (ethFrame mac (s.portMac p) (s.vlanOf p (s.fld (VID_EGR_CTL_VLAN.bank d.profile))) d.pcp
          etIp b)) ∧
        KeepsRest { s with intake := { s.intake with egress := dropOne d s.intake.egress } } t ∧
        KeepsRegs [(VID_EGR_TX_COUNT_COUNT.bank d.profile).off] s t) ∧
    (∀ j params slice x, j < 16 → (s.encoder j).picture = some x → (s.encoder j).seq < 65536 →
      let n := ((s.encodedNals j params slice).flatMap (nalPayloads (s.bit (VID_ENC_CTL_CODEC.bank j)))).length
      ∃ t, exec (.pictureEncoded j ⟨params, slice⟩) s = .next t ∧ (t.encoder j).picture = (s.encoder j).waiting ∧
        (t.encoder j).waiting = none ∧
        (s.vidUsable = true → (t.encoder j).seq = ((s.encoder j).seq + n) % 65536) ∧
        (s.vidUsable = false → t.fld VID_STATUS_ENC_SKIP = 1 ∧ (t.encoder j).seq = (s.encoder j).seq) ∧
        (t.encoder j).frame = (s.encoder j).frame + 1 ∧
        KeepsRest { s with intake := t.intake } t)

/-! ### The consort (R282 to R284, R411 to R434) -/

/-- The earliest Worham frame of a type that waits is taken: f is the frame, and u the state without it. -/
def TakesFrame (s : State) (type : Nat) (f : RxFrame) (u : State) : Prop :=
  s.power.tripped = false ∧
    ∃ rest, takeFirst (fun f => f.etherType = s.fld CNS_ETHERTYPE_TYPE && cnType f.body = type) s.intake.rx = some (f, rest) ∧
      u = { s with out := [], intake := { s.intake with rx := rest } }

/-- Tokens, verdicts and the forming of an epoch (R415 to R425): a token of a member is kept, its first copy deciding, and
another is counted as dropped; the verdict is AGREE when nothing fails, and none is formed once EN is cleared; a proposal that passes is staged; ACCEPTs are
gathered, and without all of them at T − 4 the proposal is aborted; an ABORT withdraws the epoch staged or ends the one in
force; a member not heard for 1 s is no longer known. The model's choices in it: log 150, 151, 152, 157, 239. -/
def Obligations.EpochsAreFormed : Prop :=
  ∀ (s : State),
    (∀ f u, TakesFrame s tyToken f u →
      ((s.fld CNS_MASK_MEMBERS).testBit (cnSrc f.body) = true →
        Gives .token s (u.setCns { u.consort with tokens := firstCopy u.consort.tokens f.body })) ∧
      ((s.fld CNS_MASK_MEMBERS).testBit (cnSrc f.body) = false →
        ∃ t, exec .token s = .next t ∧ KeepsRest u t ∧ KeepsRegs [CNS_RX_DROP_COUNT.off] u t ∧
          (s.bit CNS_RX_DROP_COUNT_SAT = false → s.fld CNS_RX_DROP_COUNT_COUNT < 2 ^ 48 - 1 →
            t.fld CNS_RX_DROP_COUNT_COUNT = s.fld CNS_RX_DROP_COUNT_COUNT + 1))) ∧
    (∀ f u, TakesFrame s tyJoin f u → s.cnsLeader = true →
      Gives .join s (u.setCns { u.consort with joins := firstCopy u.consort.joins f.body })) ∧
    (s.power.tripped = false → s.ticking = true → s.up = true → (s.inEpoch = true ∨ s.cnsOn = true) →
      s.consort.copies < s.cnsRepeat →
      ∃ t, exec .tokenSend s = .next t ∧ t.consort.copies = s.consort.copies + 1 ∧ s.tokenTime ≤ t.now ∧
        KeepsRest { s with
          consort := { s.consort with copies := s.consort.copies + 1, seq := (s.consort.seq + 1) % 2 ^ 32 }
          intake := { s.intake with egress := t.intake.egress } } t ∧
        (s.intake.egress = [] → t.intake = s.intake) ∧
        KeepsRegs [INT_STATUS.off, INT_TX_DROP_COUNT.off] s t) ∧
    (s.power.tripped = false → s.inEpoch = true → s.cnsOn = false → Gives .verdict s s) ∧
    (s.power.tripped = false → s.ticking = true → s.up = true → s.inEpoch = true → s.cnsOn = true → s.consort.verdict = none →
      let l := (s.upTo s.verdictTime).mismatches
      ∃ t, exec .verdict s = .next t ∧ t.consort.verdict = some l.isEmpty ∧ (l ≠ [] → t.fld CNS_STATUS_MISMATCH = 1) ∧
        KeepsRest { s with consort := { s.consort with verdict := some l.isEmpty } } t ∧
        KeepsRegs [CNS_STATUS.off, CNS_TOKEN_MISS_COUNT.off, CNS_MISMATCH_REC.off] s t) ∧
    (∀ f u, TakesFrame s tyPropose f u → cnSrc f.body = 0 → s.inEpoch = false → s.ptpMode = true →
      (u16 f.body 20).testBit s.cnsMember = true →
      ∃ t, exec .propose s = .next t ∧
        (u.proposalResult f.body = 0 → t.consort.staged = some (u32 f.body 16, u16 f.body 20,
          (sext 64 (u64 f.body 24)).toNat, u32 f.body 32, u32 f.body 36) ∧ ∃ c ∈ t.staged, c.kind = .consort) ∧
        (u.proposalResult f.body ≠ 0 → t.consort.staged = s.consort.staged ∧ t.staged = s.staged) ∧
        KeepsRest { u with consort := t.consort, staged := t.staged, intake := { u.intake with egress := t.intake.egress } } t ∧
        KeepsRegs [INT_STATUS.off, INT_TX_DROP_COUNT.off] u t) ∧
    (∀ f u e mask n l, TakesFrame s tyAccept f u → s.consort.proposal = some (e, mask, n, l) → u32 f.body 16 = e →
      u8 f.body 20 = 0 →
      Gives .accept s (u.setCns { u.consort with proposal := some (e, mask, n, insertNat (cnSrc f.body) l) })) ∧
    (∀ e mask n l, s.power.tripped = false → s.consort.proposal = some (e, mask, n, l) → (n : Int) ≤ s.ctick + 4 →
      (∃ m ∈ bitList 16 mask, l.contains m = false) →
      ∃ t, exec .proposeTimeout s = .next t ∧ t.fld CNS_STATUS_PROPOSE_FAIL = 1 ∧ t.consort.proposal = none ∧
        t.consort.staged = none ∧ t.consort.holdOff = (s.ctick + 8).toNat ∧ (∀ c ∈ t.staged, c.kind ≠ .consort) ∧
        KeepsRest { s with consort := t.consort, staged := t.staged, intake := { s.intake with egress := t.intake.egress } } t) ∧
    (∀ f u, TakesFrame s tyAbort f u → cnSrc f.body = 0 →
      (∀ x, u8 f.body 20 = 0 → s.consort.staged = some (u32 f.body 16, x) →
        Gives .abortFrame s { u with
          staged := u.staged.filter (fun c => c.kind != .consort), consort := { u.consort with staged := none, proposal := none } }) ∧
      (u8 f.body 20 = 1 → s.inEpoch = true → u32 f.body 16 = s.fld CNS_EPOCH_EPOCH →
        Gives .abortFrame s (u.setCns { u.consort with endAt := some (u64 f.body 24) }))) ∧
    (∀ m x, s.power.tripped = false → m < 16 → Tab.look s.consort.peers m = some x →
      (s.fld CNS_MASK_KNOWN).testBit m = true →
      ∃ t, exec (.knownExpiry m) s = .next t ∧ (t.fld CNS_MASK_KNOWN).testBit m = false ∧
        (∀ k, k < 16 → k ≠ m → (t.fld CNS_MASK_KNOWN).testBit k = (s.fld CNS_MASK_KNOWN).testBit k) ∧
        KeepsRest s t ∧ KeepsRegs [CNS_MASK.off] s t)

/-- Agreed changes and shared tensors (R282, R428 to R431): the leader notes who has armed and cancels what one member cannot
arm or has not armed in 250 ticks; an APPLY arms every change of its kind for its boundary and a CANCEL takes back those of the open agreement, which no APPLY has
armed; a
tensor outside an epoch is dropped and counted, one inside goes to its input; a Worham output that waits is sent. The
model's choices in it: log 153, 158, 159. -/
def Obligations.ChangesAreAgreed : Prop :=
  ∀ (s : State),
    (∀ f u k, TakesFrame s tyArm f u → s.cnsLeader = true → s.inEpoch = true → agKind f.body = k → k ≤ 2 →
      (u8 f.body 17 = 0 → (s.agreement k).armedAt = none →
        ∃ t, exec .arm s = .next t ∧ (t.agreement k).armed = insertNat (cnSrc f.body) (s.agreement k).armed ∧
          t.staged = s.staged) ∧
      (u8 f.body 17 ≠ 0 → ∃ t, exec .arm s = .next t ∧ (t.agreement k).armedAt = none ∧ (t.agreement k).armed = [] ∧
        (t.agreement k).sends = (s.agreement k).sends ++ [(none, 2)] ∧ ∀ c ∈ t.staged, c.agreed = some k → c.armed = true)) ∧
    (∀ k t0, k ≤ 2 → s.power.tripped = false → (s.agreement k).armedAt = some t0 → s.cnsLeader = true → t0 + 250 ≤ s.tick →
      ∃ t, exec (.agreementTimeout k) s = .next t ∧ (t.agreement k).armedAt = none ∧
        (t.agreement k).sends = (s.agreement k).sends ++ [(none, 2)] ∧ ∀ c ∈ t.staged, c.agreed = some k → c.armed = true) ∧
    (∀ f u k, TakesFrame s tyApply f u → s.inEpoch = true → cnSrc f.body = 0 → agKind f.body = k → k ≤ 2 →
      let n := sext 64 (u64 f.body 24)
      (s.agreement k).applied.contains n = false →
      ∃ t, exec .applyFrame s = .next t ∧ (t.agreement k).applied = (s.agreement k).applied ++ [n] ∧
        t.staged = s.staged.map (fun c => if c.agreed = some k ∧ c.armed = false then
          { c with armed := true, target := ((s.tick : Int) + n - s.ctick).toNat, ctick := some n } else c)) ∧
    (∀ f u k, TakesFrame s tyCancel f u → s.inEpoch = true → cnSrc f.body = 0 → agKind f.body = k → k ≤ 2 →
      ∃ t, exec .consortCancel s = .next t ∧ (t.agreement k).armedAt = none ∧ ∀ c ∈ t.staged, c.agreed = some k → c.armed = true) ∧
    (∀ f u, TakesFrame s tyTensor f u →
      (s.streamInputs (u8 f.body 16) = [] → Gives .tensor s u) ∧
      (s.streamInputs (u8 f.body 16) ≠ [] → s.inEpoch = false ∨ cnEpoch f.body ≠ s.fld CNS_EPOCH_EPOCH →
        ∃ t, exec .tensor s = .next t ∧ t.fld CNS_STATUS_TENSOR_DROP = 1 ∧ KeepsRest u t ∧
          KeepsRegs [CNS_STATUS.off, CNS_TENSOR_DROP_COUNT.off] u t) ∧
      (∀ n snap i x, s.streamInputs (u8 f.body 16) = [(n, snap)] → s.inEpoch = true →
        cnEpoch f.body = s.fld CNS_EPOCH_EPOCH → (s.svc n).inputs.find? (fun i => i.snap = snap) = some i →
        i.tensor f.body f.waited = (x, false, false) →
        Gives .tensor s (u.modSvc n fun v => { v with inputs := v.inputs.map fun j => if j.snap = snap then x else j }))) ∧
    (∀ n snap rest o, s.power.tripped = false → s.consort.toSend = (n, snap) :: rest →
      (s.svc n).outputs.find? (fun o => o.snap = snap && o.busy) = some o →
      ∃ t, exec .tensorTx s = .next t ∧ t.consort.toSend = rest ∧
        (t.svc n).outputs.map (fun o => (o.snap, o.busy)) =
          (s.svc n).outputs.map (fun o => (o.snap, o.busy && o.snap != snap)) ∧
        ((∀ x ∈ (s.svc n).outputs, x.snap = snap → ∀ w, (x.egress.read w).1 ≠ .uncorrectable) →
          (t.svc n).outputs = (s.svc n).outputs.map (fun o => if o.snap = snap then { o with busy := false } else o)) ∧
        KeepsRest { s with
          consort := t.consort, services := t.services, intake := { s.intake with egress := t.intake.egress } } t ∧
        KeepsRegs [INT_STATUS.off, INT_TX_DROP_COUNT.off, MEM_STATUS.off, MEM_SRAM_CE_COUNT.off, MEM_SRAM_UE_COUNT.off,
          MEM_ERR_REC.off] s t)

/-- Chained distribution (R283, R284, R432 to R434): a target opens the session that a command frame names and keeps the data
that continue what it has; a credit moves the leader's NEXT and LIMIT up; the target's limit is the multiple of 64 KiB
within 1 MiB; a status ends the leader's command with it; NEXT that stands while data beyond it were sent makes them be sent
again, and silence ends the session with CHAIN_LOST. The model's choices in it: log 123, 149, 154. -/
def Obligations.ChainedSessionsRun : Prop :=
  ∀ (s : State),
    (∀ f u, TakesFrame s tyChainCmd f u → (cnDst f.body = s.cnsMember ∨ cnDst f.body = 0xFF) → s.up = true →
      s.session false (chSession f.body) = none → u8 f.body 24 = opNvProgram → headerStatus (sliceZ f.body 24 64) = none →
      u8 f.body 32 < 16 → 0 < u64 f.body 48 → f.body.length = 88 →
      ∃ x, x.id = chSession f.body ∧ x.leads = false ∧ x.peer = cnSrc f.body ∧ x.bytes = sliceZ f.body 24 64 ∧ x.next = 0 ∧
        x.data = [] ∧ Gives .chainCmd s (u.setCns { u.consort with sessions := u.consort.sessions ++ [x] })) ∧
    (∀ f u x, TakesFrame s tyChainData f u → (cnDst f.body = s.cnsMember ∨ cnDst f.body = 0xFF) →
      s.session false (chSession f.body) = some x →
      (u64 f.body 24 ≠ x.next → Gives .chainData s (u.setSession { x with lastHeard := s.now })) ∧
      (u64 f.body 24 = x.next → s.sessionAtWork x.id = true →
        let d := sliceZ f.body 40 (u16 f.body 32)
        ∃ t y, exec .chainData s = .next t ∧ t.session false (chSession f.body) = some y ∧ y.next = x.next + d.length ∧
          y.data = x.data ++ d ∧ y.lastAdvance = s.now)) ∧
    (∀ f u x, TakesFrame s tyChainCredit f u → (cnDst f.body = s.cnsMember ∨ cnDst f.body = 0xFF) →
      s.session true (chSession f.body) = some x → x.peer = cnSrc f.body →
      ∃ t y, exec .chainCredit s = .next t ∧ t.session true (chSession f.body) = some y ∧
        y.next = max x.next (u64 f.body 24) ∧ y.limit = max x.limit (u64 f.body 32) ∧ x.sent ≤ y.sent ∧
        KeepsRest { u with consort := t.consort, intake := { u.intake with egress := t.intake.egress } } t) ∧
    (∀ f u x c, TakesFrame s tyChainStatus f u → (cnDst f.body = s.cnsMember ∨ cnDst f.body = 0xFF) →
      s.session true (chSession f.body) = some x → x.peer = cnSrc f.body → c ∈ s.hif.accepted → c.id = x.cmd →
      c.result = none →
      ∃ t, exec .chainStatus s = .next t ∧ t.session true (chSession f.body) = none ∧
        Ended t x.cmd (u8 f.body 20) (u8 f.body 21) (memberInfo (u48 f.body 26) x.peer) ∧
        (u8 f.body 20 = stChainLost ∨ u8 f.body 20 = stPowerFail → t.fld CNS_STATUS_CHAIN_ERR = 1)) ∧
    (∀ id x, s.power.tripped = false → s.session false id = some x → s.sessionAtWork id = true →
      ∃ t y, exec (.chainCreditTimer id) s = .next t ∧ t.session false id = some y ∧ y.next = x.next ∧
        y.limit = (x.next + 0x100000) / 0x10000 * 0x10000) ∧
    (∀ id x, s.power.tripped = false → s.session true id = some x → x.next < x.sent →
      ∃ t y, exec (.chainResend id) s = .next t ∧ t.session true id = some y ∧ x.next ≤ y.sent ∧
        y.lastAdvance = max s.now (x.lastAdvance + 20000000) ∧ KeepsRest { s with consort := t.consort, intake := { s.intake with egress := t.intake.egress } } t) ∧
    (∀ id x c, s.power.tripped = false → s.session true id = some x → c ∈ s.hif.accepted → c.id = x.cmd → c.result = none →
      ∃ t, exec (.chainTimeout id) s = .next t ∧ t.session true id = none ∧ t.fld CNS_STATUS_CHAIN_ERR = 1 ∧
        Ended t x.cmd stChainLost 0 (nvInfo noSlab noSector x.peer))

/-! ### Crashes of cores (R395, R447 to R451, R455, R456, R486) -/

/-- Crashes: a watchdog expiry or a fault of a core that runs or starts, and a missed ready time, crash a core with their cause code:
CRASH is set, the crash is counted and recorded, and the core restarts, or, with seven crashes in the 60 s before and no rollback, halts. Work that
needed SEC, PMC, SCH or the cluster ends as the spec says. A core that restarts runs again; SEC only where its image
verifies. The model's choices in it: log 160, 163 to 166. -/
def Obligations.ACrashedCoreRestarts : Prop :=
  ∀ (s : State) (core : Nat), s.power.tripped = false → core < 11 → CoresExist s →
    (∀ (c : Instr) (cause : Nat) (u : State),
      (c = .watchdogExpiry core ∧ cause = 1 ∧ s.fwAlive core = true ∧ (core < coreCcc ∨ s.ticking = true) ∧ u = s) ∨
        (c = .coreFault core .exec ∧ cause = 2 ∧ s.fwAlive core = true ∧ u = s) ∨
        (∃ data w flips, c = .coreFault core (.word data w flips) ∧ cause = 3 ∧ s.fwAlive core = true ∧
          u = s.flipCore core data w flips ∧ u.coreWord core data w = .uncorrectable) ∨
        (c = .activationReadyTimeout core ∧ cause = 4 ∧ (s.core core).readyBy.isSome ∧ u = s) →
      ∃ t, exec c s = .next t ∧ t.fld SEC_FW_STATUS_CRASH = 1 ∧ s.now ≤ (t.core core).crashedAt ∧ (t.core core).readyBy = none ∧
        (s.fld SEC_FW_CRASH_COUNT_COUNT < 2 ^ 48 - 1 →
          t.fld SEC_FW_CRASH_COUNT_COUNT = s.fld SEC_FW_CRASH_COUNT_COUNT + 1) ∧
        (s.bit SEC_FW_CRASH_REC_VALID = false →
          t.fld SEC_FW_CRASH_REC_VALID = 1 ∧ t.fld SEC_FW_CRASH_REC_CORE = core ∧ t.fld SEC_FW_CRASH_REC_CAUSE = cause ∧
            t.fld SEC_FW_CRASH_REC_BUILD = imgBuild (u.fwActive core) % 65536) ∧
        (let recent := (s.core core).recent.filter fun x => decide ((t.core core).crashedAt < x + 60000000000)
         (recent.length < 7 → t.fwState core = fwRestarting) ∧
         (7 ≤ recent.length → (s.core core).activatedAt = none →
           t.fwState core = fwHalted ∧ t.fld SEC_FW_STATUS_HALT = 1)) ∧
        (∀ b, (s.core core).activatedAt = some b → (t.core core).crashedAt < b + 10000000000 →
          1 ≤ (s.core core).crashesSince → s.fwOther core = bankPrevious →
          t.fwState core = fwRestarting ∧ ∃ x ∈ t.staged, x.kind = .rollback core) ∧
        (core = coreSec → t.boot.attest = [] ∧ t.fld SEC_CTL_BUSY = 0 ∧ t.spp.checking = none) ∧
        (core = corePmc → t.power.write = none ∧ t.fld PWR_AVS_BUSY = 0 ∧ t.fld PWR_CTL_ENV_REQ = s.fld PWR_STATE_ENV_ACT ∧
          t.fld PWR_STATUS_ENV_WITHDRAWN = 1) ∧
        (core = coreSch → t.fld HIF_STATUS_SCH_DOWN = 1 ∧ ∀ c ∈ s.hif.accepted, c.started = false → c.result = none →
          (∀ d ∈ s.hif.accepted, d.id = c.id → d = c) → Ended t c.id stSchRestart 0 (noInfo c.opcode)) ∧
        (coreCcc ≤ core →
          (∀ k, k < 8 → s.tileState (8 * (core - coreCcc) + k) = tsRunning →
            (t.tileOf (8 * (core - coreCcc) + k)).shadow = true) ∧
          (∀ n ∈ s.clusterSvcs (core - coreCcc), (t.svc n).log.flags.testBit rfClusterFault = true) ∧ t.nv = s.nv ∧
          t.consort = s.consort)) ∧
    (s.fwState core = fwRestarting →
      (((s.core core).readyBy = none ∧ (core = coreSec → (s.checkFw coreSec (s.fwActive coreSec)).1 = stOk)) ∨
        (∃ b, (s.core core).readyBy = some b ∧ s.now ≤ b) →
        ∃ t, exec (.coreRestarted core) s = .next t ∧ t.fwUp core = true ∧
          ((s.core core).applied = true → t.fld SEC_FW_STATUS_ACTIVATED = 1 ∧ (t.core core).applied = false) ∧
          (s.nv.programs = [] → KeepsRest { s with hif := t.hif, cores := t.cores, power := t.power, freeCount := t.freeCount } t ∧
          KeepsRegs (coreKeys ++ [SEC_FW_STATUS.off, HIF_STATUS.off, HIF_EMU_CTL.off, SEC_STATUS.off,
            SEC_VERIFY_FAIL_COUNT.off, PWR_AVS.off]) s t)) ∧
      (core = coreSec → (s.core core).readyBy = none → (s.checkFw coreSec (s.fwActive coreSec)).1 ≠ stOk →
        ∃ t, exec (.coreRestarted core) s = .next t ∧ t.fwState core = fwRestarting))

/-! ### Start-up (R248, R253, R288, R525 to R532) and the resets (R383, R384, R387, R534, R536) -/

/-- Start-up, state by state: FUSE_LOAD when the rails are valid; the straps sampled at the rising edge of PORST_N; CONFIG_LOAD
at the later of that edge and the end of the fuse load; RELEASED with the first valid copy of the configuration image, or in
the bare configuration; READY when the cores run, the scan is complete and LPDDR training has ended. The model's choices in
it: log 187, 188, 189. -/
def Obligations.StartUpGoesStateByState : Prop :=
  ∀ (s : State),
    (s.boot.rails = false → Gives .railsValid s ((s.setBoot { s.boot with rails := true }).setDev stFuseLoad)) ∧
    (s.power.tripped = false → s.dev = stFuseLoad → s.boot.rails = true → s.boot.fuseDone = false →
      (s.boot.porst = false → Gives .fuseLoadDone s (s.setBoot { s.boot with fuseDone := true })) ∧
      (s.boot.porst = true → s.bit PWR_PAD_CTL_HOLD = false → Sending .fuseLoadDone s ((s.setBoot { s.boot with fuseDone := true }).setDev stConfigLoad)
        [.drive "XSPI" true, .pin "XSPI_RESET_N" false, .pin "XSPI_RESET_N" true])) ∧
    (∀ x : Straps, s.power.tripped = false → s.boot.porst = false → s.boot.rails = true →
      ∃ t, exec (.porstNDeassert x) s = .next t ∧ (∀ e ∈ strapFields x, t.fld e.1 = e.2) ∧
        t.fld PWR_CTL_ENV_REQ = x.envDefault.toNat ∧ t.fld TCK_CTL_SRC = (if x.tickSrc then 2 else 0) ∧
        t.fld TCK_CTL_SRC_ACTIVE = (if x.tickSrc then 2 else 0) ∧ t.fld MEM_CFG_ECC_COMPAT = b2n x.eccCompat ∧
        t.fld CNS_ID_LEADER = b2n x.consortRole ∧ (∀ p, p < 2 → t.fld (portCtl INT_PORT_CTL_SPEED p) = b2n x.ethMode) ∧
        t.dev = (if s.boot.fuseDone then stConfigLoad else s.dev) ∧
        KeepsRest { s with boot := { s.boot with porst := true } } t ∧
        KeepsRegs [ID_STATE.off, ID_STRAPS.off, TCK_CTL.off, MEM_CFG.off, CNS_ID.off, PWR_CTL.off,
          (portCtl INT_PORT_CTL_SPEED 0).off, (portCtl INT_PORT_CTL_SPEED 1).off] s t) ∧
    (∀ a b : Option Bytes, s.power.tripped = false → s.dev = stConfigLoad →
      let second := (s.fld ID_STRAPS_BOOT_SRC).testBit 1
      let f := s.boot.fuses
      ∃ t, exec (.configLoadDone a b) s = .next t ∧ t.dev = stReleased ∧ t.boot.releasedAt = some s.now ∧
        (second = false → t.fld ID_BOOT_PRI_RESULT = f.cfgResult a ∧
          t.fld ID_BOOT_SEC_RESULT = (if f.cfgResult a = 1 then 0 else f.cfgResult b)) ∧
        (second = true → t.fld ID_BOOT_SEC_RESULT = f.cfgResult b ∧
          t.fld ID_BOOT_PRI_RESULT = (if f.cfgResult b = 1 then 0 else f.cfgResult a)) ∧
        (t.fld ID_BOOT_PRI_RESULT = 1 → t.fld ID_BOOT_USED = 1 ∧ ∀ x, a = some x → t.boot.config = sliceZ x 0 (u32 x 8)) ∧
        (t.fld ID_BOOT_PRI_RESULT ≠ 1 → t.fld ID_BOOT_SEC_RESULT = 1 →
          t.fld ID_BOOT_USED = 2 ∧ ∀ x, b = some x → t.boot.config = sliceZ x 0 (u32 x 8)) ∧
        (t.fld ID_BOOT_PRI_RESULT ≠ 1 → t.fld ID_BOOT_SEC_RESULT ≠ 1 → t.fld ID_BOOT_USED = 0 ∧ t.boot.config = [] ∧
          t.boot.keys = [some { pub := Config.rootKey, source := 0, roles := 1 }, none] ∧ t.fld MEM_CFG_DENSITY = 0 ∧
          ∀ p, p < 2 → t.fld (portReg INT_MAC_MAC p) = 0) ∧
        KeepsRest { s with boot := t.boot, intake := t.intake } t ∧
        KeepsRegs [ID_STATE.off, ID_BOOT.off, MEM_CFG.off, CNS_ID.off, (portReg INT_MAC_MAC 0).off, (portReg INT_MAC_MAC 1).off,
          PWR_CLK.off, SEC_LIFE.off, SEC_STATUS.off, SEC_VERIFY_FAIL_COUNT.off, CFG_SUBSYS.off] s t) ∧
    (∀ failed, s.power.tripped = false → s.dev = stReleased → s.boot.trained = false →
      (failed % 256 ≠ 0 → ∃ t, exec (.lpddrTrainingDone failed) s = .next t ∧ t.fld MEM_STATUS_TRAIN_FAIL = 1 ∧
        KeepsRest { s with boot := { s.boot with trained := true } } t ∧ KeepsRegs [MEM_STATUS.off] s t) ∧
      (failed % 256 = 0 → Gives (.lpddrTrainingDone failed) s
        ((s.setBoot { s.boot with trained := true }).setFld MEM_CFG_TRAINED (b2n (s.fld MEM_CFG_DENSITY != 0))))) ∧
    (s.power.tripped = false → s.dev = stReleased → s.allRun = true → s.boot.scanDone = true → s.boot.trained = true →
      ∃ t, exec .ready s = .next t ∧ t.dev = stReady ∧ t.fld HIF_STATUS_READY = 1 ∧ t.ticking = false ∧
        t.tickEvent = some s.now ∧ t.boot.list = chunks 64 (cfgBody s.boot.config cfgCommands) ∧
        (cfgBody s.boot.config cfgRegisters ≠ [] → ∃ c ∈ t.staged, c.kind = .startup (cfgBody s.boot.config cfgRegisters)) ∧
        KeepsRest { s with boot := t.boot, staged := t.staged, ticking := false, tickFrom := s.now,
                           tickEvent := some s.now, power := t.power } t ∧
        KeepsRegs [ID_STATE.off, HIF_STATUS.off, ID_BOOT.off, HIF_EMU_CTL.off, PWR_AVS.off] s t)

/-- The scan of the weight store after release: it reads every table and the slot records, in which nothing is bound or under
way then, and resolves an open batch; its end makes the store ready, or leaves it quiesced while PWR_FAIL_N is asserted, or sets NV_FAULT where neither journal copy, or no
table, could be read. The model's choices in it: log 116, 117, 118, 192. -/
def Obligations.TheScanReadsTheWeightStore : Prop :=
  ∀ (s : State), s.power.tripped = false → s.nvPhase = nvScanning →
    (∀ (strict tables : List Nat) (journals : Nat) (records : List Nat) (senses : Senses), s.boot.releasedAt.isSome = true → s.nv.tablesRead = false →
      s.bit PWR_EMERG_PWR_FAIL = false → s.nv.slots = [] → s.nv.erases = [] → s.nv.programs = [] →
      ∃ t, exec (.nvScan strict tables ⟨journals, records, senses⟩) s = .next t ∧ t.nv.tablesRead = true ∧ t.nvPhase = nvScanning ∧
        (t.nv.faulty = true ↔ (journals.testBit 0 = true ∧ journals.testBit 1 = true) ∨ ∀ i, i < 128 → i ∈ tables) ∧
        (t.nv.faulty = false → t.nv.batch = none) ∧
        (∀ n, n < 16 → (t.slotOf n).state ≠ slErasing ∧ (t.slotOf n).state ≠ slProgramming ∧ (t.slotOf n).state ≠ slBound) ∧
        (∀ n, n < 64 → 2 * n ∈ tables → 2 * n + 1 ∈ tables → t.fld NVS_STATUS_TABLE_REPAIR = 1) ∧
        KeepsRest { s with nv := t.nv } t) ∧
    (s.nv.tablesRead = true →
      ∃ t, exec .nvScanDone s = .next t ∧ t.boot.scanDone = true ∧ t.fld NVS_JOURNAL_STAT_DONE = 1 ∧
        t.nvPhase = (if s.nv.faulty then nvFault else if s.bit PWR_EMERG_PWR_FAIL then nvQuiesced else nvReady) ∧
        (s.nv.faulty = true → s.sppOn = true → t.fld SPP_STATUS_NV_FAULT = 1) ∧
        KeepsRest { s with boot := { s.boot with scanDone := true }, spp := t.spp } t ∧
        KeepsRegs [NVS_JOURNAL_STAT.off, NVS_STATE.off, SPP_STATUS.off] s t)

/-- A power-on reset, by PORST_N or by a rail, takes everything but the weight store's contents, the fuses and the factory's
certificates back to reset. The model's choices in it: log 1, 8, 187. -/
def Obligations.APowerOnResetStartsAfresh : Prop :=
  ∀ (s : State) (c : Instr) (rails : Bool),
    (c = .porstNAssert ∧ s.boot.porst = true ∧ rails = s.boot.rails) ∨ ((∃ r, c = .railMonitorTrip r) ∧ rails = false) →
    ∃ t, exec c s = .next t ∧ t.dev = stFuseLoad ∧ Sends s t (.pin "THERM_TRIP_N" true) ∧ Sends s t (.pin "ALERT_A_N" false) ∧
      Sends s t (.pin "ALERT_B_N" false) ∧ Sends s t (.pin "HB_OUT" false) ∧ (s.nv.ops = [] → t.nv = s.nvKept) ∧
      KeepsRest { State.reset with
        pending := s.pending, freeCount := t.freeCount, nv := t.nv
        boot := { Boot.reset with fuses := s.boot.fuses, certA := s.boot.certA, certB := s.boot.certB, rails := rails }
        hif := { Hif.reset with perst := s.hif.perst, emuCount := s.hif.emuCount }
        power := { Power.reset with refclk := s.power.refclk } } t ∧
      KeepsRegs [] State.reset t

/-- The host-interface reset and the link: PERST, FLR, a hot reset and a link-down reset end the rings, D3hot and the pause of
DMA, and accepted host commands complete to no ring; all but FLR take the link down. Recovery pauses DMA until the link has
trained, when result records that it held are written or dropped. In D3hot messages are held, and on the return to D0 each that
nothing else holds is sent. The model's choices in it: log 2, 52, 228. -/
def Obligations.TheHostInterfaceResetsAndPauses : Prop :=
  ∀ (s : State), s.power.tripped = false →
    (∀ c : Instr, (c = .pciePerstAssert ∧ s.hif.perst = false) ∨
        ((c = .functionLevelReset ∨ c = .hotReset ∨ c = .linkDownReset) ∧ s.pcieUp = true) →
      ∃ t, exec c s = .next t ∧ t.hif.cmdRings = [] ∧ t.hif.cplRings = [] ∧ t.hif.resRings = [] ∧ t.hif.d3hot = false ∧
        t.hif.dmaPaused = false ∧ t.hif.heldRecords = [] ∧ t.hif.perst = (if c = .pciePerstAssert then true else s.hif.perst) ∧
        (∀ d ∈ t.hif.accepted, d.fromList = false → d.ring = noPeer) ∧
        t.fld HIF_LINK_UP = (if c = .functionLevelReset then 1 else 0) ∧ t.fld HIF_STATUS_READY = s.fld HIF_STATUS_READY ∧
        (∀ k, hifKey k = true → k ∉ [HIF_STATUS.off, HIF_LINK.off, HIF_EMU_CTL.off] → Tab.look t.regs k = none) ∧
        (s.intake.inputDma = [] → s.boot.quotesHeld = [] → s.nv.programs = [] → s.mem.pool = [] → s.bit SEC_BOOT_CTL_BUSY = false →
          KeepsRest { s with hif := t.hif } t ∧
          ∀ k, hifKey k = false → k ∉ eventKeys → Tab.look t.regs k = Tab.look s.regs k)) ∧
    Gives .pciePerstDeassert s (s.setHif { s.hif with perst := false }) ∧
    (s.pcieUp = true → Gives .pcieLinkRecovery s (s.setHif { s.hif with dmaPaused := true })) ∧
    (∀ width gen, s.hif.perst = false → s.boot.fuseDone = true → s.boot.porst = true → s.bit ID_STRAPS_PCIE_MODE = false →
      (∃ t, exec (.pcieLinkTrained width gen) s = .next t ∧ t.hif.dmaPaused = false ∧ t.hif.heldRecords = [] ∧
        t.fld HIF_LINK_UP = 1 ∧ t.fld HIF_LINK_WIDTH = width % 64 ∧ t.fld HIF_LINK_GEN = gen % 16) ∧
      (s.hif.heldRecords = [] → s.boot.quotesHeld = [] → Gives (.pcieLinkTrained width gen) s ((((s.setHif { s.hif with dmaPaused := false }).setFld HIF_LINK_UP 1).setFld
        HIF_LINK_WIDTH width).setFld HIF_LINK_GEN gen))) ∧
    (s.pcieUp = true → Gives .d3hotEntry s (s.setHif { s.hif with d3hot := true })) ∧
    (s.hif.d3hot = true →
      ∃ t, exec .d0Return s = .next t ∧ t.hif.d3hot = false ∧
        (∀ v ∈ s.hif.msixPending, (s.setHif { s.hif with d3hot := false }).msixHeld v = false → Sends s t (.msix v)) ∧
        (∀ v ∈ s.hif.msixPending, (s.setHif { s.hif with d3hot := false }).msixHeld v = true → v ∈ t.hif.msixPending))

/-! ### The weight store at work (R225 to R230, R233, R238, R239, R243) -/

/-- Page programs and refreshes: the next sector of an image is decrypted and its program begins on a blank page; at its end the
page holds the data with its tag, or the verify has failed and the block is retired; a refresh takes a spare for its
block, and the program of its first page begins; each slab's table is written to both copies. ERASE_BATCH_START with one block waiting
opens a batch of it, and ERASE_DONE without a failure closes the batch with every block blank (R228 to R230). The model's
choices in it: log 37, 115, 240. -/
def Obligations.PagesAreProgrammedAndRefreshed : Prop :=
  ∀ (s : State), s.power.tripped = false →
    (∀ (zeros n i k bk : Nat) (p : NvProgram) (b : Bytes) (rounds : List (List Nat)), s.nvStarts = true → s.opsNow < s.planeOps →
      (s.nv.programs.find? fun q => s.canProgram q) = some p → p.source = 0 →
      nextSector (s.slotOf p.slot).manifest (s.slotOf p.slot).slabsDone.toNat 131073 p.next = some (n, i, k) →
      (let m := (s.slotOf p.slot).manifest
       let pl := s.place (manSlab m i) (s.sectorPage p.slot k)
       s.mapped pl.slab pl.plane pl.lblock = some bk → (s.block bk).erased = true → s.programmed bk = [] →
       s.pageAt bk pl.pg = none → zeros ≤ 8 →
       ∃ t o, exec (.pageProgramStart ⟨zeros, rounds⟩ (some b)) s = .next t ∧ t.nv.ops = s.nv.ops ++ [o] ∧ o.block = bk ∧
         o.page = manSlab m i * 2 ^ 17 + s.sectorPage p.slot k ∧ o.slot = some p.slot ∧
         o.data = words128 (xtsDecrypt p.key (manSlab m i * 131072 + k) (sliceZ b 0 4096)) ∧
         o.kind = (if manXo m then 2 else 1) ∧ t.nv.pages = s.nv.pages ∧ (∀ q ∈ t.nv.programs, q.slot = p.slot → q.next = n + 1) ∧
         (s.fld NVS_PROG_COUNT_COUNT < 2 ^ 48 - 1 → t.fld NVS_PROG_COUNT_COUNT = s.fld NVS_PROG_COUNT_COUNT + 1) ∧
         KeepsRest { s with nv := t.nv } t ∧ KeepsRegs [NVS_PROG_COUNT.off] s t)) ∧
    (∀ (zeros : Nat) (source : Option Bytes) (rounds : List (List Nat)) (c : BlockCopy) (pg : Nat), s.nvStarts = true →
      s.opsNow < s.planeOps → (∀ p ∈ s.nv.programs, s.canProgram p = false) →
      (s.nv.copies.find? fun c => s.copyReady c && s.bankFree c.dest) = some c → c.next = some pg →
      s.pageAt c.dest pg = none → zeros ≤ 8 →
      ∃ t o, exec (.pageProgramStart ⟨zeros, rounds⟩ source) s = .next t ∧ t.nv.ops = s.nv.ops ++ [o] ∧ o.block = c.dest ∧
        o.slot = c.slot ∧ t.nv.pages = s.nv.pages ∧
        (c.todo = [] → ∀ kind image data, c.target = some (pg, kind, image, data) → o.kind = kind ∧ o.image = image ∧ o.data = data) ∧
        (s.fld NVS_PROG_COUNT_COUNT < 2 ^ 48 - 1 → t.fld NVS_PROG_COUNT_COUNT = s.fld NVS_PROG_COUNT_COUNT + 1) ∧
        KeepsRest { s with nv := t.nv } t) ∧
    (∀ (flips : List Nat) (o : PageOp) (rest : List PageOp), s.nv.ops = o :: rest →
      let pl := s.place (o.page / 2 ^ 17) (o.page % 2 ^ 17)
      let page : Page := { words := o.data, tag := makeTag o.kind pl (s.nv.writeSeq + 1) o.image, partly := false }
      let x := decodePage (some page) pl flips
      ∃ t, exec (.pageProgramDone flips) s = .next t ∧ t.nv.ops = rest ∧ t.pageAt o.block pl.pg = some page ∧
        (x.fine = true ∧ x.bits ≤ 4 →
          (t.block o.block).erased = false ∧ (t.block o.block).state = (s.block o.block).state) ∧
        (x.fine = false ∨ 4 < x.bits → (t.block o.block).state = 3 ∧ t.fld NVS_STATUS_PROG_FAIL = 1 ∧
          t.fld NVS_STATUS_GROWN_BAD = 1)) ∧
    (∀ bk l why, s.nvStarts = true → s.nv.batch = none → s.nv.reErase = [(bk, l, why)] → s.nv.erases = [] → s.nv.programs = [] →
      s.opsNow < s.planeOps → s.planeBusy (keySp bk) = false → s.bankErasable bk = true → (s.block bk).erases < 50000 →
      ∃ t, exec .eraseBatchStart s = .next t ∧ t.nv.reErase = [] ∧ (t.block bk).erases = (s.block bk).erases + 1 ∧
        t.nv.batch = some { start := s.now, seq := s.nv.journalSeq + 1, entries := [(bk, l, why)] } ∧
        KeepsRest { s with nv := t.nv } t ∧ KeepsRegs [NVS_STATUS.off] s t) ∧
    (∀ b : Batch, s.nv.batch = some b → s.nvPhase = nvReady → s.nv.erases = [] →
      ∃ t, exec (.eraseDone []) s = .next t ∧ t.nv.batch = none ∧
        (∀ e ∈ b.entries, (t.block e.1).erased = true ∧ (t.block e.1).xo = false ∧ (t.block e.1).born = none ∧
          ∀ pg, pg < 128 → t.pageAt e.1 pg = none) ∧
        KeepsRest { s with nv := t.nv } t ∧ KeepsRegs [NVS_ERASE_COUNT.off] s t) ∧
    (∀ (r : RefreshReq) (k : Nat) (x : CopySenses), s.nvStarts = true → s.nv.refresh = none → s.opsNow < s.planeOps →
      s.refreshNext = some r → s.spareOf r.block = some k →
      (s.pagesBelow r.block 128 = [] →
        ∃ t, exec (.refreshStart x) s = .next t ∧ (∀ q ∈ t.nv.refreshQueue, q.block ≠ r.block) ∧
          KeepsRest { s with nv := t.nv } t) ∧
      (∀ pg rest, s.pagesBelow r.block 128 = pg :: rest → s.pageAt k pg = none → x.zeros ≤ 8 →
        (∀ c ∈ s.nv.copies, c.dest ≠ k) →
        ∃ t o, exec (.refreshStart x) s = .next t ∧ (∀ q ∈ t.nv.refreshQueue, q.block ≠ r.block) ∧
          t.nv.refresh = some { block := r.block, spare := k, logical := (s.block r.block).logical, mapped := false,
                                cause := r.cause } ∧
          t.nv.copies = s.nv.copies ++ [{ source := r.block, dest := k, logical := (s.block r.block).logical, todo := rest,
                                          target := none, slot := none }] ∧
          t.nv.ops = s.nv.ops ++ [o] ∧ o.block = k ∧ o.slot = none ∧ t.nv.pages = s.nv.pages ∧
          (s.fld NVS_PROG_COUNT_COUNT < 2 ^ 48 - 1 → t.fld NVS_PROG_COUNT_COUNT = s.fld NVS_PROG_COUNT_COUNT + 1) ∧
          KeepsRest { s with nv := t.nv } t)) ∧
    (s.nvStarts = true →
      ∃ t, exec .tableVersionWrite s = .next t ∧
        (∀ slab, slab < 64 → ∃ v, Tab.look t.nv.tablesA slab = some v ∧ Tab.look t.nv.tablesB slab = some v ∧
          v.valid = true ∧ v.seq = s.nv.tableSeq + slab + 1 ∧ v.journal = s.nv.journalSeq ∧
          v.blocks = Tab.keep s.savedBlocks fun k => keySlab k = slab) ∧
        KeepsRest { s with nv := { s.nv with
          tableSeq := s.nv.tableSeq + 64, tablesA := t.nv.tablesA, tablesB := t.nv.tablesB } } t ∧
        KeepsRegs [] s t)

/-- Erase batches: an INTENT record in both copies of the journal opens a batch of blocks on distinct planes, each worn by one
more erase; at its end every block is blank, or retired where its verify failed, and a DONE record closes the batch. The
model's choices in it: log 113, 120. -/
def Obligations.ErasesGoByJournaledBatches : Prop :=
  ∀ (s : State), s.power.tripped = false →
    (let l := s.pickBatch (s.planeOps - s.opsNow) s.eraseWanted []
     s.nvStarts = true → s.nv.batch = none → s.opsNow < s.planeOps → l ≠ [] →
     (∀ e ∈ s.eraseWanted, (s.block e.1).erases < 50000) →
     ∃ t, exec .eraseBatchStart s = .next t ∧ t.nv.batch = some { start := s.now, seq := s.nv.journalSeq + 1, entries := l } ∧
       (∃ r : JRecord, r.magic = journalMagic ∧ r.type = 1 ∧ r.count = l.length ∧ r.batch = s.nv.journalSeq + 1 ∧ r.entries = l ∧
         r.crc = crc32 r.body ∧ t.nv.journalA = s.nv.journalA ++ [r] ∧ t.nv.journalB = s.nv.journalB ++ [r]) ∧
       (∀ e ∈ l, (t.block e.1).erases = (s.block e.1).erases + 1) ∧ t.nv.pages = s.nv.pages ∧
       KeepsRest { s with nv := t.nv } t ∧ KeepsRegs [NVS_STATUS.off] s t) ∧
    (∀ (fails : List Nat) (b : Batch), s.nv.batch = some b → s.nvPhase = nvReady →
      ∃ t, exec (.eraseDone fails) s = .next t ∧ t.nv.batch = none ∧
        (∃ r : JRecord, r.magic = journalMagic ∧ r.type = 2 ∧ r.batch = b.seq ∧ r.entries = b.entries ∧ r.crc = crc32 r.body ∧
          t.nv.journalA = s.nv.journalA ++ [r] ∧ t.nv.journalB = s.nv.journalB ++ [r]) ∧
        ((∀ c ∈ s.nv.copies, c.dest ∈ fails → c.slot ≠ none) →
          ∀ e ∈ b.entries, e.1 ∉ fails → (t.block e.1).erased = true ∧ (t.block e.1).senses = 0 ∧
            ∀ pg, pg < 128 → t.pageAt e.1 pg = none) ∧
        (∀ e ∈ b.entries, e.1 ∈ fails → (t.block e.1).state = 3 ∧ t.fld NVS_STATUS_ERASE_FAIL = 1))

/-! ### The tensor pool and line repair (R302 to R306, R312) -/

/-- The pool's DMA and line repair (R302 to R306, R312). POOL_WRITE_BACK_DONE: the words of the range leave for its place in host
memory, no byte of memory changes, and the range frees its frames, unless the longest waiting service has come to need it.
POOL_RESTORE_DONE: the range's places hold what the host returned, or zeros, and no other usable byte has changed. While host
DMA waits neither completes from or into host memory (R305, R383, R384). POOL_DMA_FAILURE: a failed DMA is tried again, and after
the third the range is lost. LINE_REPAIR: the line queued first is written back as decoding finds it, in the compatibility form its uncorrectable words alone,
and no other line changes (R312, R313).
The model's choices in it: log 13, 88, 125. -/
def Obligations.RangesMoveAndLinesAreRepaired : Prop :=
  ∀ (s : State), s.power.tripped = false →
    ((s.mem.pool.find? fun q => q.wherein = .writingBack && !s.dmaHeld) = none → Gives .poolWriteBackDone s s) ∧
    (∀ r, (s.mem.pool.find? fun q => q.wherein = .writingBack && !s.dmaHeld) = some r →
      let q := State.rangeReadGo (r.pages + 1) { s with out := [] } r r.base (r.size / 16)
      ∃ t, exec .poolWriteBackDone s = .next t ∧ t.fld MEM_STATUS_EVICT = 1 ∧
        (s.fld MEM_EVICT_COUNT_COUNT < 2 ^ 48 - 1 → t.fld MEM_EVICT_COUNT_COUNT = s.fld MEM_EVICT_COUNT_COUNT + 1) ∧
        (wordBytes q.2 ≠ [] → Sent s t [.dma r.backing (wordBytes q.2)]) ∧ t.mem.cells = s.mem.cells ∧
        (r.dying = true → ∀ q ∈ t.mem.pool, q.same r = false) ∧
        (r.dying = false → s.poolFirst ≠ some r.svc → ∃ q ∈ t.mem.pool, q.same r = true ∧ q.wherein = .backed ∧ q.frames = []) ∧
        (r.dying = false → s.poolFirst = some r.svc → ∃ q ∈ t.mem.pool, q.same r = true ∧ q.wherein = .held ∧
          q.frames = r.frames) ∧
        KeepsRest { s with mem := t.mem } t ∧
        KeepsRegs [MEM_STATUS.off, MEM_ERR_REC.off, MEM_CE_COUNT.off, MEM_UE_COUNT.off, MEM_EVICT_COUNT.off] s t) ∧
    (s.mem.pool.find? s.restorable = none → ∀ data, Gives (.poolRestoreDone data) s s) ∧
    (∀ r, s.mem.pool.find? s.restorable = some r → r.origin = .backed →
      ∃ t, exec (.poolRestoreDone none) s = .next t ∧ t.fld HIF_STATUS_DMA_ERR = 1 ∧
        (r.fails < 2 → ∃ q ∈ t.mem.pool, q.same r = true ∧ q.redo = true ∧ q.fails = r.fails + 1) ∧
        (2 ≤ r.fails → ∃ q ∈ t.mem.pool, q.same r = true ∧ q.origin = .lost ∧ q.frames = r.frames) ∧
        KeepsRest { s with mem := { s.mem with pool := t.mem.pool } } t ∧ KeepsRegs dmaErrKeys s t) ∧
    (∀ r, s.mem.pool.find? s.restorable = some r → r.dying = false → r.base % 16 = 0 → r.size % 16 = 0 → r.frames.Nodup →
      r.frames.length = r.pages → (∀ f ∈ r.frames, (f + 1) * frameBytes ≤ s.usable) →
      ∀ data : Option Bytes, (r.origin = .backed → data ≠ none) →
        ∃ t, exec (.poolRestoreDone data) s = .next t ∧
          (∀ o, o < r.size → t.dataByte (r.place (r.base + o)) =
            if r.origin = .backed then (sliceZ (data.getD []) 0 r.size).getD o 0 else 0) ∧
          (∀ k, k < s.usable → (∀ o, o < r.size → r.place (r.base + o) ≠ k) → t.dataByte k = s.dataByte k) ∧
          (∃ q ∈ t.mem.pool, q.same r = true ∧ q.wherein = .held ∧ q.frames = r.frames ∧ q.fails = 0) ∧
          (t.svc r.svc).poolTaint = ((s.svc r.svc).poolTaint || (decide (r.origin = .backed) && r.tainted)) ∧
          (t.svc r.svc).poolDiscard = ((s.svc r.svc).poolDiscard || decide (r.origin = .lost)) ∧
          (∀ k, k ≠ r.svc → t.svc k = s.svc k) ∧
          KeepsRest { s with mem := t.mem, services := t.services } t ∧ KeepsRegs [] s t) ∧
    (∀ r, s.mem.pool.find? PoolRange.moving = some r →
      ∃ t, exec .poolDmaFailure s = .next t ∧ t.fld HIF_STATUS_DMA_ERR = 1 ∧
        (r.wherein = .writingBack → r.dying = true → ∀ q ∈ t.mem.pool, q.same r = false) ∧
        (r.wherein = .writingBack → r.dying = false → r.fails < 2 → ∃ q ∈ t.mem.pool, q.same r = true ∧ q.wherein = .held ∧
          q.frames = r.frames ∧ q.fails = r.fails + 1) ∧
        (r.wherein = .writingBack → r.dying = false → 2 ≤ r.fails → t.fld MEM_STATUS_DISCARD = 1 ∧
          ∃ q ∈ t.mem.pool, q.same r = true ∧ q.wherein = .lost ∧ q.frames = []) ∧
        (r.wherein = .restoring → r.fails < 2 → ∃ q ∈ t.mem.pool, q.same r = true ∧ q.redo = true ∧ q.fails = r.fails + 1) ∧
        (r.wherein = .restoring → 2 ≤ r.fails → ∃ q ∈ t.mem.pool, q.same r = true ∧ q.wherein = .restoring ∧
          q.origin = .lost ∧ q.frames = r.frames) ∧
        KeepsRest { s with mem := { s.mem with pool := t.mem.pool } } t ∧
        KeepsRegs (dmaErrKeys ++ [MEM_STATUS.off, MEM_DISCARD_COUNT.off]) s t) ∧
    (∀ a rest, s.mem.repairQueue = a :: rest → a < s.usable →
      ∃ t, exec .lineRepair s = .next t ∧ t.mem.repairQueue = rest ∧ t.mem.pool = s.mem.pool ∧
        (let l := readLine s.mem s.compat s.chBytes a
         (∀ k, k < s.usable → t.dataByte k = if k / 2048 = a / 2048 ∧
              (s.compat = true → ((repairLine l s.compat).1.map (·.1))[k % 2048 / 16]? = some .uncorrectable) then
            (bytes128 (((repairLine l s.compat).1.map (·.2.data)).getD (k % 2048 / 16) 0)).getD (k % 16) 0
          else s.dataByte k) ∧
         ((repairLine l s.compat).2 = false →
           t.fld MEM_STATUS_REPAIR_FAIL = 1 ∧ (s.bit MEM_ERR_REC_VALID = false → t.fld MEM_ERR_REC_KIND = 1)) ∧
         ((repairLine l s.compat).2 = true → s.compat = false → t.fld MEM_STATUS_REPAIRED = 1 ∧
           (s.fld MEM_REPAIR_COUNT_COUNT < 2 ^ 48 - 1 →
             t.fld MEM_REPAIR_COUNT_COUNT = s.fld MEM_REPAIR_COUNT_COUNT + 1))) ∧
        KeepsRest { s with mem := t.mem } t ∧
        KeepsRegs [MEM_STATUS.off, MEM_REPAIR_COUNT.off, MEM_ERR_REC.off] s t) ∧
    (s.mem.pool.find? PoolRange.moving = none → Gives .poolDmaFailure s s) ∧
    (s.mem.repairQueue = [] → Gives .lineRepair s s)

/-! ### The word code (R307 to R309, R315) -/

/-- The weight of a column's low eight bits. -/
def lowWeight (c : Nat) : Nat := popCount 8 (c % 256)

/-- K137 and what its syndromes mean. Data bit i is bit i of the 128-bit word, whose byte b is bits 8b to 8b + 7. The data columns
are the 128 of R307's double loop, each of odd weight, the low eight bits distinct and none of weight 1; with the columns 1 << j
of the check bits no two of the 137 are equal, and no two of them XOR to zero or to a column, so that one wrong bit is known
from any other and two are not taken for one. Check bit j is the XOR of every data bit whose column has bit j, and a word read
is judged by its syndrome: the stored check bits, the address fold taken off, XOR those computed from the data (R307). The
syndromes: 0 is clean, a data column corrects its bit, a check bit's own column leaves the data as it is and counts as
corrected, 0x1FF is stored poison, and any other value is uncorrectable (R308). -/
def Obligations.TheWordCodeIsK137 : Prop :=
  (∀ d : QWord, words128 (bytes128 d) = [d] ∧
    ∀ b, b < 16 → (bytes128 d).getD b 0 = d.extractLsb' (8 * b) 8) ∧
  (kCols = (([2, 3, 4].flatMap fun w => ((List.range 256).filter fun v => popCount 8 v = w).map fun v =>
      if w % 2 = 1 then v else v + 256).take 128) ∧
    kCols.length = 128 ∧ (∀ c ∈ kCols, popCount 9 c % 2 = 1 ∧ lowWeight c ≠ 1) ∧ (kCols.map (· % 256)).Nodup) ∧
  (let all := kCols ++ (List.range 9).map (2 ^ ·)
   all.Nodup ∧ ∀ a ∈ all, ∀ b ∈ all, a ≠ b → a ^^^ b ≠ 0 ∧ a ^^^ b ∉ all) ∧
  (∀ (d : QWord) (j : Nat), j < 9 → (kCheck d).getLsbD j =
    ((List.range 128).filter fun i => (kCols.getD i 0).testBit j).foldl (fun a i => a ^^ d.getLsbD i) false) ∧
  (∀ (w : Nat) (c : CWord), c.dec w = (let r := kDecode ((c.chk ^^^ addrFold w) ^^^ kCheck c.data) c.data
    (r.1, { data := r.2, poison := r.1 = .poison || r.1 = .uncorrectable }))) ∧
  (∀ (syn : BitVec 9) (d : QWord),
    (syn = 0 → kDecode syn d = (.clean, d)) ∧
    (∀ i, i < 128 → syn.toNat = kCols.getD i 0 → kDecode syn d = (.corrected, d ^^^ BitVec.ofNat 128 (2 ^ i))) ∧
    (∀ j, j < 9 → syn.toNat = 2 ^ j → kDecode syn d = (.corrected, d)) ∧
    (syn = 0x1FF → kDecode syn d = (.poison, d)) ∧
    (syn ≠ 0 → syn ≠ 0x1FF → (∀ i, i < 128 → syn.toNat ≠ kCols.getD i 0) → (∀ j, j < 9 → syn.toNat ≠ 2 ^ j) →
      kDecode syn d = (.uncorrectable, d)))

/-- K137 with the address fold: a word read where it was written comes back as it is, marked or not; any one bit of the 137 read wrong
is corrected; any two, data or check, are found and the word is poisoned; so is a word read through a decoder fault of one or
two address bits. -/
def Obligations.TheWordCodeCorrectsOneAndFindsTwo : Prop :=
  let flip := fun (c : CWord) (i : Nat) =>
    if i < 128 then { c with data := c.data ^^^ BitVec.ofNat 128 (2 ^ i) }
    else { c with chk := c.chk ^^^ BitVec.ofNat 9 (2 ^ (i - 128)) }
  ∀ (w : Nat) (m : MWord),
    (CWord.enc w m).dec w = (if m.poison then .poison else .clean, m) ∧
    (m.poison = false →
      (∀ i, i < 137 → (flip (CWord.enc w m) i).dec w = (.corrected, m)) ∧
      (∀ i j, i < j → j < 137 → ((flip (flip (CWord.enc w m) i) j).dec w).1 = .uncorrectable ∧
        ((flip (flip (CWord.enc w m) i) j).dec w).2.poison = true) ∧
      (∀ a b, a ≤ b → b < 36 →
        ((CWord.enc w m).dec (if a = b then w ^^^ 2 ^ a else w ^^^ 2 ^ a ^^^ 2 ^ b)).1 = .uncorrectable))
end

