-- ==== Sys2Proof/Laws/Bits.lean ====
section
/-! SUPPORT. The laws of bit fields: what a field reads after a field of the same word has been replaced. -/

namespace Sys2Proof

theorem testBit_bitsOf (v hi lo i : Nat) : (bitsOf v hi lo).testBit i = (decide (i < hi + 1 - lo) && v.testBit (lo + i)) := by
  simp [bitsOf, Nat.testBit_mod_two_pow, Nat.testBit_shiftRight]

theorem testBit_putBits (v hi lo x i : Nat) (h : lo ≤ hi) :
    (putBits v hi lo x).testBit i = if lo ≤ i ∧ i ≤ hi then x.testBit (i - lo) else v.testBit i := by
  simp only [putBits, Nat.testBit_or, Nat.testBit_shiftLeft, Nat.testBit_shiftRight, Nat.testBit_mod_two_pow]
  by_cases h1 : lo ≤ i
  · by_cases h2 : i ≤ hi
    · have a : ¬ hi + 1 ≤ i := by omega
      have b : ¬ i < lo := by omega
      have c : i - lo < hi + 1 - lo := by omega
      simp [h1, h2, a, b, c]
    · have a : hi + 1 ≤ i := by omega
      have b : ¬ i < lo := by omega
      have c : ¬ i - lo < hi + 1 - lo := by omega
      have d : hi + 1 + (i - (hi + 1)) = i := by omega
      simp [h1, h2, a, b, c, d]
  · have a : ¬ hi + 1 ≤ i := by omega
    have b : i < lo := by omega
    simp [h1, a, b]

/-- A replaced field reads what was put there, cut to its width. -/
theorem bitsOf_putBits (v hi lo x : Nat) (h : lo ≤ hi) : bitsOf (putBits v hi lo x) hi lo = x % 2 ^ (hi + 1 - lo) := by
  apply Nat.eq_of_testBit_eq
  intro i
  rw [testBit_bitsOf, testBit_putBits _ _ _ _ _ h, Nat.testBit_mod_two_pow]
  by_cases a : i < hi + 1 - lo
  · have b : lo ≤ lo + i ∧ lo + i ≤ hi := by omega
    simp [a, b]
  · simp [a]

/-- A field apart from the one replaced reads as before. -/
theorem bitsOf_putBits_apart (v hi lo x hi' lo' : Nat) (h : lo ≤ hi) (h' : hi' < lo ∨ hi < lo') :
    bitsOf (putBits v hi lo x) hi' lo' = bitsOf v hi' lo' := by
  apply Nat.eq_of_testBit_eq
  intro i
  rw [testBit_bitsOf, testBit_bitsOf, testBit_putBits _ _ _ _ _ h]
  by_cases a : i < hi' + 1 - lo'
  · have b : ¬ (lo ≤ lo' + i ∧ lo' + i ≤ hi) := by omega
    simp [b]
  · simp [a]

/-- The fields of a register of 64 bits are those of its value cut to 64 bits. -/
theorem bitsOf_mod (v hi lo n : Nat) (h : hi < n) : bitsOf (v % 2 ^ n) hi lo = bitsOf v hi lo := by
  apply Nat.eq_of_testBit_eq
  intro i
  rw [testBit_bitsOf, testBit_bitsOf, Nat.testBit_mod_two_pow]
  by_cases a : i < hi + 1 - lo
  · have b : lo + i < n := by omega
    simp [b]
  · simp [a]

theorem bitsOf_lt (v hi lo : Nat) : bitsOf v hi lo < 2 ^ (hi + 1 - lo) := Nat.mod_lt _ (Nat.two_pow_pos _)

@[simp] theorem b2n_true : b2n true = 1 := rfl
@[simp] theorem b2n_false : b2n false = 0 := rfl

end Sys2Proof
end

