-- ==== Sys2Proof/Laws/State.lean ====
section
/-! SUPPORT. What each update of the state leaves as it was, and what it stores: one lemma per field per update. -/

namespace Sys2Proof.Machine

@[simp] theorem State.setWhole_pending (s : State) (o r v : Nat) : (s.setWhole o r v).pending = s.pending := (rfl)
@[simp] theorem State.setWhole_now (s : State) (o r v : Nat) : (s.setWhole o r v).now = s.now := (rfl)
@[simp] theorem State.setWhole_boundaryAt (s : State) (o r v : Nat) : (s.setWhole o r v).boundaryAt = s.boundaryAt := (rfl)
@[simp] theorem State.setWhole_ticking (s : State) (o r v : Nat) : (s.setWhole o r v).ticking = s.ticking := (rfl)
@[simp] theorem State.setWhole_tickFrom (s : State) (o r v : Nat) : (s.setWhole o r v).tickFrom = s.tickFrom := (rfl)
@[simp] theorem State.setWhole_tickEvent (s : State) (o r v : Nat) : (s.setWhole o r v).tickEvent = s.tickEvent := (rfl)
@[simp] theorem State.setWhole_srcWritten (s : State) (o r v : Nat) : (s.setWhole o r v).srcWritten = s.srcWritten := (rfl)
@[simp] theorem State.setWhole_missed (s : State) (o r v : Nat) : (s.setWhole o r v).missed = s.missed := (rfl)
@[simp] theorem State.setWhole_phaseAct (s : State) (o r v : Nat) : (s.setWhole o r v).phaseAct = s.phaseAct := (rfl)
@[simp] theorem State.setWhole_slewing (s : State) (o r v : Nat) : (s.setWhole o r v).slewing = s.slewing := (rfl)
@[simp] theorem State.setWhole_gapSeen (s : State) (o r v : Nat) : (s.setWhole o r v).gapSeen = s.gapSeen := (rfl)
@[simp] theorem State.setWhole_lastEnd (s : State) (o r v : Nat) : (s.setWhole o r v).lastEnd = s.lastEnd := (rfl)
@[simp] theorem State.setWhole_runStart (s : State) (o r v : Nat) : (s.setWhole o r v).runStart = s.runStart := (rfl)
@[simp] theorem State.setWhole_runCycle (s : State) (o r v : Nat) : (s.setWhole o r v).runCycle = s.runCycle := (rfl)
@[simp] theorem State.setWhole_freeCount (s : State) (o r v : Nat) : (s.setWhole o r v).freeCount = s.freeCount := (rfl)
@[simp] theorem State.setWhole_services (s : State) (o r v : Nat) : (s.setWhole o r v).services = s.services := (rfl)
@[simp] theorem State.setWhole_staged (s : State) (o r v : Nat) : (s.setWhole o r v).staged = s.staged := (rfl)
@[simp] theorem State.setWhole_modelEpoch (s : State) (o r v : Nat) : (s.setWhole o r v).modelEpoch = s.modelEpoch := (rfl)
@[simp] theorem State.setWhole_configEpoch (s : State) (o r v : Nat) : (s.setWhole o r v).configEpoch = s.configEpoch := (rfl)
@[simp] theorem State.setWhole_tiles (s : State) (o r v : Nat) : (s.setWhole o r v).tiles = s.tiles := (rfl)
@[simp] theorem State.setWhole_clusters (s : State) (o r v : Nat) : (s.setWhole o r v).clusters = s.clusters := (rfl)
@[simp] theorem State.setWhole_barriers (s : State) (o r v : Nat) : (s.setWhole o r v).barriers = s.barriers := (rfl)
@[simp] theorem State.setWhole_deferred (s : State) (o r v : Nat) : (s.setWhole o r v).deferred = s.deferred := (rfl)
@[simp] theorem State.setWhole_nv (s : State) (o r v : Nat) : (s.setWhole o r v).nv = s.nv := (rfl)
@[simp] theorem State.setWhole_mem (s : State) (o r v : Nat) : (s.setWhole o r v).mem = s.mem := (rfl)
@[simp] theorem State.setWhole_intake (s : State) (o r v : Nat) : (s.setWhole o r v).intake = s.intake := (rfl)
@[simp] theorem State.setWhole_hif (s : State) (o r v : Nat) : (s.setWhole o r v).hif = s.hif := (rfl)
@[simp] theorem State.setWhole_consort (s : State) (o r v : Nat) : (s.setWhole o r v).consort = s.consort := (rfl)
@[simp] theorem State.setWhole_cores (s : State) (o r v : Nat) : (s.setWhole o r v).cores = s.cores := (rfl)
@[simp] theorem State.setWhole_spp (s : State) (o r v : Nat) : (s.setWhole o r v).spp = s.spp := (rfl)
@[simp] theorem State.setWhole_power (s : State) (o r v : Nat) : (s.setWhole o r v).power = s.power := (rfl)
@[simp] theorem State.setWhole_boot (s : State) (o r v : Nat) : (s.setWhole o r v).boot = s.boot := (rfl)
@[simp] theorem State.setWhole_log (s : State) (o r v : Nat) : (s.setWhole o r v).log = s.log := (rfl)
@[simp] theorem State.setWhole_out (s : State) (o r v : Nat) : (s.setWhole o r v).out = s.out := (rfl)

@[simp] theorem State.setFld_pending (s : State) (f : Fld) (v : Nat) : (s.setFld f v).pending = s.pending := (rfl)
@[simp] theorem State.setFld_now (s : State) (f : Fld) (v : Nat) : (s.setFld f v).now = s.now := (rfl)
@[simp] theorem State.setFld_boundaryAt (s : State) (f : Fld) (v : Nat) : (s.setFld f v).boundaryAt = s.boundaryAt := (rfl)
@[simp] theorem State.setFld_ticking (s : State) (f : Fld) (v : Nat) : (s.setFld f v).ticking = s.ticking := (rfl)
@[simp] theorem State.setFld_tickFrom (s : State) (f : Fld) (v : Nat) : (s.setFld f v).tickFrom = s.tickFrom := (rfl)
@[simp] theorem State.setFld_tickEvent (s : State) (f : Fld) (v : Nat) : (s.setFld f v).tickEvent = s.tickEvent := (rfl)
@[simp] theorem State.setFld_srcWritten (s : State) (f : Fld) (v : Nat) : (s.setFld f v).srcWritten = s.srcWritten := (rfl)
@[simp] theorem State.setFld_missed (s : State) (f : Fld) (v : Nat) : (s.setFld f v).missed = s.missed := (rfl)
@[simp] theorem State.setFld_phaseAct (s : State) (f : Fld) (v : Nat) : (s.setFld f v).phaseAct = s.phaseAct := (rfl)
@[simp] theorem State.setFld_slewing (s : State) (f : Fld) (v : Nat) : (s.setFld f v).slewing = s.slewing := (rfl)
@[simp] theorem State.setFld_gapSeen (s : State) (f : Fld) (v : Nat) : (s.setFld f v).gapSeen = s.gapSeen := (rfl)
@[simp] theorem State.setFld_lastEnd (s : State) (f : Fld) (v : Nat) : (s.setFld f v).lastEnd = s.lastEnd := (rfl)
@[simp] theorem State.setFld_runStart (s : State) (f : Fld) (v : Nat) : (s.setFld f v).runStart = s.runStart := (rfl)
@[simp] theorem State.setFld_runCycle (s : State) (f : Fld) (v : Nat) : (s.setFld f v).runCycle = s.runCycle := (rfl)
@[simp] theorem State.setFld_freeCount (s : State) (f : Fld) (v : Nat) : (s.setFld f v).freeCount = s.freeCount := (rfl)
@[simp] theorem State.setFld_services (s : State) (f : Fld) (v : Nat) : (s.setFld f v).services = s.services := (rfl)
@[simp] theorem State.setFld_staged (s : State) (f : Fld) (v : Nat) : (s.setFld f v).staged = s.staged := (rfl)
@[simp] theorem State.setFld_modelEpoch (s : State) (f : Fld) (v : Nat) : (s.setFld f v).modelEpoch = s.modelEpoch := (rfl)
@[simp] theorem State.setFld_configEpoch (s : State) (f : Fld) (v : Nat) : (s.setFld f v).configEpoch = s.configEpoch := (rfl)
@[simp] theorem State.setFld_tiles (s : State) (f : Fld) (v : Nat) : (s.setFld f v).tiles = s.tiles := (rfl)
@[simp] theorem State.setFld_clusters (s : State) (f : Fld) (v : Nat) : (s.setFld f v).clusters = s.clusters := (rfl)
@[simp] theorem State.setFld_barriers (s : State) (f : Fld) (v : Nat) : (s.setFld f v).barriers = s.barriers := (rfl)
@[simp] theorem State.setFld_deferred (s : State) (f : Fld) (v : Nat) : (s.setFld f v).deferred = s.deferred := (rfl)
@[simp] theorem State.setFld_nv (s : State) (f : Fld) (v : Nat) : (s.setFld f v).nv = s.nv := (rfl)
@[simp] theorem State.setFld_mem (s : State) (f : Fld) (v : Nat) : (s.setFld f v).mem = s.mem := (rfl)
@[simp] theorem State.setFld_intake (s : State) (f : Fld) (v : Nat) : (s.setFld f v).intake = s.intake := (rfl)
@[simp] theorem State.setFld_hif (s : State) (f : Fld) (v : Nat) : (s.setFld f v).hif = s.hif := (rfl)
@[simp] theorem State.setFld_consort (s : State) (f : Fld) (v : Nat) : (s.setFld f v).consort = s.consort := (rfl)
@[simp] theorem State.setFld_cores (s : State) (f : Fld) (v : Nat) : (s.setFld f v).cores = s.cores := (rfl)
@[simp] theorem State.setFld_spp (s : State) (f : Fld) (v : Nat) : (s.setFld f v).spp = s.spp := (rfl)
@[simp] theorem State.setFld_power (s : State) (f : Fld) (v : Nat) : (s.setFld f v).power = s.power := (rfl)
@[simp] theorem State.setFld_boot (s : State) (f : Fld) (v : Nat) : (s.setFld f v).boot = s.boot := (rfl)
@[simp] theorem State.setFld_log (s : State) (f : Fld) (v : Nat) : (s.setFld f v).log = s.log := (rfl)
@[simp] theorem State.setFld_out (s : State) (f : Fld) (v : Nat) : (s.setFld f v).out = s.out := (rfl)

@[simp] theorem State.setRegAt_pending (s : State) (k v : Nat) : (s.setRegAt k v).pending = s.pending := (rfl)
@[simp] theorem State.setRegAt_now (s : State) (k v : Nat) : (s.setRegAt k v).now = s.now := (rfl)
@[simp] theorem State.setRegAt_boundaryAt (s : State) (k v : Nat) : (s.setRegAt k v).boundaryAt = s.boundaryAt := (rfl)
@[simp] theorem State.setRegAt_ticking (s : State) (k v : Nat) : (s.setRegAt k v).ticking = s.ticking := (rfl)
@[simp] theorem State.setRegAt_tickFrom (s : State) (k v : Nat) : (s.setRegAt k v).tickFrom = s.tickFrom := (rfl)
@[simp] theorem State.setRegAt_tickEvent (s : State) (k v : Nat) : (s.setRegAt k v).tickEvent = s.tickEvent := (rfl)
@[simp] theorem State.setRegAt_srcWritten (s : State) (k v : Nat) : (s.setRegAt k v).srcWritten = s.srcWritten := (rfl)
@[simp] theorem State.setRegAt_missed (s : State) (k v : Nat) : (s.setRegAt k v).missed = s.missed := (rfl)
@[simp] theorem State.setRegAt_phaseAct (s : State) (k v : Nat) : (s.setRegAt k v).phaseAct = s.phaseAct := (rfl)
@[simp] theorem State.setRegAt_slewing (s : State) (k v : Nat) : (s.setRegAt k v).slewing = s.slewing := (rfl)
@[simp] theorem State.setRegAt_gapSeen (s : State) (k v : Nat) : (s.setRegAt k v).gapSeen = s.gapSeen := (rfl)
@[simp] theorem State.setRegAt_lastEnd (s : State) (k v : Nat) : (s.setRegAt k v).lastEnd = s.lastEnd := (rfl)
@[simp] theorem State.setRegAt_runStart (s : State) (k v : Nat) : (s.setRegAt k v).runStart = s.runStart := (rfl)
@[simp] theorem State.setRegAt_runCycle (s : State) (k v : Nat) : (s.setRegAt k v).runCycle = s.runCycle := (rfl)
@[simp] theorem State.setRegAt_freeCount (s : State) (k v : Nat) : (s.setRegAt k v).freeCount = s.freeCount := (rfl)
@[simp] theorem State.setRegAt_services (s : State) (k v : Nat) : (s.setRegAt k v).services = s.services := (rfl)
@[simp] theorem State.setRegAt_staged (s : State) (k v : Nat) : (s.setRegAt k v).staged = s.staged := (rfl)
@[simp] theorem State.setRegAt_modelEpoch (s : State) (k v : Nat) : (s.setRegAt k v).modelEpoch = s.modelEpoch := (rfl)
@[simp] theorem State.setRegAt_configEpoch (s : State) (k v : Nat) : (s.setRegAt k v).configEpoch = s.configEpoch := (rfl)
@[simp] theorem State.setRegAt_tiles (s : State) (k v : Nat) : (s.setRegAt k v).tiles = s.tiles := (rfl)
@[simp] theorem State.setRegAt_clusters (s : State) (k v : Nat) : (s.setRegAt k v).clusters = s.clusters := (rfl)
@[simp] theorem State.setRegAt_barriers (s : State) (k v : Nat) : (s.setRegAt k v).barriers = s.barriers := (rfl)
@[simp] theorem State.setRegAt_deferred (s : State) (k v : Nat) : (s.setRegAt k v).deferred = s.deferred := (rfl)
@[simp] theorem State.setRegAt_nv (s : State) (k v : Nat) : (s.setRegAt k v).nv = s.nv := (rfl)
@[simp] theorem State.setRegAt_mem (s : State) (k v : Nat) : (s.setRegAt k v).mem = s.mem := (rfl)
@[simp] theorem State.setRegAt_intake (s : State) (k v : Nat) : (s.setRegAt k v).intake = s.intake := (rfl)
@[simp] theorem State.setRegAt_hif (s : State) (k v : Nat) : (s.setRegAt k v).hif = s.hif := (rfl)
@[simp] theorem State.setRegAt_consort (s : State) (k v : Nat) : (s.setRegAt k v).consort = s.consort := (rfl)
@[simp] theorem State.setRegAt_cores (s : State) (k v : Nat) : (s.setRegAt k v).cores = s.cores := (rfl)
@[simp] theorem State.setRegAt_spp (s : State) (k v : Nat) : (s.setRegAt k v).spp = s.spp := (rfl)
@[simp] theorem State.setRegAt_power (s : State) (k v : Nat) : (s.setRegAt k v).power = s.power := (rfl)
@[simp] theorem State.setRegAt_boot (s : State) (k v : Nat) : (s.setRegAt k v).boot = s.boot := (rfl)
@[simp] theorem State.setRegAt_log (s : State) (k v : Nat) : (s.setRegAt k v).log = s.log := (rfl)
@[simp] theorem State.setRegAt_out (s : State) (k v : Nat) : (s.setRegAt k v).out = s.out := (rfl)

@[simp] theorem State.quiet_pending (s : State) (f : Fld) : (s.quiet f).pending = s.pending := (rfl)
@[simp] theorem State.quiet_now (s : State) (f : Fld) : (s.quiet f).now = s.now := (rfl)
@[simp] theorem State.quiet_boundaryAt (s : State) (f : Fld) : (s.quiet f).boundaryAt = s.boundaryAt := (rfl)
@[simp] theorem State.quiet_ticking (s : State) (f : Fld) : (s.quiet f).ticking = s.ticking := (rfl)
@[simp] theorem State.quiet_tickFrom (s : State) (f : Fld) : (s.quiet f).tickFrom = s.tickFrom := (rfl)
@[simp] theorem State.quiet_tickEvent (s : State) (f : Fld) : (s.quiet f).tickEvent = s.tickEvent := (rfl)
@[simp] theorem State.quiet_srcWritten (s : State) (f : Fld) : (s.quiet f).srcWritten = s.srcWritten := (rfl)
@[simp] theorem State.quiet_missed (s : State) (f : Fld) : (s.quiet f).missed = s.missed := (rfl)
@[simp] theorem State.quiet_phaseAct (s : State) (f : Fld) : (s.quiet f).phaseAct = s.phaseAct := (rfl)
@[simp] theorem State.quiet_slewing (s : State) (f : Fld) : (s.quiet f).slewing = s.slewing := (rfl)
@[simp] theorem State.quiet_gapSeen (s : State) (f : Fld) : (s.quiet f).gapSeen = s.gapSeen := (rfl)
@[simp] theorem State.quiet_lastEnd (s : State) (f : Fld) : (s.quiet f).lastEnd = s.lastEnd := (rfl)
@[simp] theorem State.quiet_runStart (s : State) (f : Fld) : (s.quiet f).runStart = s.runStart := (rfl)
@[simp] theorem State.quiet_runCycle (s : State) (f : Fld) : (s.quiet f).runCycle = s.runCycle := (rfl)
@[simp] theorem State.quiet_freeCount (s : State) (f : Fld) : (s.quiet f).freeCount = s.freeCount := (rfl)
@[simp] theorem State.quiet_services (s : State) (f : Fld) : (s.quiet f).services = s.services := (rfl)
@[simp] theorem State.quiet_staged (s : State) (f : Fld) : (s.quiet f).staged = s.staged := (rfl)
@[simp] theorem State.quiet_modelEpoch (s : State) (f : Fld) : (s.quiet f).modelEpoch = s.modelEpoch := (rfl)
@[simp] theorem State.quiet_configEpoch (s : State) (f : Fld) : (s.quiet f).configEpoch = s.configEpoch := (rfl)
@[simp] theorem State.quiet_tiles (s : State) (f : Fld) : (s.quiet f).tiles = s.tiles := (rfl)
@[simp] theorem State.quiet_clusters (s : State) (f : Fld) : (s.quiet f).clusters = s.clusters := (rfl)
@[simp] theorem State.quiet_barriers (s : State) (f : Fld) : (s.quiet f).barriers = s.barriers := (rfl)
@[simp] theorem State.quiet_deferred (s : State) (f : Fld) : (s.quiet f).deferred = s.deferred := (rfl)
@[simp] theorem State.quiet_nv (s : State) (f : Fld) : (s.quiet f).nv = s.nv := (rfl)
@[simp] theorem State.quiet_mem (s : State) (f : Fld) : (s.quiet f).mem = s.mem := (rfl)
@[simp] theorem State.quiet_intake (s : State) (f : Fld) : (s.quiet f).intake = s.intake := (rfl)
@[simp] theorem State.quiet_hif (s : State) (f : Fld) : (s.quiet f).hif = s.hif := (rfl)
@[simp] theorem State.quiet_consort (s : State) (f : Fld) : (s.quiet f).consort = s.consort := (rfl)
@[simp] theorem State.quiet_cores (s : State) (f : Fld) : (s.quiet f).cores = s.cores := (rfl)
@[simp] theorem State.quiet_spp (s : State) (f : Fld) : (s.quiet f).spp = s.spp := (rfl)
@[simp] theorem State.quiet_power (s : State) (f : Fld) : (s.quiet f).power = s.power := (rfl)
@[simp] theorem State.quiet_boot (s : State) (f : Fld) : (s.quiet f).boot = s.boot := (rfl)
@[simp] theorem State.quiet_log (s : State) (f : Fld) : (s.quiet f).log = s.log := (rfl)
@[simp] theorem State.quiet_out (s : State) (f : Fld) : (s.quiet f).out = s.out := (rfl)

@[simp] theorem State.emit_pending (s : State) (o : Out) : (s.emit o).pending = s.pending := (rfl)
@[simp] theorem State.emit_now (s : State) (o : Out) : (s.emit o).now = s.now := (rfl)
@[simp] theorem State.emit_boundaryAt (s : State) (o : Out) : (s.emit o).boundaryAt = s.boundaryAt := (rfl)
@[simp] theorem State.emit_ticking (s : State) (o : Out) : (s.emit o).ticking = s.ticking := (rfl)
@[simp] theorem State.emit_tickFrom (s : State) (o : Out) : (s.emit o).tickFrom = s.tickFrom := (rfl)
@[simp] theorem State.emit_tickEvent (s : State) (o : Out) : (s.emit o).tickEvent = s.tickEvent := (rfl)
@[simp] theorem State.emit_srcWritten (s : State) (o : Out) : (s.emit o).srcWritten = s.srcWritten := (rfl)
@[simp] theorem State.emit_missed (s : State) (o : Out) : (s.emit o).missed = s.missed := (rfl)
@[simp] theorem State.emit_phaseAct (s : State) (o : Out) : (s.emit o).phaseAct = s.phaseAct := (rfl)
@[simp] theorem State.emit_slewing (s : State) (o : Out) : (s.emit o).slewing = s.slewing := (rfl)
@[simp] theorem State.emit_gapSeen (s : State) (o : Out) : (s.emit o).gapSeen = s.gapSeen := (rfl)
@[simp] theorem State.emit_lastEnd (s : State) (o : Out) : (s.emit o).lastEnd = s.lastEnd := (rfl)
@[simp] theorem State.emit_runStart (s : State) (o : Out) : (s.emit o).runStart = s.runStart := (rfl)
@[simp] theorem State.emit_runCycle (s : State) (o : Out) : (s.emit o).runCycle = s.runCycle := (rfl)
@[simp] theorem State.emit_freeCount (s : State) (o : Out) : (s.emit o).freeCount = s.freeCount := (rfl)
@[simp] theorem State.emit_services (s : State) (o : Out) : (s.emit o).services = s.services := (rfl)
@[simp] theorem State.emit_staged (s : State) (o : Out) : (s.emit o).staged = s.staged := (rfl)
@[simp] theorem State.emit_modelEpoch (s : State) (o : Out) : (s.emit o).modelEpoch = s.modelEpoch := (rfl)
@[simp] theorem State.emit_configEpoch (s : State) (o : Out) : (s.emit o).configEpoch = s.configEpoch := (rfl)
@[simp] theorem State.emit_tiles (s : State) (o : Out) : (s.emit o).tiles = s.tiles := (rfl)
@[simp] theorem State.emit_clusters (s : State) (o : Out) : (s.emit o).clusters = s.clusters := (rfl)
@[simp] theorem State.emit_barriers (s : State) (o : Out) : (s.emit o).barriers = s.barriers := (rfl)
@[simp] theorem State.emit_deferred (s : State) (o : Out) : (s.emit o).deferred = s.deferred := (rfl)
@[simp] theorem State.emit_nv (s : State) (o : Out) : (s.emit o).nv = s.nv := (rfl)
@[simp] theorem State.emit_mem (s : State) (o : Out) : (s.emit o).mem = s.mem := (rfl)
@[simp] theorem State.emit_intake (s : State) (o : Out) : (s.emit o).intake = s.intake := (rfl)
@[simp] theorem State.emit_hif (s : State) (o : Out) : (s.emit o).hif = s.hif := (rfl)
@[simp] theorem State.emit_consort (s : State) (o : Out) : (s.emit o).consort = s.consort := (rfl)
@[simp] theorem State.emit_cores (s : State) (o : Out) : (s.emit o).cores = s.cores := (rfl)
@[simp] theorem State.emit_spp (s : State) (o : Out) : (s.emit o).spp = s.spp := (rfl)
@[simp] theorem State.emit_power (s : State) (o : Out) : (s.emit o).power = s.power := (rfl)
@[simp] theorem State.emit_boot (s : State) (o : Out) : (s.emit o).boot = s.boot := (rfl)
@[simp] theorem State.emit_log (s : State) (o : Out) : (s.emit o).log = s.log := (rfl)
@[simp] theorem State.emit_regs (s : State) (o : Out) : (s.emit o).regs = s.regs := (rfl)
@[simp] theorem State.emit_out (s : State) (o : Out) : (s.emit o).out = s.out ++ [o] := (rfl)
@[simp] theorem State.emit_fld (s : State) (o : Out) (g : Fld) : (s.emit o).fld g = s.fld g := (rfl)
@[simp] theorem State.emit_whole (s : State) (o : Out) (k w : Nat) : (s.emit o).whole k w = s.whole k w := (rfl)

@[simp] theorem State.upTo_pending (s : State) (n : Nat) : (s.upTo n).pending = s.pending := (rfl)
@[simp] theorem State.upTo_boundaryAt (s : State) (n : Nat) : (s.upTo n).boundaryAt = s.boundaryAt := (rfl)
@[simp] theorem State.upTo_ticking (s : State) (n : Nat) : (s.upTo n).ticking = s.ticking := (rfl)
@[simp] theorem State.upTo_tickFrom (s : State) (n : Nat) : (s.upTo n).tickFrom = s.tickFrom := (rfl)
@[simp] theorem State.upTo_tickEvent (s : State) (n : Nat) : (s.upTo n).tickEvent = s.tickEvent := (rfl)
@[simp] theorem State.upTo_srcWritten (s : State) (n : Nat) : (s.upTo n).srcWritten = s.srcWritten := (rfl)
@[simp] theorem State.upTo_missed (s : State) (n : Nat) : (s.upTo n).missed = s.missed := (rfl)
@[simp] theorem State.upTo_phaseAct (s : State) (n : Nat) : (s.upTo n).phaseAct = s.phaseAct := (rfl)
@[simp] theorem State.upTo_slewing (s : State) (n : Nat) : (s.upTo n).slewing = s.slewing := (rfl)
@[simp] theorem State.upTo_gapSeen (s : State) (n : Nat) : (s.upTo n).gapSeen = s.gapSeen := (rfl)
@[simp] theorem State.upTo_lastEnd (s : State) (n : Nat) : (s.upTo n).lastEnd = s.lastEnd := (rfl)
@[simp] theorem State.upTo_runStart (s : State) (n : Nat) : (s.upTo n).runStart = s.runStart := (rfl)
@[simp] theorem State.upTo_runCycle (s : State) (n : Nat) : (s.upTo n).runCycle = s.runCycle := (rfl)
@[simp] theorem State.upTo_freeCount (s : State) (n : Nat) : (s.upTo n).freeCount = s.freeCount := (rfl)
@[simp] theorem State.upTo_services (s : State) (n : Nat) : (s.upTo n).services = s.services := (rfl)
@[simp] theorem State.upTo_staged (s : State) (n : Nat) : (s.upTo n).staged = s.staged := (rfl)
@[simp] theorem State.upTo_modelEpoch (s : State) (n : Nat) : (s.upTo n).modelEpoch = s.modelEpoch := (rfl)
@[simp] theorem State.upTo_configEpoch (s : State) (n : Nat) : (s.upTo n).configEpoch = s.configEpoch := (rfl)
@[simp] theorem State.upTo_tiles (s : State) (n : Nat) : (s.upTo n).tiles = s.tiles := (rfl)
@[simp] theorem State.upTo_clusters (s : State) (n : Nat) : (s.upTo n).clusters = s.clusters := (rfl)
@[simp] theorem State.upTo_barriers (s : State) (n : Nat) : (s.upTo n).barriers = s.barriers := (rfl)
@[simp] theorem State.upTo_deferred (s : State) (n : Nat) : (s.upTo n).deferred = s.deferred := (rfl)
@[simp] theorem State.upTo_nv (s : State) (n : Nat) : (s.upTo n).nv = s.nv := (rfl)
@[simp] theorem State.upTo_mem (s : State) (n : Nat) : (s.upTo n).mem = s.mem := (rfl)
@[simp] theorem State.upTo_intake (s : State) (n : Nat) : (s.upTo n).intake = s.intake := (rfl)
@[simp] theorem State.upTo_hif (s : State) (n : Nat) : (s.upTo n).hif = s.hif := (rfl)
@[simp] theorem State.upTo_consort (s : State) (n : Nat) : (s.upTo n).consort = s.consort := (rfl)
@[simp] theorem State.upTo_cores (s : State) (n : Nat) : (s.upTo n).cores = s.cores := (rfl)
@[simp] theorem State.upTo_spp (s : State) (n : Nat) : (s.upTo n).spp = s.spp := (rfl)
@[simp] theorem State.upTo_power (s : State) (n : Nat) : (s.upTo n).power = s.power := (rfl)
@[simp] theorem State.upTo_boot (s : State) (n : Nat) : (s.upTo n).boot = s.boot := (rfl)
@[simp] theorem State.upTo_log (s : State) (n : Nat) : (s.upTo n).log = s.log := (rfl)
@[simp] theorem State.upTo_out (s : State) (n : Nat) : (s.upTo n).out = s.out := (rfl)
@[simp] theorem State.upTo_regs (s : State) (n : Nat) : (s.upTo n).regs = s.regs := (rfl)
@[simp] theorem State.upTo_now (s : State) (n : Nat) : (s.upTo n).now = max s.now n := (rfl)
@[simp] theorem State.upTo_fld (s : State) (n : Nat) (g : Fld) : (s.upTo n).fld g = s.fld g := (rfl)
@[simp] theorem State.upTo_whole (s : State) (n : Nat) (k w : Nat) : (s.upTo n).whole k w = s.whole k w := (rfl)

@[simp] theorem State.event_pending (s : State) (a b c : Nat) (d : Bytes) : (s.event a b c d).pending = s.pending := (rfl)
@[simp] theorem State.event_now (s : State) (a b c : Nat) (d : Bytes) : (s.event a b c d).now = s.now := (rfl)
@[simp] theorem State.event_boundaryAt (s : State) (a b c : Nat) (d : Bytes) : (s.event a b c d).boundaryAt = s.boundaryAt := (rfl)
@[simp] theorem State.event_ticking (s : State) (a b c : Nat) (d : Bytes) : (s.event a b c d).ticking = s.ticking := (rfl)
@[simp] theorem State.event_tickFrom (s : State) (a b c : Nat) (d : Bytes) : (s.event a b c d).tickFrom = s.tickFrom := (rfl)
@[simp] theorem State.event_tickEvent (s : State) (a b c : Nat) (d : Bytes) : (s.event a b c d).tickEvent = s.tickEvent := (rfl)
@[simp] theorem State.event_srcWritten (s : State) (a b c : Nat) (d : Bytes) : (s.event a b c d).srcWritten = s.srcWritten := (rfl)
@[simp] theorem State.event_missed (s : State) (a b c : Nat) (d : Bytes) : (s.event a b c d).missed = s.missed := (rfl)
@[simp] theorem State.event_phaseAct (s : State) (a b c : Nat) (d : Bytes) : (s.event a b c d).phaseAct = s.phaseAct := (rfl)
@[simp] theorem State.event_slewing (s : State) (a b c : Nat) (d : Bytes) : (s.event a b c d).slewing = s.slewing := (rfl)
@[simp] theorem State.event_gapSeen (s : State) (a b c : Nat) (d : Bytes) : (s.event a b c d).gapSeen = s.gapSeen := (rfl)
@[simp] theorem State.event_lastEnd (s : State) (a b c : Nat) (d : Bytes) : (s.event a b c d).lastEnd = s.lastEnd := (rfl)
@[simp] theorem State.event_runStart (s : State) (a b c : Nat) (d : Bytes) : (s.event a b c d).runStart = s.runStart := (rfl)
@[simp] theorem State.event_runCycle (s : State) (a b c : Nat) (d : Bytes) : (s.event a b c d).runCycle = s.runCycle := (rfl)
@[simp] theorem State.event_freeCount (s : State) (a b c : Nat) (d : Bytes) : (s.event a b c d).freeCount = s.freeCount := (rfl)
@[simp] theorem State.event_services (s : State) (a b c : Nat) (d : Bytes) : (s.event a b c d).services = s.services := (rfl)
@[simp] theorem State.event_staged (s : State) (a b c : Nat) (d : Bytes) : (s.event a b c d).staged = s.staged := (rfl)
@[simp] theorem State.event_modelEpoch (s : State) (a b c : Nat) (d : Bytes) : (s.event a b c d).modelEpoch = s.modelEpoch := (rfl)
@[simp] theorem State.event_configEpoch (s : State) (a b c : Nat) (d : Bytes) : (s.event a b c d).configEpoch = s.configEpoch := (rfl)
@[simp] theorem State.event_tiles (s : State) (a b c : Nat) (d : Bytes) : (s.event a b c d).tiles = s.tiles := (rfl)
@[simp] theorem State.event_clusters (s : State) (a b c : Nat) (d : Bytes) : (s.event a b c d).clusters = s.clusters := (rfl)
@[simp] theorem State.event_barriers (s : State) (a b c : Nat) (d : Bytes) : (s.event a b c d).barriers = s.barriers := (rfl)
@[simp] theorem State.event_deferred (s : State) (a b c : Nat) (d : Bytes) : (s.event a b c d).deferred = s.deferred := (rfl)
@[simp] theorem State.event_nv (s : State) (a b c : Nat) (d : Bytes) : (s.event a b c d).nv = s.nv := (rfl)
@[simp] theorem State.event_mem (s : State) (a b c : Nat) (d : Bytes) : (s.event a b c d).mem = s.mem := (rfl)
@[simp] theorem State.event_intake (s : State) (a b c : Nat) (d : Bytes) : (s.event a b c d).intake = s.intake := (rfl)
@[simp] theorem State.event_hif (s : State) (a b c : Nat) (d : Bytes) : (s.event a b c d).hif = s.hif := (rfl)
@[simp] theorem State.event_consort (s : State) (a b c : Nat) (d : Bytes) : (s.event a b c d).consort = s.consort := (rfl)
@[simp] theorem State.event_cores (s : State) (a b c : Nat) (d : Bytes) : (s.event a b c d).cores = s.cores := (rfl)
@[simp] theorem State.event_spp (s : State) (a b c : Nat) (d : Bytes) : (s.event a b c d).spp = s.spp := (rfl)
@[simp] theorem State.event_power (s : State) (a b c : Nat) (d : Bytes) : (s.event a b c d).power = s.power := (rfl)
@[simp] theorem State.event_boot (s : State) (a b c : Nat) (d : Bytes) : (s.event a b c d).boot = s.boot := (rfl)
@[simp] theorem State.event_out (s : State) (a b c : Nat) (d : Bytes) : (s.event a b c d).out = s.out := (rfl)
@[simp] theorem State.event_regs (s : State) (a b c : Nat) (d : Bytes) : (s.event a b c d).regs = s.regs := (rfl)
@[simp] theorem State.event_fld (s : State) (a b c : Nat) (d : Bytes) (g : Fld) : (s.event a b c d).fld g = s.fld g := (rfl)
@[simp] theorem State.event_whole (s : State) (a b c : Nat) (d : Bytes) (k w : Nat) : (s.event a b c d).whole k w = s.whole k w := (rfl)

@[simp] theorem State.setSvc_pending (s : State) (n : Nat) (v : Service) : (s.setSvc n v).pending = s.pending := (rfl)
@[simp] theorem State.setSvc_now (s : State) (n : Nat) (v : Service) : (s.setSvc n v).now = s.now := (rfl)
@[simp] theorem State.setSvc_boundaryAt (s : State) (n : Nat) (v : Service) : (s.setSvc n v).boundaryAt = s.boundaryAt := (rfl)
@[simp] theorem State.setSvc_ticking (s : State) (n : Nat) (v : Service) : (s.setSvc n v).ticking = s.ticking := (rfl)
@[simp] theorem State.setSvc_tickFrom (s : State) (n : Nat) (v : Service) : (s.setSvc n v).tickFrom = s.tickFrom := (rfl)
@[simp] theorem State.setSvc_tickEvent (s : State) (n : Nat) (v : Service) : (s.setSvc n v).tickEvent = s.tickEvent := (rfl)
@[simp] theorem State.setSvc_srcWritten (s : State) (n : Nat) (v : Service) : (s.setSvc n v).srcWritten = s.srcWritten := (rfl)
@[simp] theorem State.setSvc_missed (s : State) (n : Nat) (v : Service) : (s.setSvc n v).missed = s.missed := (rfl)
@[simp] theorem State.setSvc_phaseAct (s : State) (n : Nat) (v : Service) : (s.setSvc n v).phaseAct = s.phaseAct := (rfl)
@[simp] theorem State.setSvc_slewing (s : State) (n : Nat) (v : Service) : (s.setSvc n v).slewing = s.slewing := (rfl)
@[simp] theorem State.setSvc_gapSeen (s : State) (n : Nat) (v : Service) : (s.setSvc n v).gapSeen = s.gapSeen := (rfl)
@[simp] theorem State.setSvc_lastEnd (s : State) (n : Nat) (v : Service) : (s.setSvc n v).lastEnd = s.lastEnd := (rfl)
@[simp] theorem State.setSvc_runStart (s : State) (n : Nat) (v : Service) : (s.setSvc n v).runStart = s.runStart := (rfl)
@[simp] theorem State.setSvc_runCycle (s : State) (n : Nat) (v : Service) : (s.setSvc n v).runCycle = s.runCycle := (rfl)
@[simp] theorem State.setSvc_freeCount (s : State) (n : Nat) (v : Service) : (s.setSvc n v).freeCount = s.freeCount := (rfl)
@[simp] theorem State.setSvc_staged (s : State) (n : Nat) (v : Service) : (s.setSvc n v).staged = s.staged := (rfl)
@[simp] theorem State.setSvc_modelEpoch (s : State) (n : Nat) (v : Service) : (s.setSvc n v).modelEpoch = s.modelEpoch := (rfl)
@[simp] theorem State.setSvc_configEpoch (s : State) (n : Nat) (v : Service) : (s.setSvc n v).configEpoch = s.configEpoch := (rfl)
@[simp] theorem State.setSvc_tiles (s : State) (n : Nat) (v : Service) : (s.setSvc n v).tiles = s.tiles := (rfl)
@[simp] theorem State.setSvc_clusters (s : State) (n : Nat) (v : Service) : (s.setSvc n v).clusters = s.clusters := (rfl)
@[simp] theorem State.setSvc_barriers (s : State) (n : Nat) (v : Service) : (s.setSvc n v).barriers = s.barriers := (rfl)
@[simp] theorem State.setSvc_deferred (s : State) (n : Nat) (v : Service) : (s.setSvc n v).deferred = s.deferred := (rfl)
@[simp] theorem State.setSvc_nv (s : State) (n : Nat) (v : Service) : (s.setSvc n v).nv = s.nv := (rfl)
@[simp] theorem State.setSvc_mem (s : State) (n : Nat) (v : Service) : (s.setSvc n v).mem = s.mem := (rfl)
@[simp] theorem State.setSvc_intake (s : State) (n : Nat) (v : Service) : (s.setSvc n v).intake = s.intake := (rfl)
@[simp] theorem State.setSvc_hif (s : State) (n : Nat) (v : Service) : (s.setSvc n v).hif = s.hif := (rfl)
@[simp] theorem State.setSvc_consort (s : State) (n : Nat) (v : Service) : (s.setSvc n v).consort = s.consort := (rfl)
@[simp] theorem State.setSvc_cores (s : State) (n : Nat) (v : Service) : (s.setSvc n v).cores = s.cores := (rfl)
@[simp] theorem State.setSvc_spp (s : State) (n : Nat) (v : Service) : (s.setSvc n v).spp = s.spp := (rfl)
@[simp] theorem State.setSvc_power (s : State) (n : Nat) (v : Service) : (s.setSvc n v).power = s.power := (rfl)
@[simp] theorem State.setSvc_boot (s : State) (n : Nat) (v : Service) : (s.setSvc n v).boot = s.boot := (rfl)
@[simp] theorem State.setSvc_log (s : State) (n : Nat) (v : Service) : (s.setSvc n v).log = s.log := (rfl)
@[simp] theorem State.setSvc_out (s : State) (n : Nat) (v : Service) : (s.setSvc n v).out = s.out := (rfl)
@[simp] theorem State.setSvc_regs (s : State) (n : Nat) (v : Service) : (s.setSvc n v).regs = s.regs := (rfl)
@[simp] theorem State.setSvc_services (s : State) (n : Nat) (v : Service) : (s.setSvc n v).services = Tab.put s.services n v := (rfl)
@[simp] theorem State.setSvc_fld (s : State) (n : Nat) (v : Service) (g : Fld) : (s.setSvc n v).fld g = s.fld g := (rfl)
@[simp] theorem State.setSvc_whole (s : State) (n : Nat) (v : Service) (k w : Nat) : (s.setSvc n v).whole k w = s.whole k w := (rfl)

@[simp] theorem State.modSvc_pending (s : State) (n : Nat) (f : Service → Service) : (s.modSvc n f).pending = s.pending := (rfl)
@[simp] theorem State.modSvc_now (s : State) (n : Nat) (f : Service → Service) : (s.modSvc n f).now = s.now := (rfl)
@[simp] theorem State.modSvc_boundaryAt (s : State) (n : Nat) (f : Service → Service) : (s.modSvc n f).boundaryAt = s.boundaryAt := (rfl)
@[simp] theorem State.modSvc_ticking (s : State) (n : Nat) (f : Service → Service) : (s.modSvc n f).ticking = s.ticking := (rfl)
@[simp] theorem State.modSvc_tickFrom (s : State) (n : Nat) (f : Service → Service) : (s.modSvc n f).tickFrom = s.tickFrom := (rfl)
@[simp] theorem State.modSvc_tickEvent (s : State) (n : Nat) (f : Service → Service) : (s.modSvc n f).tickEvent = s.tickEvent := (rfl)
@[simp] theorem State.modSvc_srcWritten (s : State) (n : Nat) (f : Service → Service) : (s.modSvc n f).srcWritten = s.srcWritten := (rfl)
@[simp] theorem State.modSvc_missed (s : State) (n : Nat) (f : Service → Service) : (s.modSvc n f).missed = s.missed := (rfl)
@[simp] theorem State.modSvc_phaseAct (s : State) (n : Nat) (f : Service → Service) : (s.modSvc n f).phaseAct = s.phaseAct := (rfl)
@[simp] theorem State.modSvc_slewing (s : State) (n : Nat) (f : Service → Service) : (s.modSvc n f).slewing = s.slewing := (rfl)
@[simp] theorem State.modSvc_gapSeen (s : State) (n : Nat) (f : Service → Service) : (s.modSvc n f).gapSeen = s.gapSeen := (rfl)
@[simp] theorem State.modSvc_lastEnd (s : State) (n : Nat) (f : Service → Service) : (s.modSvc n f).lastEnd = s.lastEnd := (rfl)
@[simp] theorem State.modSvc_runStart (s : State) (n : Nat) (f : Service → Service) : (s.modSvc n f).runStart = s.runStart := (rfl)
@[simp] theorem State.modSvc_runCycle (s : State) (n : Nat) (f : Service → Service) : (s.modSvc n f).runCycle = s.runCycle := (rfl)
@[simp] theorem State.modSvc_freeCount (s : State) (n : Nat) (f : Service → Service) : (s.modSvc n f).freeCount = s.freeCount := (rfl)
@[simp] theorem State.modSvc_staged (s : State) (n : Nat) (f : Service → Service) : (s.modSvc n f).staged = s.staged := (rfl)
@[simp] theorem State.modSvc_modelEpoch (s : State) (n : Nat) (f : Service → Service) : (s.modSvc n f).modelEpoch = s.modelEpoch := (rfl)
@[simp] theorem State.modSvc_configEpoch (s : State) (n : Nat) (f : Service → Service) : (s.modSvc n f).configEpoch = s.configEpoch := (rfl)
@[simp] theorem State.modSvc_tiles (s : State) (n : Nat) (f : Service → Service) : (s.modSvc n f).tiles = s.tiles := (rfl)
@[simp] theorem State.modSvc_clusters (s : State) (n : Nat) (f : Service → Service) : (s.modSvc n f).clusters = s.clusters := (rfl)
@[simp] theorem State.modSvc_barriers (s : State) (n : Nat) (f : Service → Service) : (s.modSvc n f).barriers = s.barriers := (rfl)
@[simp] theorem State.modSvc_deferred (s : State) (n : Nat) (f : Service → Service) : (s.modSvc n f).deferred = s.deferred := (rfl)
@[simp] theorem State.modSvc_nv (s : State) (n : Nat) (f : Service → Service) : (s.modSvc n f).nv = s.nv := (rfl)
@[simp] theorem State.modSvc_mem (s : State) (n : Nat) (f : Service → Service) : (s.modSvc n f).mem = s.mem := (rfl)
@[simp] theorem State.modSvc_intake (s : State) (n : Nat) (f : Service → Service) : (s.modSvc n f).intake = s.intake := (rfl)
@[simp] theorem State.modSvc_hif (s : State) (n : Nat) (f : Service → Service) : (s.modSvc n f).hif = s.hif := (rfl)
@[simp] theorem State.modSvc_consort (s : State) (n : Nat) (f : Service → Service) : (s.modSvc n f).consort = s.consort := (rfl)
@[simp] theorem State.modSvc_cores (s : State) (n : Nat) (f : Service → Service) : (s.modSvc n f).cores = s.cores := (rfl)
@[simp] theorem State.modSvc_spp (s : State) (n : Nat) (f : Service → Service) : (s.modSvc n f).spp = s.spp := (rfl)
@[simp] theorem State.modSvc_power (s : State) (n : Nat) (f : Service → Service) : (s.modSvc n f).power = s.power := (rfl)
@[simp] theorem State.modSvc_boot (s : State) (n : Nat) (f : Service → Service) : (s.modSvc n f).boot = s.boot := (rfl)
@[simp] theorem State.modSvc_log (s : State) (n : Nat) (f : Service → Service) : (s.modSvc n f).log = s.log := (rfl)
@[simp] theorem State.modSvc_out (s : State) (n : Nat) (f : Service → Service) : (s.modSvc n f).out = s.out := (rfl)
@[simp] theorem State.modSvc_regs (s : State) (n : Nat) (f : Service → Service) : (s.modSvc n f).regs = s.regs := (rfl)
@[simp] theorem State.modSvc_services (s : State) (n : Nat) (f : Service → Service) : (s.modSvc n f).services = Tab.put s.services n (f (s.svc n)) := (rfl)
@[simp] theorem State.modSvc_fld (s : State) (n : Nat) (f : Service → Service) (g : Fld) : (s.modSvc n f).fld g = s.fld g := (rfl)
@[simp] theorem State.modSvc_whole (s : State) (n : Nat) (f : Service → Service) (k w : Nat) : (s.modSvc n f).whole k w = s.whole k w := (rfl)

@[simp] theorem State.setTile_pending (s : State) (n : Nat) (v : Tile) : (s.setTile n v).pending = s.pending := (rfl)
@[simp] theorem State.setTile_now (s : State) (n : Nat) (v : Tile) : (s.setTile n v).now = s.now := (rfl)
@[simp] theorem State.setTile_boundaryAt (s : State) (n : Nat) (v : Tile) : (s.setTile n v).boundaryAt = s.boundaryAt := (rfl)
@[simp] theorem State.setTile_ticking (s : State) (n : Nat) (v : Tile) : (s.setTile n v).ticking = s.ticking := (rfl)
@[simp] theorem State.setTile_tickFrom (s : State) (n : Nat) (v : Tile) : (s.setTile n v).tickFrom = s.tickFrom := (rfl)
@[simp] theorem State.setTile_tickEvent (s : State) (n : Nat) (v : Tile) : (s.setTile n v).tickEvent = s.tickEvent := (rfl)
@[simp] theorem State.setTile_srcWritten (s : State) (n : Nat) (v : Tile) : (s.setTile n v).srcWritten = s.srcWritten := (rfl)
@[simp] theorem State.setTile_missed (s : State) (n : Nat) (v : Tile) : (s.setTile n v).missed = s.missed := (rfl)
@[simp] theorem State.setTile_phaseAct (s : State) (n : Nat) (v : Tile) : (s.setTile n v).phaseAct = s.phaseAct := (rfl)
@[simp] theorem State.setTile_slewing (s : State) (n : Nat) (v : Tile) : (s.setTile n v).slewing = s.slewing := (rfl)
@[simp] theorem State.setTile_gapSeen (s : State) (n : Nat) (v : Tile) : (s.setTile n v).gapSeen = s.gapSeen := (rfl)
@[simp] theorem State.setTile_lastEnd (s : State) (n : Nat) (v : Tile) : (s.setTile n v).lastEnd = s.lastEnd := (rfl)
@[simp] theorem State.setTile_runStart (s : State) (n : Nat) (v : Tile) : (s.setTile n v).runStart = s.runStart := (rfl)
@[simp] theorem State.setTile_runCycle (s : State) (n : Nat) (v : Tile) : (s.setTile n v).runCycle = s.runCycle := (rfl)
@[simp] theorem State.setTile_freeCount (s : State) (n : Nat) (v : Tile) : (s.setTile n v).freeCount = s.freeCount := (rfl)
@[simp] theorem State.setTile_services (s : State) (n : Nat) (v : Tile) : (s.setTile n v).services = s.services := (rfl)
@[simp] theorem State.setTile_staged (s : State) (n : Nat) (v : Tile) : (s.setTile n v).staged = s.staged := (rfl)
@[simp] theorem State.setTile_modelEpoch (s : State) (n : Nat) (v : Tile) : (s.setTile n v).modelEpoch = s.modelEpoch := (rfl)
@[simp] theorem State.setTile_configEpoch (s : State) (n : Nat) (v : Tile) : (s.setTile n v).configEpoch = s.configEpoch := (rfl)
@[simp] theorem State.setTile_clusters (s : State) (n : Nat) (v : Tile) : (s.setTile n v).clusters = s.clusters := (rfl)
@[simp] theorem State.setTile_barriers (s : State) (n : Nat) (v : Tile) : (s.setTile n v).barriers = s.barriers := (rfl)
@[simp] theorem State.setTile_deferred (s : State) (n : Nat) (v : Tile) : (s.setTile n v).deferred = s.deferred := (rfl)
@[simp] theorem State.setTile_nv (s : State) (n : Nat) (v : Tile) : (s.setTile n v).nv = s.nv := (rfl)
@[simp] theorem State.setTile_mem (s : State) (n : Nat) (v : Tile) : (s.setTile n v).mem = s.mem := (rfl)
@[simp] theorem State.setTile_intake (s : State) (n : Nat) (v : Tile) : (s.setTile n v).intake = s.intake := (rfl)
@[simp] theorem State.setTile_hif (s : State) (n : Nat) (v : Tile) : (s.setTile n v).hif = s.hif := (rfl)
@[simp] theorem State.setTile_consort (s : State) (n : Nat) (v : Tile) : (s.setTile n v).consort = s.consort := (rfl)
@[simp] theorem State.setTile_cores (s : State) (n : Nat) (v : Tile) : (s.setTile n v).cores = s.cores := (rfl)
@[simp] theorem State.setTile_spp (s : State) (n : Nat) (v : Tile) : (s.setTile n v).spp = s.spp := (rfl)
@[simp] theorem State.setTile_power (s : State) (n : Nat) (v : Tile) : (s.setTile n v).power = s.power := (rfl)
@[simp] theorem State.setTile_boot (s : State) (n : Nat) (v : Tile) : (s.setTile n v).boot = s.boot := (rfl)
@[simp] theorem State.setTile_log (s : State) (n : Nat) (v : Tile) : (s.setTile n v).log = s.log := (rfl)
@[simp] theorem State.setTile_out (s : State) (n : Nat) (v : Tile) : (s.setTile n v).out = s.out := (rfl)
@[simp] theorem State.setTile_regs (s : State) (n : Nat) (v : Tile) : (s.setTile n v).regs = s.regs := (rfl)
@[simp] theorem State.setTile_tiles (s : State) (n : Nat) (v : Tile) : (s.setTile n v).tiles = Tab.put s.tiles n v := (rfl)
@[simp] theorem State.setTile_fld (s : State) (n : Nat) (v : Tile) (g : Fld) : (s.setTile n v).fld g = s.fld g := (rfl)
@[simp] theorem State.setTile_whole (s : State) (n : Nat) (v : Tile) (k w : Nat) : (s.setTile n v).whole k w = s.whole k w := (rfl)

@[simp] theorem State.modTile_pending (s : State) (n : Nat) (f : Tile → Tile) : (s.modTile n f).pending = s.pending := (rfl)
@[simp] theorem State.modTile_now (s : State) (n : Nat) (f : Tile → Tile) : (s.modTile n f).now = s.now := (rfl)
@[simp] theorem State.modTile_boundaryAt (s : State) (n : Nat) (f : Tile → Tile) : (s.modTile n f).boundaryAt = s.boundaryAt := (rfl)
@[simp] theorem State.modTile_ticking (s : State) (n : Nat) (f : Tile → Tile) : (s.modTile n f).ticking = s.ticking := (rfl)
@[simp] theorem State.modTile_tickFrom (s : State) (n : Nat) (f : Tile → Tile) : (s.modTile n f).tickFrom = s.tickFrom := (rfl)
@[simp] theorem State.modTile_tickEvent (s : State) (n : Nat) (f : Tile → Tile) : (s.modTile n f).tickEvent = s.tickEvent := (rfl)
@[simp] theorem State.modTile_srcWritten (s : State) (n : Nat) (f : Tile → Tile) : (s.modTile n f).srcWritten = s.srcWritten := (rfl)
@[simp] theorem State.modTile_missed (s : State) (n : Nat) (f : Tile → Tile) : (s.modTile n f).missed = s.missed := (rfl)
@[simp] theorem State.modTile_phaseAct (s : State) (n : Nat) (f : Tile → Tile) : (s.modTile n f).phaseAct = s.phaseAct := (rfl)
@[simp] theorem State.modTile_slewing (s : State) (n : Nat) (f : Tile → Tile) : (s.modTile n f).slewing = s.slewing := (rfl)
@[simp] theorem State.modTile_gapSeen (s : State) (n : Nat) (f : Tile → Tile) : (s.modTile n f).gapSeen = s.gapSeen := (rfl)
@[simp] theorem State.modTile_lastEnd (s : State) (n : Nat) (f : Tile → Tile) : (s.modTile n f).lastEnd = s.lastEnd := (rfl)
@[simp] theorem State.modTile_runStart (s : State) (n : Nat) (f : Tile → Tile) : (s.modTile n f).runStart = s.runStart := (rfl)
@[simp] theorem State.modTile_runCycle (s : State) (n : Nat) (f : Tile → Tile) : (s.modTile n f).runCycle = s.runCycle := (rfl)
@[simp] theorem State.modTile_freeCount (s : State) (n : Nat) (f : Tile → Tile) : (s.modTile n f).freeCount = s.freeCount := (rfl)
@[simp] theorem State.modTile_services (s : State) (n : Nat) (f : Tile → Tile) : (s.modTile n f).services = s.services := (rfl)
@[simp] theorem State.modTile_staged (s : State) (n : Nat) (f : Tile → Tile) : (s.modTile n f).staged = s.staged := (rfl)
@[simp] theorem State.modTile_modelEpoch (s : State) (n : Nat) (f : Tile → Tile) : (s.modTile n f).modelEpoch = s.modelEpoch := (rfl)
@[simp] theorem State.modTile_configEpoch (s : State) (n : Nat) (f : Tile → Tile) : (s.modTile n f).configEpoch = s.configEpoch := (rfl)
@[simp] theorem State.modTile_clusters (s : State) (n : Nat) (f : Tile → Tile) : (s.modTile n f).clusters = s.clusters := (rfl)
@[simp] theorem State.modTile_barriers (s : State) (n : Nat) (f : Tile → Tile) : (s.modTile n f).barriers = s.barriers := (rfl)
@[simp] theorem State.modTile_deferred (s : State) (n : Nat) (f : Tile → Tile) : (s.modTile n f).deferred = s.deferred := (rfl)
@[simp] theorem State.modTile_nv (s : State) (n : Nat) (f : Tile → Tile) : (s.modTile n f).nv = s.nv := (rfl)
@[simp] theorem State.modTile_mem (s : State) (n : Nat) (f : Tile → Tile) : (s.modTile n f).mem = s.mem := (rfl)
@[simp] theorem State.modTile_intake (s : State) (n : Nat) (f : Tile → Tile) : (s.modTile n f).intake = s.intake := (rfl)
@[simp] theorem State.modTile_hif (s : State) (n : Nat) (f : Tile → Tile) : (s.modTile n f).hif = s.hif := (rfl)
@[simp] theorem State.modTile_consort (s : State) (n : Nat) (f : Tile → Tile) : (s.modTile n f).consort = s.consort := (rfl)
@[simp] theorem State.modTile_cores (s : State) (n : Nat) (f : Tile → Tile) : (s.modTile n f).cores = s.cores := (rfl)
@[simp] theorem State.modTile_spp (s : State) (n : Nat) (f : Tile → Tile) : (s.modTile n f).spp = s.spp := (rfl)
@[simp] theorem State.modTile_power (s : State) (n : Nat) (f : Tile → Tile) : (s.modTile n f).power = s.power := (rfl)
@[simp] theorem State.modTile_boot (s : State) (n : Nat) (f : Tile → Tile) : (s.modTile n f).boot = s.boot := (rfl)
@[simp] theorem State.modTile_log (s : State) (n : Nat) (f : Tile → Tile) : (s.modTile n f).log = s.log := (rfl)
@[simp] theorem State.modTile_out (s : State) (n : Nat) (f : Tile → Tile) : (s.modTile n f).out = s.out := (rfl)
@[simp] theorem State.modTile_regs (s : State) (n : Nat) (f : Tile → Tile) : (s.modTile n f).regs = s.regs := (rfl)
@[simp] theorem State.modTile_tiles (s : State) (n : Nat) (f : Tile → Tile) : (s.modTile n f).tiles = Tab.put s.tiles n (f (s.tileOf n)) := (rfl)
@[simp] theorem State.modTile_fld (s : State) (n : Nat) (f : Tile → Tile) (g : Fld) : (s.modTile n f).fld g = s.fld g := (rfl)
@[simp] theorem State.modTile_whole (s : State) (n : Nat) (f : Tile → Tile) (k w : Nat) : (s.modTile n f).whole k w = s.whole k w := (rfl)

@[simp] theorem State.setCluster_pending (s : State) (n : Nat) (v : Cluster) : (s.setCluster n v).pending = s.pending := (rfl)
@[simp] theorem State.setCluster_now (s : State) (n : Nat) (v : Cluster) : (s.setCluster n v).now = s.now := (rfl)
@[simp] theorem State.setCluster_boundaryAt (s : State) (n : Nat) (v : Cluster) : (s.setCluster n v).boundaryAt = s.boundaryAt := (rfl)
@[simp] theorem State.setCluster_ticking (s : State) (n : Nat) (v : Cluster) : (s.setCluster n v).ticking = s.ticking := (rfl)
@[simp] theorem State.setCluster_tickFrom (s : State) (n : Nat) (v : Cluster) : (s.setCluster n v).tickFrom = s.tickFrom := (rfl)
@[simp] theorem State.setCluster_tickEvent (s : State) (n : Nat) (v : Cluster) : (s.setCluster n v).tickEvent = s.tickEvent := (rfl)
@[simp] theorem State.setCluster_srcWritten (s : State) (n : Nat) (v : Cluster) : (s.setCluster n v).srcWritten = s.srcWritten := (rfl)
@[simp] theorem State.setCluster_missed (s : State) (n : Nat) (v : Cluster) : (s.setCluster n v).missed = s.missed := (rfl)
@[simp] theorem State.setCluster_phaseAct (s : State) (n : Nat) (v : Cluster) : (s.setCluster n v).phaseAct = s.phaseAct := (rfl)
@[simp] theorem State.setCluster_slewing (s : State) (n : Nat) (v : Cluster) : (s.setCluster n v).slewing = s.slewing := (rfl)
@[simp] theorem State.setCluster_gapSeen (s : State) (n : Nat) (v : Cluster) : (s.setCluster n v).gapSeen = s.gapSeen := (rfl)
@[simp] theorem State.setCluster_lastEnd (s : State) (n : Nat) (v : Cluster) : (s.setCluster n v).lastEnd = s.lastEnd := (rfl)
@[simp] theorem State.setCluster_runStart (s : State) (n : Nat) (v : Cluster) : (s.setCluster n v).runStart = s.runStart := (rfl)
@[simp] theorem State.setCluster_runCycle (s : State) (n : Nat) (v : Cluster) : (s.setCluster n v).runCycle = s.runCycle := (rfl)
@[simp] theorem State.setCluster_freeCount (s : State) (n : Nat) (v : Cluster) : (s.setCluster n v).freeCount = s.freeCount := (rfl)
@[simp] theorem State.setCluster_services (s : State) (n : Nat) (v : Cluster) : (s.setCluster n v).services = s.services := (rfl)
@[simp] theorem State.setCluster_staged (s : State) (n : Nat) (v : Cluster) : (s.setCluster n v).staged = s.staged := (rfl)
@[simp] theorem State.setCluster_modelEpoch (s : State) (n : Nat) (v : Cluster) : (s.setCluster n v).modelEpoch = s.modelEpoch := (rfl)
@[simp] theorem State.setCluster_configEpoch (s : State) (n : Nat) (v : Cluster) : (s.setCluster n v).configEpoch = s.configEpoch := (rfl)
@[simp] theorem State.setCluster_tiles (s : State) (n : Nat) (v : Cluster) : (s.setCluster n v).tiles = s.tiles := (rfl)
@[simp] theorem State.setCluster_barriers (s : State) (n : Nat) (v : Cluster) : (s.setCluster n v).barriers = s.barriers := (rfl)
@[simp] theorem State.setCluster_deferred (s : State) (n : Nat) (v : Cluster) : (s.setCluster n v).deferred = s.deferred := (rfl)
@[simp] theorem State.setCluster_nv (s : State) (n : Nat) (v : Cluster) : (s.setCluster n v).nv = s.nv := (rfl)
@[simp] theorem State.setCluster_mem (s : State) (n : Nat) (v : Cluster) : (s.setCluster n v).mem = s.mem := (rfl)
@[simp] theorem State.setCluster_intake (s : State) (n : Nat) (v : Cluster) : (s.setCluster n v).intake = s.intake := (rfl)
@[simp] theorem State.setCluster_hif (s : State) (n : Nat) (v : Cluster) : (s.setCluster n v).hif = s.hif := (rfl)
@[simp] theorem State.setCluster_consort (s : State) (n : Nat) (v : Cluster) : (s.setCluster n v).consort = s.consort := (rfl)
@[simp] theorem State.setCluster_cores (s : State) (n : Nat) (v : Cluster) : (s.setCluster n v).cores = s.cores := (rfl)
@[simp] theorem State.setCluster_spp (s : State) (n : Nat) (v : Cluster) : (s.setCluster n v).spp = s.spp := (rfl)
@[simp] theorem State.setCluster_power (s : State) (n : Nat) (v : Cluster) : (s.setCluster n v).power = s.power := (rfl)
@[simp] theorem State.setCluster_boot (s : State) (n : Nat) (v : Cluster) : (s.setCluster n v).boot = s.boot := (rfl)
@[simp] theorem State.setCluster_log (s : State) (n : Nat) (v : Cluster) : (s.setCluster n v).log = s.log := (rfl)
@[simp] theorem State.setCluster_out (s : State) (n : Nat) (v : Cluster) : (s.setCluster n v).out = s.out := (rfl)
@[simp] theorem State.setCluster_regs (s : State) (n : Nat) (v : Cluster) : (s.setCluster n v).regs = s.regs := (rfl)
@[simp] theorem State.setCluster_clusters (s : State) (n : Nat) (v : Cluster) : (s.setCluster n v).clusters = Tab.put s.clusters n v := (rfl)
@[simp] theorem State.setCluster_fld (s : State) (n : Nat) (v : Cluster) (g : Fld) : (s.setCluster n v).fld g = s.fld g := (rfl)
@[simp] theorem State.setCluster_whole (s : State) (n : Nat) (v : Cluster) (k w : Nat) : (s.setCluster n v).whole k w = s.whole k w := (rfl)

@[simp] theorem State.modCore_pending (s : State) (n : Nat) (f : Core → Core) : (s.modCore n f).pending = s.pending := (rfl)
@[simp] theorem State.modCore_now (s : State) (n : Nat) (f : Core → Core) : (s.modCore n f).now = s.now := (rfl)
@[simp] theorem State.modCore_boundaryAt (s : State) (n : Nat) (f : Core → Core) : (s.modCore n f).boundaryAt = s.boundaryAt := (rfl)
@[simp] theorem State.modCore_ticking (s : State) (n : Nat) (f : Core → Core) : (s.modCore n f).ticking = s.ticking := (rfl)
@[simp] theorem State.modCore_tickFrom (s : State) (n : Nat) (f : Core → Core) : (s.modCore n f).tickFrom = s.tickFrom := (rfl)
@[simp] theorem State.modCore_tickEvent (s : State) (n : Nat) (f : Core → Core) : (s.modCore n f).tickEvent = s.tickEvent := (rfl)
@[simp] theorem State.modCore_srcWritten (s : State) (n : Nat) (f : Core → Core) : (s.modCore n f).srcWritten = s.srcWritten := (rfl)
@[simp] theorem State.modCore_missed (s : State) (n : Nat) (f : Core → Core) : (s.modCore n f).missed = s.missed := (rfl)
@[simp] theorem State.modCore_phaseAct (s : State) (n : Nat) (f : Core → Core) : (s.modCore n f).phaseAct = s.phaseAct := (rfl)
@[simp] theorem State.modCore_slewing (s : State) (n : Nat) (f : Core → Core) : (s.modCore n f).slewing = s.slewing := (rfl)
@[simp] theorem State.modCore_gapSeen (s : State) (n : Nat) (f : Core → Core) : (s.modCore n f).gapSeen = s.gapSeen := (rfl)
@[simp] theorem State.modCore_lastEnd (s : State) (n : Nat) (f : Core → Core) : (s.modCore n f).lastEnd = s.lastEnd := (rfl)
@[simp] theorem State.modCore_runStart (s : State) (n : Nat) (f : Core → Core) : (s.modCore n f).runStart = s.runStart := (rfl)
@[simp] theorem State.modCore_runCycle (s : State) (n : Nat) (f : Core → Core) : (s.modCore n f).runCycle = s.runCycle := (rfl)
@[simp] theorem State.modCore_freeCount (s : State) (n : Nat) (f : Core → Core) : (s.modCore n f).freeCount = s.freeCount := (rfl)
@[simp] theorem State.modCore_services (s : State) (n : Nat) (f : Core → Core) : (s.modCore n f).services = s.services := (rfl)
@[simp] theorem State.modCore_staged (s : State) (n : Nat) (f : Core → Core) : (s.modCore n f).staged = s.staged := (rfl)
@[simp] theorem State.modCore_modelEpoch (s : State) (n : Nat) (f : Core → Core) : (s.modCore n f).modelEpoch = s.modelEpoch := (rfl)
@[simp] theorem State.modCore_configEpoch (s : State) (n : Nat) (f : Core → Core) : (s.modCore n f).configEpoch = s.configEpoch := (rfl)
@[simp] theorem State.modCore_tiles (s : State) (n : Nat) (f : Core → Core) : (s.modCore n f).tiles = s.tiles := (rfl)
@[simp] theorem State.modCore_clusters (s : State) (n : Nat) (f : Core → Core) : (s.modCore n f).clusters = s.clusters := (rfl)
@[simp] theorem State.modCore_barriers (s : State) (n : Nat) (f : Core → Core) : (s.modCore n f).barriers = s.barriers := (rfl)
@[simp] theorem State.modCore_deferred (s : State) (n : Nat) (f : Core → Core) : (s.modCore n f).deferred = s.deferred := (rfl)
@[simp] theorem State.modCore_nv (s : State) (n : Nat) (f : Core → Core) : (s.modCore n f).nv = s.nv := (rfl)
@[simp] theorem State.modCore_mem (s : State) (n : Nat) (f : Core → Core) : (s.modCore n f).mem = s.mem := (rfl)
@[simp] theorem State.modCore_intake (s : State) (n : Nat) (f : Core → Core) : (s.modCore n f).intake = s.intake := (rfl)
@[simp] theorem State.modCore_hif (s : State) (n : Nat) (f : Core → Core) : (s.modCore n f).hif = s.hif := (rfl)
@[simp] theorem State.modCore_consort (s : State) (n : Nat) (f : Core → Core) : (s.modCore n f).consort = s.consort := (rfl)
@[simp] theorem State.modCore_spp (s : State) (n : Nat) (f : Core → Core) : (s.modCore n f).spp = s.spp := (rfl)
@[simp] theorem State.modCore_power (s : State) (n : Nat) (f : Core → Core) : (s.modCore n f).power = s.power := (rfl)
@[simp] theorem State.modCore_boot (s : State) (n : Nat) (f : Core → Core) : (s.modCore n f).boot = s.boot := (rfl)
@[simp] theorem State.modCore_log (s : State) (n : Nat) (f : Core → Core) : (s.modCore n f).log = s.log := (rfl)
@[simp] theorem State.modCore_out (s : State) (n : Nat) (f : Core → Core) : (s.modCore n f).out = s.out := (rfl)
@[simp] theorem State.modCore_regs (s : State) (n : Nat) (f : Core → Core) : (s.modCore n f).regs = s.regs := (rfl)
@[simp] theorem State.modCore_cores (s : State) (n : Nat) (f : Core → Core) : (s.modCore n f).cores = Tab.put s.cores n (f (s.core n)) := (rfl)
@[simp] theorem State.modCore_fld (s : State) (n : Nat) (f : Core → Core) (g : Fld) : (s.modCore n f).fld g = s.fld g := (rfl)
@[simp] theorem State.modCore_whole (s : State) (n : Nat) (f : Core → Core) (k w : Nat) : (s.modCore n f).whole k w = s.whole k w := (rfl)

@[simp] theorem State.setNv_pending (s : State) (v : Nv) : (s.setNv v).pending = s.pending := (rfl)
@[simp] theorem State.setNv_now (s : State) (v : Nv) : (s.setNv v).now = s.now := (rfl)
@[simp] theorem State.setNv_boundaryAt (s : State) (v : Nv) : (s.setNv v).boundaryAt = s.boundaryAt := (rfl)
@[simp] theorem State.setNv_ticking (s : State) (v : Nv) : (s.setNv v).ticking = s.ticking := (rfl)
@[simp] theorem State.setNv_tickFrom (s : State) (v : Nv) : (s.setNv v).tickFrom = s.tickFrom := (rfl)
@[simp] theorem State.setNv_tickEvent (s : State) (v : Nv) : (s.setNv v).tickEvent = s.tickEvent := (rfl)
@[simp] theorem State.setNv_srcWritten (s : State) (v : Nv) : (s.setNv v).srcWritten = s.srcWritten := (rfl)
@[simp] theorem State.setNv_missed (s : State) (v : Nv) : (s.setNv v).missed = s.missed := (rfl)
@[simp] theorem State.setNv_phaseAct (s : State) (v : Nv) : (s.setNv v).phaseAct = s.phaseAct := (rfl)
@[simp] theorem State.setNv_slewing (s : State) (v : Nv) : (s.setNv v).slewing = s.slewing := (rfl)
@[simp] theorem State.setNv_gapSeen (s : State) (v : Nv) : (s.setNv v).gapSeen = s.gapSeen := (rfl)
@[simp] theorem State.setNv_lastEnd (s : State) (v : Nv) : (s.setNv v).lastEnd = s.lastEnd := (rfl)
@[simp] theorem State.setNv_runStart (s : State) (v : Nv) : (s.setNv v).runStart = s.runStart := (rfl)
@[simp] theorem State.setNv_runCycle (s : State) (v : Nv) : (s.setNv v).runCycle = s.runCycle := (rfl)
@[simp] theorem State.setNv_freeCount (s : State) (v : Nv) : (s.setNv v).freeCount = s.freeCount := (rfl)
@[simp] theorem State.setNv_services (s : State) (v : Nv) : (s.setNv v).services = s.services := (rfl)
@[simp] theorem State.setNv_staged (s : State) (v : Nv) : (s.setNv v).staged = s.staged := (rfl)
@[simp] theorem State.setNv_modelEpoch (s : State) (v : Nv) : (s.setNv v).modelEpoch = s.modelEpoch := (rfl)
@[simp] theorem State.setNv_configEpoch (s : State) (v : Nv) : (s.setNv v).configEpoch = s.configEpoch := (rfl)
@[simp] theorem State.setNv_tiles (s : State) (v : Nv) : (s.setNv v).tiles = s.tiles := (rfl)
@[simp] theorem State.setNv_clusters (s : State) (v : Nv) : (s.setNv v).clusters = s.clusters := (rfl)
@[simp] theorem State.setNv_barriers (s : State) (v : Nv) : (s.setNv v).barriers = s.barriers := (rfl)
@[simp] theorem State.setNv_deferred (s : State) (v : Nv) : (s.setNv v).deferred = s.deferred := (rfl)
@[simp] theorem State.setNv_mem (s : State) (v : Nv) : (s.setNv v).mem = s.mem := (rfl)
@[simp] theorem State.setNv_intake (s : State) (v : Nv) : (s.setNv v).intake = s.intake := (rfl)
@[simp] theorem State.setNv_hif (s : State) (v : Nv) : (s.setNv v).hif = s.hif := (rfl)
@[simp] theorem State.setNv_consort (s : State) (v : Nv) : (s.setNv v).consort = s.consort := (rfl)
@[simp] theorem State.setNv_cores (s : State) (v : Nv) : (s.setNv v).cores = s.cores := (rfl)
@[simp] theorem State.setNv_spp (s : State) (v : Nv) : (s.setNv v).spp = s.spp := (rfl)
@[simp] theorem State.setNv_power (s : State) (v : Nv) : (s.setNv v).power = s.power := (rfl)
@[simp] theorem State.setNv_boot (s : State) (v : Nv) : (s.setNv v).boot = s.boot := (rfl)
@[simp] theorem State.setNv_log (s : State) (v : Nv) : (s.setNv v).log = s.log := (rfl)
@[simp] theorem State.setNv_out (s : State) (v : Nv) : (s.setNv v).out = s.out := (rfl)
@[simp] theorem State.setNv_regs (s : State) (v : Nv) : (s.setNv v).regs = s.regs := (rfl)
@[simp] theorem State.setNv_nv (s : State) (v : Nv) : (s.setNv v).nv = v := (rfl)
@[simp] theorem State.setNv_fld (s : State) (v : Nv) (g : Fld) : (s.setNv v).fld g = s.fld g := (rfl)
@[simp] theorem State.setNv_whole (s : State) (v : Nv) (k w : Nat) : (s.setNv v).whole k w = s.whole k w := (rfl)

@[simp] theorem State.setMem_pending (s : State) (v : Mem) : (s.setMem v).pending = s.pending := (rfl)
@[simp] theorem State.setMem_now (s : State) (v : Mem) : (s.setMem v).now = s.now := (rfl)
@[simp] theorem State.setMem_boundaryAt (s : State) (v : Mem) : (s.setMem v).boundaryAt = s.boundaryAt := (rfl)
@[simp] theorem State.setMem_ticking (s : State) (v : Mem) : (s.setMem v).ticking = s.ticking := (rfl)
@[simp] theorem State.setMem_tickFrom (s : State) (v : Mem) : (s.setMem v).tickFrom = s.tickFrom := (rfl)
@[simp] theorem State.setMem_tickEvent (s : State) (v : Mem) : (s.setMem v).tickEvent = s.tickEvent := (rfl)
@[simp] theorem State.setMem_srcWritten (s : State) (v : Mem) : (s.setMem v).srcWritten = s.srcWritten := (rfl)
@[simp] theorem State.setMem_missed (s : State) (v : Mem) : (s.setMem v).missed = s.missed := (rfl)
@[simp] theorem State.setMem_phaseAct (s : State) (v : Mem) : (s.setMem v).phaseAct = s.phaseAct := (rfl)
@[simp] theorem State.setMem_slewing (s : State) (v : Mem) : (s.setMem v).slewing = s.slewing := (rfl)
@[simp] theorem State.setMem_gapSeen (s : State) (v : Mem) : (s.setMem v).gapSeen = s.gapSeen := (rfl)
@[simp] theorem State.setMem_lastEnd (s : State) (v : Mem) : (s.setMem v).lastEnd = s.lastEnd := (rfl)
@[simp] theorem State.setMem_runStart (s : State) (v : Mem) : (s.setMem v).runStart = s.runStart := (rfl)
@[simp] theorem State.setMem_runCycle (s : State) (v : Mem) : (s.setMem v).runCycle = s.runCycle := (rfl)
@[simp] theorem State.setMem_freeCount (s : State) (v : Mem) : (s.setMem v).freeCount = s.freeCount := (rfl)
@[simp] theorem State.setMem_services (s : State) (v : Mem) : (s.setMem v).services = s.services := (rfl)
@[simp] theorem State.setMem_staged (s : State) (v : Mem) : (s.setMem v).staged = s.staged := (rfl)
@[simp] theorem State.setMem_modelEpoch (s : State) (v : Mem) : (s.setMem v).modelEpoch = s.modelEpoch := (rfl)
@[simp] theorem State.setMem_configEpoch (s : State) (v : Mem) : (s.setMem v).configEpoch = s.configEpoch := (rfl)
@[simp] theorem State.setMem_tiles (s : State) (v : Mem) : (s.setMem v).tiles = s.tiles := (rfl)
@[simp] theorem State.setMem_clusters (s : State) (v : Mem) : (s.setMem v).clusters = s.clusters := (rfl)
@[simp] theorem State.setMem_barriers (s : State) (v : Mem) : (s.setMem v).barriers = s.barriers := (rfl)
@[simp] theorem State.setMem_deferred (s : State) (v : Mem) : (s.setMem v).deferred = s.deferred := (rfl)
@[simp] theorem State.setMem_nv (s : State) (v : Mem) : (s.setMem v).nv = s.nv := (rfl)
@[simp] theorem State.setMem_intake (s : State) (v : Mem) : (s.setMem v).intake = s.intake := (rfl)
@[simp] theorem State.setMem_hif (s : State) (v : Mem) : (s.setMem v).hif = s.hif := (rfl)
@[simp] theorem State.setMem_consort (s : State) (v : Mem) : (s.setMem v).consort = s.consort := (rfl)
@[simp] theorem State.setMem_cores (s : State) (v : Mem) : (s.setMem v).cores = s.cores := (rfl)
@[simp] theorem State.setMem_spp (s : State) (v : Mem) : (s.setMem v).spp = s.spp := (rfl)
@[simp] theorem State.setMem_power (s : State) (v : Mem) : (s.setMem v).power = s.power := (rfl)
@[simp] theorem State.setMem_boot (s : State) (v : Mem) : (s.setMem v).boot = s.boot := (rfl)
@[simp] theorem State.setMem_log (s : State) (v : Mem) : (s.setMem v).log = s.log := (rfl)
@[simp] theorem State.setMem_out (s : State) (v : Mem) : (s.setMem v).out = s.out := (rfl)
@[simp] theorem State.setMem_regs (s : State) (v : Mem) : (s.setMem v).regs = s.regs := (rfl)
@[simp] theorem State.setMem_mem (s : State) (v : Mem) : (s.setMem v).mem = v := (rfl)
@[simp] theorem State.setMem_fld (s : State) (v : Mem) (g : Fld) : (s.setMem v).fld g = s.fld g := (rfl)
@[simp] theorem State.setMem_whole (s : State) (v : Mem) (k w : Nat) : (s.setMem v).whole k w = s.whole k w := (rfl)

@[simp] theorem State.setIntake_pending (s : State) (v : Intake) : (s.setIntake v).pending = s.pending := (rfl)
@[simp] theorem State.setIntake_now (s : State) (v : Intake) : (s.setIntake v).now = s.now := (rfl)
@[simp] theorem State.setIntake_boundaryAt (s : State) (v : Intake) : (s.setIntake v).boundaryAt = s.boundaryAt := (rfl)
@[simp] theorem State.setIntake_ticking (s : State) (v : Intake) : (s.setIntake v).ticking = s.ticking := (rfl)
@[simp] theorem State.setIntake_tickFrom (s : State) (v : Intake) : (s.setIntake v).tickFrom = s.tickFrom := (rfl)
@[simp] theorem State.setIntake_tickEvent (s : State) (v : Intake) : (s.setIntake v).tickEvent = s.tickEvent := (rfl)
@[simp] theorem State.setIntake_srcWritten (s : State) (v : Intake) : (s.setIntake v).srcWritten = s.srcWritten := (rfl)
@[simp] theorem State.setIntake_missed (s : State) (v : Intake) : (s.setIntake v).missed = s.missed := (rfl)
@[simp] theorem State.setIntake_phaseAct (s : State) (v : Intake) : (s.setIntake v).phaseAct = s.phaseAct := (rfl)
@[simp] theorem State.setIntake_slewing (s : State) (v : Intake) : (s.setIntake v).slewing = s.slewing := (rfl)
@[simp] theorem State.setIntake_gapSeen (s : State) (v : Intake) : (s.setIntake v).gapSeen = s.gapSeen := (rfl)
@[simp] theorem State.setIntake_lastEnd (s : State) (v : Intake) : (s.setIntake v).lastEnd = s.lastEnd := (rfl)
@[simp] theorem State.setIntake_runStart (s : State) (v : Intake) : (s.setIntake v).runStart = s.runStart := (rfl)
@[simp] theorem State.setIntake_runCycle (s : State) (v : Intake) : (s.setIntake v).runCycle = s.runCycle := (rfl)
@[simp] theorem State.setIntake_freeCount (s : State) (v : Intake) : (s.setIntake v).freeCount = s.freeCount := (rfl)
@[simp] theorem State.setIntake_services (s : State) (v : Intake) : (s.setIntake v).services = s.services := (rfl)
@[simp] theorem State.setIntake_staged (s : State) (v : Intake) : (s.setIntake v).staged = s.staged := (rfl)
@[simp] theorem State.setIntake_modelEpoch (s : State) (v : Intake) : (s.setIntake v).modelEpoch = s.modelEpoch := (rfl)
@[simp] theorem State.setIntake_configEpoch (s : State) (v : Intake) : (s.setIntake v).configEpoch = s.configEpoch := (rfl)
@[simp] theorem State.setIntake_tiles (s : State) (v : Intake) : (s.setIntake v).tiles = s.tiles := (rfl)
@[simp] theorem State.setIntake_clusters (s : State) (v : Intake) : (s.setIntake v).clusters = s.clusters := (rfl)
@[simp] theorem State.setIntake_barriers (s : State) (v : Intake) : (s.setIntake v).barriers = s.barriers := (rfl)
@[simp] theorem State.setIntake_deferred (s : State) (v : Intake) : (s.setIntake v).deferred = s.deferred := (rfl)
@[simp] theorem State.setIntake_nv (s : State) (v : Intake) : (s.setIntake v).nv = s.nv := (rfl)
@[simp] theorem State.setIntake_mem (s : State) (v : Intake) : (s.setIntake v).mem = s.mem := (rfl)
@[simp] theorem State.setIntake_hif (s : State) (v : Intake) : (s.setIntake v).hif = s.hif := (rfl)
@[simp] theorem State.setIntake_consort (s : State) (v : Intake) : (s.setIntake v).consort = s.consort := (rfl)
@[simp] theorem State.setIntake_cores (s : State) (v : Intake) : (s.setIntake v).cores = s.cores := (rfl)
@[simp] theorem State.setIntake_spp (s : State) (v : Intake) : (s.setIntake v).spp = s.spp := (rfl)
@[simp] theorem State.setIntake_power (s : State) (v : Intake) : (s.setIntake v).power = s.power := (rfl)
@[simp] theorem State.setIntake_boot (s : State) (v : Intake) : (s.setIntake v).boot = s.boot := (rfl)
@[simp] theorem State.setIntake_log (s : State) (v : Intake) : (s.setIntake v).log = s.log := (rfl)
@[simp] theorem State.setIntake_out (s : State) (v : Intake) : (s.setIntake v).out = s.out := (rfl)
@[simp] theorem State.setIntake_regs (s : State) (v : Intake) : (s.setIntake v).regs = s.regs := (rfl)
@[simp] theorem State.setIntake_intake (s : State) (v : Intake) : (s.setIntake v).intake = v := (rfl)
@[simp] theorem State.setIntake_fld (s : State) (v : Intake) (g : Fld) : (s.setIntake v).fld g = s.fld g := (rfl)
@[simp] theorem State.setIntake_whole (s : State) (v : Intake) (k w : Nat) : (s.setIntake v).whole k w = s.whole k w := (rfl)

@[simp] theorem State.setHif_pending (s : State) (v : Hif) : (s.setHif v).pending = s.pending := (rfl)
@[simp] theorem State.setHif_now (s : State) (v : Hif) : (s.setHif v).now = s.now := (rfl)
@[simp] theorem State.setHif_boundaryAt (s : State) (v : Hif) : (s.setHif v).boundaryAt = s.boundaryAt := (rfl)
@[simp] theorem State.setHif_ticking (s : State) (v : Hif) : (s.setHif v).ticking = s.ticking := (rfl)
@[simp] theorem State.setHif_tickFrom (s : State) (v : Hif) : (s.setHif v).tickFrom = s.tickFrom := (rfl)
@[simp] theorem State.setHif_tickEvent (s : State) (v : Hif) : (s.setHif v).tickEvent = s.tickEvent := (rfl)
@[simp] theorem State.setHif_srcWritten (s : State) (v : Hif) : (s.setHif v).srcWritten = s.srcWritten := (rfl)
@[simp] theorem State.setHif_missed (s : State) (v : Hif) : (s.setHif v).missed = s.missed := (rfl)
@[simp] theorem State.setHif_phaseAct (s : State) (v : Hif) : (s.setHif v).phaseAct = s.phaseAct := (rfl)
@[simp] theorem State.setHif_slewing (s : State) (v : Hif) : (s.setHif v).slewing = s.slewing := (rfl)
@[simp] theorem State.setHif_gapSeen (s : State) (v : Hif) : (s.setHif v).gapSeen = s.gapSeen := (rfl)
@[simp] theorem State.setHif_lastEnd (s : State) (v : Hif) : (s.setHif v).lastEnd = s.lastEnd := (rfl)
@[simp] theorem State.setHif_runStart (s : State) (v : Hif) : (s.setHif v).runStart = s.runStart := (rfl)
@[simp] theorem State.setHif_runCycle (s : State) (v : Hif) : (s.setHif v).runCycle = s.runCycle := (rfl)
@[simp] theorem State.setHif_freeCount (s : State) (v : Hif) : (s.setHif v).freeCount = s.freeCount := (rfl)
@[simp] theorem State.setHif_services (s : State) (v : Hif) : (s.setHif v).services = s.services := (rfl)
@[simp] theorem State.setHif_staged (s : State) (v : Hif) : (s.setHif v).staged = s.staged := (rfl)
@[simp] theorem State.setHif_modelEpoch (s : State) (v : Hif) : (s.setHif v).modelEpoch = s.modelEpoch := (rfl)
@[simp] theorem State.setHif_configEpoch (s : State) (v : Hif) : (s.setHif v).configEpoch = s.configEpoch := (rfl)
@[simp] theorem State.setHif_tiles (s : State) (v : Hif) : (s.setHif v).tiles = s.tiles := (rfl)
@[simp] theorem State.setHif_clusters (s : State) (v : Hif) : (s.setHif v).clusters = s.clusters := (rfl)
@[simp] theorem State.setHif_barriers (s : State) (v : Hif) : (s.setHif v).barriers = s.barriers := (rfl)
@[simp] theorem State.setHif_deferred (s : State) (v : Hif) : (s.setHif v).deferred = s.deferred := (rfl)
@[simp] theorem State.setHif_nv (s : State) (v : Hif) : (s.setHif v).nv = s.nv := (rfl)
@[simp] theorem State.setHif_mem (s : State) (v : Hif) : (s.setHif v).mem = s.mem := (rfl)
@[simp] theorem State.setHif_intake (s : State) (v : Hif) : (s.setHif v).intake = s.intake := (rfl)
@[simp] theorem State.setHif_consort (s : State) (v : Hif) : (s.setHif v).consort = s.consort := (rfl)
@[simp] theorem State.setHif_cores (s : State) (v : Hif) : (s.setHif v).cores = s.cores := (rfl)
@[simp] theorem State.setHif_spp (s : State) (v : Hif) : (s.setHif v).spp = s.spp := (rfl)
@[simp] theorem State.setHif_power (s : State) (v : Hif) : (s.setHif v).power = s.power := (rfl)
@[simp] theorem State.setHif_boot (s : State) (v : Hif) : (s.setHif v).boot = s.boot := (rfl)
@[simp] theorem State.setHif_log (s : State) (v : Hif) : (s.setHif v).log = s.log := (rfl)
@[simp] theorem State.setHif_out (s : State) (v : Hif) : (s.setHif v).out = s.out := (rfl)
@[simp] theorem State.setHif_regs (s : State) (v : Hif) : (s.setHif v).regs = s.regs := (rfl)
@[simp] theorem State.setHif_hif (s : State) (v : Hif) : (s.setHif v).hif = v := (rfl)
@[simp] theorem State.setHif_fld (s : State) (v : Hif) (g : Fld) : (s.setHif v).fld g = s.fld g := (rfl)
@[simp] theorem State.setHif_whole (s : State) (v : Hif) (k w : Nat) : (s.setHif v).whole k w = s.whole k w := (rfl)

@[simp] theorem State.setCns_pending (s : State) (v : Consort) : (s.setCns v).pending = s.pending := (rfl)
@[simp] theorem State.setCns_now (s : State) (v : Consort) : (s.setCns v).now = s.now := (rfl)
@[simp] theorem State.setCns_boundaryAt (s : State) (v : Consort) : (s.setCns v).boundaryAt = s.boundaryAt := (rfl)
@[simp] theorem State.setCns_ticking (s : State) (v : Consort) : (s.setCns v).ticking = s.ticking := (rfl)
@[simp] theorem State.setCns_tickFrom (s : State) (v : Consort) : (s.setCns v).tickFrom = s.tickFrom := (rfl)
@[simp] theorem State.setCns_tickEvent (s : State) (v : Consort) : (s.setCns v).tickEvent = s.tickEvent := (rfl)
@[simp] theorem State.setCns_srcWritten (s : State) (v : Consort) : (s.setCns v).srcWritten = s.srcWritten := (rfl)
@[simp] theorem State.setCns_missed (s : State) (v : Consort) : (s.setCns v).missed = s.missed := (rfl)
@[simp] theorem State.setCns_phaseAct (s : State) (v : Consort) : (s.setCns v).phaseAct = s.phaseAct := (rfl)
@[simp] theorem State.setCns_slewing (s : State) (v : Consort) : (s.setCns v).slewing = s.slewing := (rfl)
@[simp] theorem State.setCns_gapSeen (s : State) (v : Consort) : (s.setCns v).gapSeen = s.gapSeen := (rfl)
@[simp] theorem State.setCns_lastEnd (s : State) (v : Consort) : (s.setCns v).lastEnd = s.lastEnd := (rfl)
@[simp] theorem State.setCns_runStart (s : State) (v : Consort) : (s.setCns v).runStart = s.runStart := (rfl)
@[simp] theorem State.setCns_runCycle (s : State) (v : Consort) : (s.setCns v).runCycle = s.runCycle := (rfl)
@[simp] theorem State.setCns_freeCount (s : State) (v : Consort) : (s.setCns v).freeCount = s.freeCount := (rfl)
@[simp] theorem State.setCns_services (s : State) (v : Consort) : (s.setCns v).services = s.services := (rfl)
@[simp] theorem State.setCns_staged (s : State) (v : Consort) : (s.setCns v).staged = s.staged := (rfl)
@[simp] theorem State.setCns_modelEpoch (s : State) (v : Consort) : (s.setCns v).modelEpoch = s.modelEpoch := (rfl)
@[simp] theorem State.setCns_configEpoch (s : State) (v : Consort) : (s.setCns v).configEpoch = s.configEpoch := (rfl)
@[simp] theorem State.setCns_tiles (s : State) (v : Consort) : (s.setCns v).tiles = s.tiles := (rfl)
@[simp] theorem State.setCns_clusters (s : State) (v : Consort) : (s.setCns v).clusters = s.clusters := (rfl)
@[simp] theorem State.setCns_barriers (s : State) (v : Consort) : (s.setCns v).barriers = s.barriers := (rfl)
@[simp] theorem State.setCns_deferred (s : State) (v : Consort) : (s.setCns v).deferred = s.deferred := (rfl)
@[simp] theorem State.setCns_nv (s : State) (v : Consort) : (s.setCns v).nv = s.nv := (rfl)
@[simp] theorem State.setCns_mem (s : State) (v : Consort) : (s.setCns v).mem = s.mem := (rfl)
@[simp] theorem State.setCns_intake (s : State) (v : Consort) : (s.setCns v).intake = s.intake := (rfl)
@[simp] theorem State.setCns_hif (s : State) (v : Consort) : (s.setCns v).hif = s.hif := (rfl)
@[simp] theorem State.setCns_cores (s : State) (v : Consort) : (s.setCns v).cores = s.cores := (rfl)
@[simp] theorem State.setCns_spp (s : State) (v : Consort) : (s.setCns v).spp = s.spp := (rfl)
@[simp] theorem State.setCns_power (s : State) (v : Consort) : (s.setCns v).power = s.power := (rfl)
@[simp] theorem State.setCns_boot (s : State) (v : Consort) : (s.setCns v).boot = s.boot := (rfl)
@[simp] theorem State.setCns_log (s : State) (v : Consort) : (s.setCns v).log = s.log := (rfl)
@[simp] theorem State.setCns_out (s : State) (v : Consort) : (s.setCns v).out = s.out := (rfl)
@[simp] theorem State.setCns_regs (s : State) (v : Consort) : (s.setCns v).regs = s.regs := (rfl)
@[simp] theorem State.setCns_consort (s : State) (v : Consort) : (s.setCns v).consort = v := (rfl)
@[simp] theorem State.setCns_fld (s : State) (v : Consort) (g : Fld) : (s.setCns v).fld g = s.fld g := (rfl)
@[simp] theorem State.setCns_whole (s : State) (v : Consort) (k w : Nat) : (s.setCns v).whole k w = s.whole k w := (rfl)

@[simp] theorem State.setPower_pending (s : State) (v : Power) : (s.setPower v).pending = s.pending := (rfl)
@[simp] theorem State.setPower_now (s : State) (v : Power) : (s.setPower v).now = s.now := (rfl)
@[simp] theorem State.setPower_boundaryAt (s : State) (v : Power) : (s.setPower v).boundaryAt = s.boundaryAt := (rfl)
@[simp] theorem State.setPower_ticking (s : State) (v : Power) : (s.setPower v).ticking = s.ticking := (rfl)
@[simp] theorem State.setPower_tickFrom (s : State) (v : Power) : (s.setPower v).tickFrom = s.tickFrom := (rfl)
@[simp] theorem State.setPower_tickEvent (s : State) (v : Power) : (s.setPower v).tickEvent = s.tickEvent := (rfl)
@[simp] theorem State.setPower_srcWritten (s : State) (v : Power) : (s.setPower v).srcWritten = s.srcWritten := (rfl)
@[simp] theorem State.setPower_missed (s : State) (v : Power) : (s.setPower v).missed = s.missed := (rfl)
@[simp] theorem State.setPower_phaseAct (s : State) (v : Power) : (s.setPower v).phaseAct = s.phaseAct := (rfl)
@[simp] theorem State.setPower_slewing (s : State) (v : Power) : (s.setPower v).slewing = s.slewing := (rfl)
@[simp] theorem State.setPower_gapSeen (s : State) (v : Power) : (s.setPower v).gapSeen = s.gapSeen := (rfl)
@[simp] theorem State.setPower_lastEnd (s : State) (v : Power) : (s.setPower v).lastEnd = s.lastEnd := (rfl)
@[simp] theorem State.setPower_runStart (s : State) (v : Power) : (s.setPower v).runStart = s.runStart := (rfl)
@[simp] theorem State.setPower_runCycle (s : State) (v : Power) : (s.setPower v).runCycle = s.runCycle := (rfl)
@[simp] theorem State.setPower_freeCount (s : State) (v : Power) : (s.setPower v).freeCount = s.freeCount := (rfl)
@[simp] theorem State.setPower_services (s : State) (v : Power) : (s.setPower v).services = s.services := (rfl)
@[simp] theorem State.setPower_staged (s : State) (v : Power) : (s.setPower v).staged = s.staged := (rfl)
@[simp] theorem State.setPower_modelEpoch (s : State) (v : Power) : (s.setPower v).modelEpoch = s.modelEpoch := (rfl)
@[simp] theorem State.setPower_configEpoch (s : State) (v : Power) : (s.setPower v).configEpoch = s.configEpoch := (rfl)
@[simp] theorem State.setPower_tiles (s : State) (v : Power) : (s.setPower v).tiles = s.tiles := (rfl)
@[simp] theorem State.setPower_clusters (s : State) (v : Power) : (s.setPower v).clusters = s.clusters := (rfl)
@[simp] theorem State.setPower_barriers (s : State) (v : Power) : (s.setPower v).barriers = s.barriers := (rfl)
@[simp] theorem State.setPower_deferred (s : State) (v : Power) : (s.setPower v).deferred = s.deferred := (rfl)
@[simp] theorem State.setPower_nv (s : State) (v : Power) : (s.setPower v).nv = s.nv := (rfl)
@[simp] theorem State.setPower_mem (s : State) (v : Power) : (s.setPower v).mem = s.mem := (rfl)
@[simp] theorem State.setPower_intake (s : State) (v : Power) : (s.setPower v).intake = s.intake := (rfl)
@[simp] theorem State.setPower_hif (s : State) (v : Power) : (s.setPower v).hif = s.hif := (rfl)
@[simp] theorem State.setPower_consort (s : State) (v : Power) : (s.setPower v).consort = s.consort := (rfl)
@[simp] theorem State.setPower_cores (s : State) (v : Power) : (s.setPower v).cores = s.cores := (rfl)
@[simp] theorem State.setPower_spp (s : State) (v : Power) : (s.setPower v).spp = s.spp := (rfl)
@[simp] theorem State.setPower_boot (s : State) (v : Power) : (s.setPower v).boot = s.boot := (rfl)
@[simp] theorem State.setPower_log (s : State) (v : Power) : (s.setPower v).log = s.log := (rfl)
@[simp] theorem State.setPower_out (s : State) (v : Power) : (s.setPower v).out = s.out := (rfl)
@[simp] theorem State.setPower_regs (s : State) (v : Power) : (s.setPower v).regs = s.regs := (rfl)
@[simp] theorem State.setPower_power (s : State) (v : Power) : (s.setPower v).power = v := (rfl)
@[simp] theorem State.setPower_fld (s : State) (v : Power) (g : Fld) : (s.setPower v).fld g = s.fld g := (rfl)
@[simp] theorem State.setPower_whole (s : State) (v : Power) (k w : Nat) : (s.setPower v).whole k w = s.whole k w := (rfl)

@[simp] theorem State.setBoot_pending (s : State) (v : Boot) : (s.setBoot v).pending = s.pending := (rfl)
@[simp] theorem State.setBoot_now (s : State) (v : Boot) : (s.setBoot v).now = s.now := (rfl)
@[simp] theorem State.setBoot_boundaryAt (s : State) (v : Boot) : (s.setBoot v).boundaryAt = s.boundaryAt := (rfl)
@[simp] theorem State.setBoot_ticking (s : State) (v : Boot) : (s.setBoot v).ticking = s.ticking := (rfl)
@[simp] theorem State.setBoot_tickFrom (s : State) (v : Boot) : (s.setBoot v).tickFrom = s.tickFrom := (rfl)
@[simp] theorem State.setBoot_tickEvent (s : State) (v : Boot) : (s.setBoot v).tickEvent = s.tickEvent := (rfl)
@[simp] theorem State.setBoot_srcWritten (s : State) (v : Boot) : (s.setBoot v).srcWritten = s.srcWritten := (rfl)
@[simp] theorem State.setBoot_missed (s : State) (v : Boot) : (s.setBoot v).missed = s.missed := (rfl)
@[simp] theorem State.setBoot_phaseAct (s : State) (v : Boot) : (s.setBoot v).phaseAct = s.phaseAct := (rfl)
@[simp] theorem State.setBoot_slewing (s : State) (v : Boot) : (s.setBoot v).slewing = s.slewing := (rfl)
@[simp] theorem State.setBoot_gapSeen (s : State) (v : Boot) : (s.setBoot v).gapSeen = s.gapSeen := (rfl)
@[simp] theorem State.setBoot_lastEnd (s : State) (v : Boot) : (s.setBoot v).lastEnd = s.lastEnd := (rfl)
@[simp] theorem State.setBoot_runStart (s : State) (v : Boot) : (s.setBoot v).runStart = s.runStart := (rfl)
@[simp] theorem State.setBoot_runCycle (s : State) (v : Boot) : (s.setBoot v).runCycle = s.runCycle := (rfl)
@[simp] theorem State.setBoot_freeCount (s : State) (v : Boot) : (s.setBoot v).freeCount = s.freeCount := (rfl)
@[simp] theorem State.setBoot_services (s : State) (v : Boot) : (s.setBoot v).services = s.services := (rfl)
@[simp] theorem State.setBoot_staged (s : State) (v : Boot) : (s.setBoot v).staged = s.staged := (rfl)
@[simp] theorem State.setBoot_modelEpoch (s : State) (v : Boot) : (s.setBoot v).modelEpoch = s.modelEpoch := (rfl)
@[simp] theorem State.setBoot_configEpoch (s : State) (v : Boot) : (s.setBoot v).configEpoch = s.configEpoch := (rfl)
@[simp] theorem State.setBoot_tiles (s : State) (v : Boot) : (s.setBoot v).tiles = s.tiles := (rfl)
@[simp] theorem State.setBoot_clusters (s : State) (v : Boot) : (s.setBoot v).clusters = s.clusters := (rfl)
@[simp] theorem State.setBoot_barriers (s : State) (v : Boot) : (s.setBoot v).barriers = s.barriers := (rfl)
@[simp] theorem State.setBoot_deferred (s : State) (v : Boot) : (s.setBoot v).deferred = s.deferred := (rfl)
@[simp] theorem State.setBoot_nv (s : State) (v : Boot) : (s.setBoot v).nv = s.nv := (rfl)
@[simp] theorem State.setBoot_mem (s : State) (v : Boot) : (s.setBoot v).mem = s.mem := (rfl)
@[simp] theorem State.setBoot_intake (s : State) (v : Boot) : (s.setBoot v).intake = s.intake := (rfl)
@[simp] theorem State.setBoot_hif (s : State) (v : Boot) : (s.setBoot v).hif = s.hif := (rfl)
@[simp] theorem State.setBoot_consort (s : State) (v : Boot) : (s.setBoot v).consort = s.consort := (rfl)
@[simp] theorem State.setBoot_cores (s : State) (v : Boot) : (s.setBoot v).cores = s.cores := (rfl)
@[simp] theorem State.setBoot_spp (s : State) (v : Boot) : (s.setBoot v).spp = s.spp := (rfl)
@[simp] theorem State.setBoot_power (s : State) (v : Boot) : (s.setBoot v).power = s.power := (rfl)
@[simp] theorem State.setBoot_log (s : State) (v : Boot) : (s.setBoot v).log = s.log := (rfl)
@[simp] theorem State.setBoot_out (s : State) (v : Boot) : (s.setBoot v).out = s.out := (rfl)
@[simp] theorem State.setBoot_regs (s : State) (v : Boot) : (s.setBoot v).regs = s.regs := (rfl)
@[simp] theorem State.setBoot_boot (s : State) (v : Boot) : (s.setBoot v).boot = v := (rfl)
@[simp] theorem State.setBoot_fld (s : State) (v : Boot) (g : Fld) : (s.setBoot v).fld g = s.fld g := (rfl)
@[simp] theorem State.setBoot_whole (s : State) (v : Boot) (k w : Nat) : (s.setBoot v).whole k w = s.whole k w := (rfl)

@[simp] theorem State.setSpp_pending (s : State) (v : Spp) : (s.setSpp v).pending = s.pending := (rfl)
@[simp] theorem State.setSpp_now (s : State) (v : Spp) : (s.setSpp v).now = s.now := (rfl)
@[simp] theorem State.setSpp_boundaryAt (s : State) (v : Spp) : (s.setSpp v).boundaryAt = s.boundaryAt := (rfl)
@[simp] theorem State.setSpp_ticking (s : State) (v : Spp) : (s.setSpp v).ticking = s.ticking := (rfl)
@[simp] theorem State.setSpp_tickFrom (s : State) (v : Spp) : (s.setSpp v).tickFrom = s.tickFrom := (rfl)
@[simp] theorem State.setSpp_tickEvent (s : State) (v : Spp) : (s.setSpp v).tickEvent = s.tickEvent := (rfl)
@[simp] theorem State.setSpp_srcWritten (s : State) (v : Spp) : (s.setSpp v).srcWritten = s.srcWritten := (rfl)
@[simp] theorem State.setSpp_missed (s : State) (v : Spp) : (s.setSpp v).missed = s.missed := (rfl)
@[simp] theorem State.setSpp_phaseAct (s : State) (v : Spp) : (s.setSpp v).phaseAct = s.phaseAct := (rfl)
@[simp] theorem State.setSpp_slewing (s : State) (v : Spp) : (s.setSpp v).slewing = s.slewing := (rfl)
@[simp] theorem State.setSpp_gapSeen (s : State) (v : Spp) : (s.setSpp v).gapSeen = s.gapSeen := (rfl)
@[simp] theorem State.setSpp_lastEnd (s : State) (v : Spp) : (s.setSpp v).lastEnd = s.lastEnd := (rfl)
@[simp] theorem State.setSpp_runStart (s : State) (v : Spp) : (s.setSpp v).runStart = s.runStart := (rfl)
@[simp] theorem State.setSpp_runCycle (s : State) (v : Spp) : (s.setSpp v).runCycle = s.runCycle := (rfl)
@[simp] theorem State.setSpp_freeCount (s : State) (v : Spp) : (s.setSpp v).freeCount = s.freeCount := (rfl)
@[simp] theorem State.setSpp_services (s : State) (v : Spp) : (s.setSpp v).services = s.services := (rfl)
@[simp] theorem State.setSpp_staged (s : State) (v : Spp) : (s.setSpp v).staged = s.staged := (rfl)
@[simp] theorem State.setSpp_modelEpoch (s : State) (v : Spp) : (s.setSpp v).modelEpoch = s.modelEpoch := (rfl)
@[simp] theorem State.setSpp_configEpoch (s : State) (v : Spp) : (s.setSpp v).configEpoch = s.configEpoch := (rfl)
@[simp] theorem State.setSpp_tiles (s : State) (v : Spp) : (s.setSpp v).tiles = s.tiles := (rfl)
@[simp] theorem State.setSpp_clusters (s : State) (v : Spp) : (s.setSpp v).clusters = s.clusters := (rfl)
@[simp] theorem State.setSpp_barriers (s : State) (v : Spp) : (s.setSpp v).barriers = s.barriers := (rfl)
@[simp] theorem State.setSpp_deferred (s : State) (v : Spp) : (s.setSpp v).deferred = s.deferred := (rfl)
@[simp] theorem State.setSpp_nv (s : State) (v : Spp) : (s.setSpp v).nv = s.nv := (rfl)
@[simp] theorem State.setSpp_mem (s : State) (v : Spp) : (s.setSpp v).mem = s.mem := (rfl)
@[simp] theorem State.setSpp_intake (s : State) (v : Spp) : (s.setSpp v).intake = s.intake := (rfl)
@[simp] theorem State.setSpp_hif (s : State) (v : Spp) : (s.setSpp v).hif = s.hif := (rfl)
@[simp] theorem State.setSpp_consort (s : State) (v : Spp) : (s.setSpp v).consort = s.consort := (rfl)
@[simp] theorem State.setSpp_cores (s : State) (v : Spp) : (s.setSpp v).cores = s.cores := (rfl)
@[simp] theorem State.setSpp_power (s : State) (v : Spp) : (s.setSpp v).power = s.power := (rfl)
@[simp] theorem State.setSpp_boot (s : State) (v : Spp) : (s.setSpp v).boot = s.boot := (rfl)
@[simp] theorem State.setSpp_log (s : State) (v : Spp) : (s.setSpp v).log = s.log := (rfl)
@[simp] theorem State.setSpp_out (s : State) (v : Spp) : (s.setSpp v).out = s.out := (rfl)
@[simp] theorem State.setSpp_regs (s : State) (v : Spp) : (s.setSpp v).regs = s.regs := (rfl)
@[simp] theorem State.setSpp_spp (s : State) (v : Spp) : (s.setSpp v).spp = v := (rfl)
@[simp] theorem State.setSpp_fld (s : State) (v : Spp) (g : Fld) : (s.setSpp v).fld g = s.fld g := (rfl)
@[simp] theorem State.setSpp_whole (s : State) (v : Spp) (k w : Nat) : (s.setSpp v).whole k w = s.whole k w := (rfl)

end Sys2Proof.Machine
end

