-- ==== Sys2Proof/Laws/Tab.lean ====
section
/-! SUPPORT. The laws of sparse tables: what a read sees after a write, and that every write keeps the canonical form. -/

namespace Sys2Proof

variable {α : Type}

/-! ### Reads after writes -/

@[simp] theorem Tab.look_nil (k : Nat) : Tab.look ([] : Tab α) k = none := rfl

@[simp] theorem Tab.look_put_self (t : Tab α) (k : Nat) (v : α) : Tab.look (Tab.put t k v) k = some v := by
  induction t with
  | nil => simp [Tab.put, Tab.look]
  | cons e r ih =>
    obtain ⟨k', v'⟩ := e
    by_cases h : k < k'
    · simp [Tab.put, Tab.look, h]
    · by_cases h' : k = k'
      · simp [Tab.put, Tab.look, h']
      · simp [Tab.put, Tab.look, h, h', ih]

theorem Tab.look_put_ne (t : Tab α) (k j : Nat) (v : α) (hj : j ≠ k) : Tab.look (Tab.put t k v) j = Tab.look t j := by
  induction t with
  | nil => simp [Tab.put, Tab.look, hj]
  | cons e r ih =>
    obtain ⟨k', v'⟩ := e
    by_cases h : k < k'
    · simp [Tab.put, Tab.look, h, hj]
    · by_cases h' : k = k'
      · subst h'
        simp [Tab.put, Tab.look, hj]
      · simp [Tab.put, Tab.look, h, h', ih]

@[simp] theorem Tab.look_del_self (t : Tab α) (k : Nat) : Tab.look (Tab.del t k) k = none := by
  induction t with
  | nil => rfl
  | cons e r ih =>
    obtain ⟨k', v'⟩ := e
    by_cases h : k = k'
    · simp only [Tab.del, if_pos h, ih]
    · simp only [Tab.del, if_neg h, Tab.look, ih]

theorem Tab.look_del_ne (t : Tab α) (k j : Nat) (hj : j ≠ k) : Tab.look (Tab.del t k) j = Tab.look t j := by
  induction t with
  | nil => rfl
  | cons e r ih =>
    obtain ⟨k', v'⟩ := e
    by_cases h : k = k'
    · subst h
      simp only [Tab.del, if_true, Tab.look, if_neg hj, ih]
    · simp only [Tab.del, if_neg h, Tab.look, ih]

/-- A store reads back, an unlisted key standing for d. -/
theorem Tab.lookD_store_self [DecidableEq α] (t : Tab α) (k : Nat) (v d : α) :
    Tab.lookD (Tab.store t k v d) k d = v := by
  by_cases h : v = d
  · simp [Tab.store, h, Tab.lookD]
  · simp [Tab.store, h, Tab.lookD]

theorem Tab.look_store_ne [DecidableEq α] (t : Tab α) (k j : Nat) (v d : α) (hj : j ≠ k) :
    Tab.look (Tab.store t k v d) j = Tab.look t j := by
  by_cases h : v = d
  · simp [Tab.store, h, Tab.look_del_ne _ _ _ hj]
  · simp [Tab.store, h, Tab.look_put_ne _ _ _ _ hj]

@[simp] theorem Tab.lookD_put_self (t : Tab α) (k : Nat) (v d : α) : Tab.lookD (Tab.put t k v) k d = v := by
  simp [Tab.lookD]

theorem Tab.lookD_put_ne (t : Tab α) (k j : Nat) (v d : α) (hj : j ≠ k) :
    Tab.lookD (Tab.put t k v) j d = Tab.lookD t j d := by
  simp [Tab.lookD, Tab.look_put_ne _ _ _ _ hj]

/-! ### The canonical form -/

/-- The keys of a table above a bound that itself lies above a lower one lie above the lower one. -/
theorem Tab.above_mono (t : Tab α) (a : Nat) (b : Option Nat) (hb : ∀ x, b = some x → x < a)
    (h : Tab.above (some a) t = true) : Tab.above b t = true := by
  cases t with
  | nil => rfl
  | cons e r =>
    obtain ⟨k, v⟩ := e
    cases b with
    | none => simp [Tab.above] at h ⊢; exact h.2
    | some x =>
      have := hb x rfl
      simp [Tab.above] at h ⊢
      exact ⟨by omega, h.2⟩

theorem Tab.above_put (t : Tab α) (b : Option Nat) (k : Nat) (v : α) (hb : ∀ x, b = some x → x < k)
    (h : Tab.above b t = true) : Tab.above b (Tab.put t k v) = true := by
  induction t generalizing b with
  | nil =>
    cases b with
    | none => simp [Tab.put, Tab.above]
    | some x => simpa [Tab.put, Tab.above] using hb x rfl
  | cons e r ih =>
    obtain ⟨k', v'⟩ := e
    simp only [Tab.above, Bool.and_eq_true] at h
    by_cases hk : k < k'
    · simp only [Tab.put, if_pos hk, Tab.above, Bool.and_eq_true]
      refine ⟨?_, by simpa using hk, h.2⟩
      cases b with
      | none => rfl
      | some x => simpa using hb x rfl
    · by_cases he : k = k'
      · subst he
        simp only [Tab.put, if_neg hk, if_true, Tab.above, Bool.and_eq_true]
        exact h
      · simp only [Tab.put, if_neg hk, if_neg he, Tab.above, Bool.and_eq_true]
        exact ⟨h.1, ih (some k') (fun x hx => by cases hx; omega) h.2⟩

theorem Tab.above_del (t : Tab α) (b : Option Nat) (k : Nat) (h : Tab.above b t = true) :
    Tab.above b (Tab.del t k) = true := by
  induction t generalizing b with
  | nil => exact h
  | cons e r ih =>
    obtain ⟨k', v'⟩ := e
    simp only [Tab.above, Bool.and_eq_true] at h
    by_cases he : k = k'
    · simp only [Tab.del, if_pos he]
      refine Tab.above_mono _ k' b ?_ (ih _ h.2)
      intro x hx
      subst hx
      simpa using h.1
    · simp only [Tab.del, if_neg he, Tab.above, Bool.and_eq_true]
      exact ⟨h.1, ih _ h.2⟩

/-- Listing an entry keeps the keys strictly rising. -/
theorem Tab.wf_put (t : Tab α) (k : Nat) (v : α) (h : t.wf = true) : (Tab.put t k v).wf = true :=
  Tab.above_put t none k v (by simp) h

/-- So does removing one. -/
theorem Tab.wf_del (t : Tab α) (k : Nat) (h : t.wf = true) : (Tab.del t k).wf = true := Tab.above_del t none k h

theorem Tab.wf_store [DecidableEq α] (t : Tab α) (k : Nat) (v d : α) (h : t.wf = true) :
    (Tab.store t k v d).wf = true := by
  by_cases hv : v = d
  · simpa [Tab.store, hv] using Tab.wf_del t k h
  · simpa [Tab.store, hv] using Tab.wf_put t k v h

end Sys2Proof
end

