-- ==== Sys2Proof/Laws/Regs.lean ====
section
/-! SUPPORT. The register file: what a field reads after a field has been stored. -/

namespace Sys2Proof.Machine

/-- A stored register reads back, cut to 64 bits. -/
theorem State.whole_setWhole (s : State) (o r v : Nat) : (s.setWhole o r v).whole o r % 2 ^ 64 = v % 2 ^ 64 := by
  by_cases h : BitVec.ofNat 64 v = BitVec.ofNat 64 r
  · have := congrArg BitVec.toNat h
    simp only [BitVec.toNat_ofNat] at this
    simp [State.setWhole, State.whole, Tab.store, h, this]
  · simp [State.setWhole, State.whole, Tab.store, h]

theorem State.whole_setWhole_ne (s : State) (o r v o' r' : Nat) (h : o' ≠ o) :
    (s.setWhole o r v).whole o' r' = s.whole o' r' := by
  simp [State.setWhole, State.whole, Tab.look_store_ne _ _ _ _ _ h]

/-- A stored field reads back, cut to its width. -/
theorem State.fld_setFld (s : State) (f : Fld) (v : Nat) (h : f.lo ≤ f.hi) (h' : f.hi < 64) :
    (s.setFld f v).fld f = v % 2 ^ (f.hi + 1 - f.lo) := by
  unfold State.setFld State.fld
  rw [← bitsOf_mod _ _ _ 64 h', State.whole_setWhole, bitsOf_mod _ _ _ 64 h', bitsOf_putBits _ _ _ _ h]

/-- A field of another register reads as before. -/
theorem State.fld_setFld_ne (s : State) (f g : Fld) (v : Nat) (h : g.off ≠ f.off) : (s.setFld f v).fld g = s.fld g := by
  unfold State.setFld State.fld
  rw [State.whole_setWhole_ne _ _ _ _ _ _ h]

/-- A field of the same register apart from the one stored reads as before. -/
theorem State.fld_setFld_apart (s : State) (f g : Fld) (v : Nat) (ho : g.off = f.off) (hw : g.whole = f.whole)
    (h : f.lo ≤ f.hi) (hg : g.hi < 64) (ha : g.hi < f.lo ∨ f.hi < g.lo) : (s.setFld f v).fld g = s.fld g := by
  unfold State.setFld State.fld
  rw [ho, hw, ← bitsOf_mod _ _ _ 64 hg, State.whole_setWhole, bitsOf_mod _ _ _ 64 hg,
    bitsOf_putBits_apart _ _ _ _ _ _ h ha]

/-- Two fields do not touch: they are of different registers or of different bits of one. -/
def Fld.apart (g f : Fld) : Bool :=
  g.off != f.off || (g.whole == f.whole && decide (f.lo ≤ f.hi) && decide (g.hi < 64) &&
    (decide (g.hi < f.lo) || decide (f.hi < g.lo)))

theorem State.fld_setFld_of_apart (s : State) (f g : Fld) (v : Nat) (h : g.apart f = true) :
    (s.setFld f v).fld g = s.fld g := by
  by_cases ho : g.off = f.off
  · simp [Fld.apart, ho] at h
    exact s.fld_setFld_apart f g v ho h.1.1.1 h.1.1.2 h.1.2 h.2
  · exact s.fld_setFld_ne f g v ho

/-- A field keeps within its register. -/
def Fld.sound (f : Fld) : Bool := decide (f.lo ≤ f.hi) && decide (f.hi < 64)

theorem State.fld_setFld_self (s : State) (f : Fld) (v : Nat) (h : f.sound = true) :
    (s.setFld f v).fld f = v % 2 ^ (f.hi + 1 - f.lo) := by
  simp [Fld.sound] at h
  exact s.fld_setFld f v h.1 h.2

/-- Registers of other keys keep their stored values. -/
theorem State.look_setFld_ne (s : State) (f : Fld) (v k : Nat) (h : k ≠ f.off) :
    Tab.look (s.setFld f v).regs k = Tab.look s.regs k := by
  simp [State.setFld, State.setWhole, Tab.look_store_ne _ _ _ _ _ h]

theorem State.fld_lt (s : State) (f : Fld) : s.fld f < 2 ^ (f.hi + 1 - f.lo) := bitsOf_lt _ _ _

end Sys2Proof.Machine
end

