-- ==== Sys2Proof/Laws/Events.lean ====
section
/-! SUPPORT. Everything that entering the events of a command can change (R543 to R547). -/

namespace Sys2Proof.Machine

/-- What the event unit does between two states: it writes its own registers and its own state, sends messages, and holds
messages pending. -/
structure Enters (s t : State) : Prop where
  rest : { t with regs := s.regs, log := s.log, out := s.out, hif := { t.hif with msixPending := s.hif.msixPending } } = s
  group : t.log.group = s.log.group
  regs : ∀ k, k ∉ eventKeys → Tab.look t.regs k = Tab.look s.regs k
  out : ∃ l, t.out = s.out ++ l
  held : ∀ v ∈ s.hif.msixPending, v ∈ t.hif.msixPending

theorem mem_insertNat_of_mem (x : Nat) {v : Nat} : ∀ {l : List Nat}, v ∈ l → v ∈ insertNat x l := by
  intro l
  induction l with
  | nil => intro h; cases h
  | cons y r ih =>
    intro h
    unfold insertNat
    split
    · exact List.mem_cons_of_mem _ h
    · split
      · exact h
      · rcases List.mem_cons.1 h with h | h
        · exact h ▸ List.mem_cons_self ..
        · exact List.mem_cons_of_mem _ (ih h)

theorem mem_insertNat (x : Nat) (l : List Nat) : x ∈ insertNat x l := by
  induction l with
  | nil => exact List.mem_cons_self ..
  | cons y r ih =>
    unfold insertNat
    split
    · exact List.mem_cons_self ..
    · split
      · rename_i h
        exact h ▸ List.mem_cons_self ..
      · exact List.mem_cons_of_mem _ ih

theorem Enters.refl (s : State) : Enters s s := ⟨rfl, rfl, fun _ _ => rfl, ⟨[], by simp⟩, fun _ h => h⟩

theorem Enters.trans {s t u : State} (a : Enters s t) (b : Enters t u) : Enters s u where
  rest := by
    have ha := a.rest
    have hb := b.rest
    rw [← ha, ← hb]
  group := b.group.trans a.group
  regs k hk := (b.regs k hk).trans (a.regs k hk)
  out := by
    obtain ⟨x, hx⟩ := a.out
    obtain ⟨y, hy⟩ := b.out
    exact ⟨x ++ y, by rw [hy, hx, List.append_assoc]⟩
  held v h := b.held v (a.held v h)

theorem Enters.setFld (s : State) (f : Fld) (v : Nat) (h : f.off ∈ eventKeys) : Enters s (s.setFld f v) where
  rest := rfl
  group := rfl
  regs k hk := s.look_setFld_ne f v k (fun e => hk (e ▸ h))
  out := ⟨[], by simp⟩
  held _ h := h

theorem Enters.setWhole (s : State) (o r v : Nat) (h : o ∈ eventKeys) : Enters s (s.setWhole o r v) where
  rest := rfl
  group := rfl
  regs k hk := by
    have : k ≠ o := fun e => hk (e ▸ h)
    simp [State.setWhole, Tab.look_store_ne _ _ _ _ _ this]
  out := ⟨[], by simp⟩
  held _ h := h

theorem Enters.bumpRaw (s : State) (f : Fld) (n : Nat) (h : f.off ∈ eventKeys) : Enters s (s.bumpRaw f n).1 := by
  unfold State.bumpRaw
  simp only
  split
  · exact Enters.refl s
  · split
    · exact Enters.setWhole s f.off f.whole _ h
    · exact Enters.setWhole s f.off f.whole _ h

theorem Enters.setLog (s : State) (l : EventLog) (h : l.group = s.log.group) : Enters s { s with log := l } :=
  ⟨rfl, h, fun _ _ => rfl, ⟨[], by simp⟩, fun _ h => h⟩

theorem Enters.signal (s : State) (v : Nat) : Enters s (s.signal v) := by
  unfold State.signal
  split
  · exact ⟨rfl, rfl, fun _ _ => rfl, ⟨[], by simp⟩, fun _ h => mem_insertNat_of_mem _ h⟩
  · exact ⟨rfl, rfl, fun _ _ => rfl, ⟨_, rfl⟩, fun _ h => h⟩

theorem Enters.putRecord (s : State) (b : Bytes) : Enters s (s.putRecord b) := by
  unfold State.putRecord
  refine Enters.trans ?_ (Enters.setFld _ EVT_LOG_WR_INDEX _ (by decide))
  exact Enters.setLog _ _ rfl

theorem Enters.logAppend (s : State) (b : Bytes) : Enters s (s.logAppend b).1 := by
  have lost : ∀ u : State, Enters u ((u.bumpRaw EVT_LOST_COUNT_COUNT 1).1.setFld EVT_STATUS_LOST 1) := fun u =>
    (Enters.bumpRaw u _ _ (by decide)).trans (Enters.setFld _ _ _ (by decide))
  have write : ∀ (u : State) (b : Bytes) (v : Nat),
      Enters u (((u.putRecord b).bumpRaw EVT_TOTAL_COUNT_COUNT 1).1.signal v) := fun u b v =>
    ((Enters.putRecord u b).trans (Enters.bumpRaw _ _ _ (by decide))).trans (Enters.signal _ _)
  unfold State.logAppend
  by_cases a : s.unread < 1024
  · simpa only [if_pos a] using write s _ _
  · by_cases w : s.bit EVT_CTL_WRAP = true
    · simp only [if_neg a, if_pos w]
      exact ((Enters.setFld s EVT_LOG_RD_INDEX _ (by decide)).trans (lost _)).trans (write _ _ _)
    · simp only [if_neg a, if_neg w]
      exact (lost s).trans (Enters.setLog _ _ rfl)

theorem Enters.record1 (s : State) (src code flags tick time : Nat) (d : Bytes) :
    Enters s (s.record1 src code flags tick time d).1 := by
  have next := Enters.setFld s EVT_SEQ_NEXT (s.fld EVT_SEQ_NEXT + 1) (by decide)
  unfold State.record1
  simp only
  split
  · split
    · exact next.trans (Enters.setLog _ _ rfl)
    · exact ((next.trans (Enters.bumpRaw _ _ _ (by decide))).trans
        (Enters.setFld _ EVT_STATUS_LOST 1 (by decide))).trans (Enters.setLog _ _ rfl)
  · exact next.trans (Enters.logAppend _ _)

theorem Enters.foldl {α : Type} (f : State → α → State) (h : ∀ s a, Enters s (f s a)) (l : List α) (s : State) :
    Enters s (l.foldl f s) := by
  induction l generalizing s with
  | nil => exact Enters.refl s
  | cons a l ih => exact (h s a).trans (ih (f s a))

theorem Enters.enter (s : State) (o : Occurrence) : Enters s (s.enter o).1 := by
  unfold State.enter
  simp only
  split
  · refine Enters.trans ?_ (Enters.record1 _ _ _ _ _ _ _)
    exact Enters.setLog _ _ rfl
  · refine Enters.trans ?_ (Enters.setFld _ EVT_STATUS_SUPPRESSED 1 (by decide))
    refine Enters.trans ?_ (Enters.bumpRaw _ EVT_SUPPRESS_COUNT_COUNT _ (by decide))
    exact Enters.setLog _ _ rfl

theorem Enters.enterAll (s : State) (l : List Occurrence) : Enters s (s.enterAll l).1 := by
  have h : ∀ (l : List Occurrence) (p : State × List Occurrence),
      Enters p.1 (l.foldl (fun p o => ((p.1.enter o).1, p.2 ++ (p.1.enter o).2)) p).1 := by
    intro l
    induction l with
    | nil => exact fun p => Enters.refl p.1
    | cons o l ih => exact fun p => (Enters.enter p.1 o).trans (ih ((p.1.enter o).1, p.2 ++ (p.1.enter o).2))
  exact h l (s, [])

theorem Enters.enterGroup (n : Nat) (s : State) (l : List Occurrence) : Enters s (State.enterGroup n s l) := by
  induction n generalizing s l with
  | zero => exact Enters.refl s
  | succ n ih =>
    unfold State.enterGroup
    split
    · exact Enters.refl s
    · exact (Enters.enterAll s l).trans (ih _ _)

/-- Everything that settling the events of a command can do. -/
theorem State.settle_does (s : State) : Enters { s with log := { s.log with group := [] } } s.settle := by
  unfold State.settle
  exact Enters.foldl _ (fun s g => Enters.enterGroup 5 s g) _ _

end Sys2Proof.Machine
end

