-- ==== Sys2Proof/Laws/Ops.lean ====
section
/-! SUPPORT. What the shared operations over the register file, the event list and the bus leave as it was. -/

namespace Sys2Proof.Machine

@[simp] theorem State.flagWith_pending (s : State) (f : Fld) (d : Bytes) : (s.flagWith f d).pending = s.pending := by
  unfold State.flagWith; simp only; split <;> rfl
@[simp] theorem State.flagWith_now (s : State) (f : Fld) (d : Bytes) : (s.flagWith f d).now = s.now := by
  unfold State.flagWith; simp only; split <;> rfl
@[simp] theorem State.flagWith_boundaryAt (s : State) (f : Fld) (d : Bytes) : (s.flagWith f d).boundaryAt = s.boundaryAt := by
  unfold State.flagWith; simp only; split <;> rfl
@[simp] theorem State.flagWith_ticking (s : State) (f : Fld) (d : Bytes) : (s.flagWith f d).ticking = s.ticking := by
  unfold State.flagWith; simp only; split <;> rfl
@[simp] theorem State.flagWith_tickFrom (s : State) (f : Fld) (d : Bytes) : (s.flagWith f d).tickFrom = s.tickFrom := by
  unfold State.flagWith; simp only; split <;> rfl
@[simp] theorem State.flagWith_tickEvent (s : State) (f : Fld) (d : Bytes) : (s.flagWith f d).tickEvent = s.tickEvent := by
  unfold State.flagWith; simp only; split <;> rfl
@[simp] theorem State.flagWith_srcWritten (s : State) (f : Fld) (d : Bytes) : (s.flagWith f d).srcWritten = s.srcWritten := by
  unfold State.flagWith; simp only; split <;> rfl
@[simp] theorem State.flagWith_missed (s : State) (f : Fld) (d : Bytes) : (s.flagWith f d).missed = s.missed := by
  unfold State.flagWith; simp only; split <;> rfl
@[simp] theorem State.flagWith_phaseAct (s : State) (f : Fld) (d : Bytes) : (s.flagWith f d).phaseAct = s.phaseAct := by
  unfold State.flagWith; simp only; split <;> rfl
@[simp] theorem State.flagWith_slewing (s : State) (f : Fld) (d : Bytes) : (s.flagWith f d).slewing = s.slewing := by
  unfold State.flagWith; simp only; split <;> rfl
@[simp] theorem State.flagWith_gapSeen (s : State) (f : Fld) (d : Bytes) : (s.flagWith f d).gapSeen = s.gapSeen := by
  unfold State.flagWith; simp only; split <;> rfl
@[simp] theorem State.flagWith_lastEnd (s : State) (f : Fld) (d : Bytes) : (s.flagWith f d).lastEnd = s.lastEnd := by
  unfold State.flagWith; simp only; split <;> rfl
@[simp] theorem State.flagWith_runStart (s : State) (f : Fld) (d : Bytes) : (s.flagWith f d).runStart = s.runStart := by
  unfold State.flagWith; simp only; split <;> rfl
@[simp] theorem State.flagWith_runCycle (s : State) (f : Fld) (d : Bytes) : (s.flagWith f d).runCycle = s.runCycle := by
  unfold State.flagWith; simp only; split <;> rfl
@[simp] theorem State.flagWith_freeCount (s : State) (f : Fld) (d : Bytes) : (s.flagWith f d).freeCount = s.freeCount := by
  unfold State.flagWith; simp only; split <;> rfl
@[simp] theorem State.flagWith_services (s : State) (f : Fld) (d : Bytes) : (s.flagWith f d).services = s.services := by
  unfold State.flagWith; simp only; split <;> rfl
@[simp] theorem State.flagWith_staged (s : State) (f : Fld) (d : Bytes) : (s.flagWith f d).staged = s.staged := by
  unfold State.flagWith; simp only; split <;> rfl
@[simp] theorem State.flagWith_modelEpoch (s : State) (f : Fld) (d : Bytes) : (s.flagWith f d).modelEpoch = s.modelEpoch := by
  unfold State.flagWith; simp only; split <;> rfl
@[simp] theorem State.flagWith_configEpoch (s : State) (f : Fld) (d : Bytes) : (s.flagWith f d).configEpoch = s.configEpoch := by
  unfold State.flagWith; simp only; split <;> rfl
@[simp] theorem State.flagWith_tiles (s : State) (f : Fld) (d : Bytes) : (s.flagWith f d).tiles = s.tiles := by
  unfold State.flagWith; simp only; split <;> rfl
@[simp] theorem State.flagWith_clusters (s : State) (f : Fld) (d : Bytes) : (s.flagWith f d).clusters = s.clusters := by
  unfold State.flagWith; simp only; split <;> rfl
@[simp] theorem State.flagWith_barriers (s : State) (f : Fld) (d : Bytes) : (s.flagWith f d).barriers = s.barriers := by
  unfold State.flagWith; simp only; split <;> rfl
@[simp] theorem State.flagWith_deferred (s : State) (f : Fld) (d : Bytes) : (s.flagWith f d).deferred = s.deferred := by
  unfold State.flagWith; simp only; split <;> rfl
@[simp] theorem State.flagWith_nv (s : State) (f : Fld) (d : Bytes) : (s.flagWith f d).nv = s.nv := by
  unfold State.flagWith; simp only; split <;> rfl
@[simp] theorem State.flagWith_mem (s : State) (f : Fld) (d : Bytes) : (s.flagWith f d).mem = s.mem := by
  unfold State.flagWith; simp only; split <;> rfl
@[simp] theorem State.flagWith_intake (s : State) (f : Fld) (d : Bytes) : (s.flagWith f d).intake = s.intake := by
  unfold State.flagWith; simp only; split <;> rfl
@[simp] theorem State.flagWith_hif (s : State) (f : Fld) (d : Bytes) : (s.flagWith f d).hif = s.hif := by
  unfold State.flagWith; simp only; split <;> rfl
@[simp] theorem State.flagWith_consort (s : State) (f : Fld) (d : Bytes) : (s.flagWith f d).consort = s.consort := by
  unfold State.flagWith; simp only; split <;> rfl
@[simp] theorem State.flagWith_cores (s : State) (f : Fld) (d : Bytes) : (s.flagWith f d).cores = s.cores := by
  unfold State.flagWith; simp only; split <;> rfl
@[simp] theorem State.flagWith_spp (s : State) (f : Fld) (d : Bytes) : (s.flagWith f d).spp = s.spp := by
  unfold State.flagWith; simp only; split <;> rfl
@[simp] theorem State.flagWith_power (s : State) (f : Fld) (d : Bytes) : (s.flagWith f d).power = s.power := by
  unfold State.flagWith; simp only; split <;> rfl
@[simp] theorem State.flagWith_boot (s : State) (f : Fld) (d : Bytes) : (s.flagWith f d).boot = s.boot := by
  unfold State.flagWith; simp only; split <;> rfl
@[simp] theorem State.flagWith_out (s : State) (f : Fld) (d : Bytes) : (s.flagWith f d).out = s.out := by
  unfold State.flagWith; simp only; split <;> rfl

@[simp] theorem State.flag_pending (s : State) (f : Fld) : (s.flag f).pending = s.pending := by
  simp [State.flag]
@[simp] theorem State.flag_now (s : State) (f : Fld) : (s.flag f).now = s.now := by
  simp [State.flag]
@[simp] theorem State.flag_boundaryAt (s : State) (f : Fld) : (s.flag f).boundaryAt = s.boundaryAt := by
  simp [State.flag]
@[simp] theorem State.flag_ticking (s : State) (f : Fld) : (s.flag f).ticking = s.ticking := by
  simp [State.flag]
@[simp] theorem State.flag_tickFrom (s : State) (f : Fld) : (s.flag f).tickFrom = s.tickFrom := by
  simp [State.flag]
@[simp] theorem State.flag_tickEvent (s : State) (f : Fld) : (s.flag f).tickEvent = s.tickEvent := by
  simp [State.flag]
@[simp] theorem State.flag_srcWritten (s : State) (f : Fld) : (s.flag f).srcWritten = s.srcWritten := by
  simp [State.flag]
@[simp] theorem State.flag_missed (s : State) (f : Fld) : (s.flag f).missed = s.missed := by
  simp [State.flag]
@[simp] theorem State.flag_phaseAct (s : State) (f : Fld) : (s.flag f).phaseAct = s.phaseAct := by
  simp [State.flag]
@[simp] theorem State.flag_slewing (s : State) (f : Fld) : (s.flag f).slewing = s.slewing := by
  simp [State.flag]
@[simp] theorem State.flag_gapSeen (s : State) (f : Fld) : (s.flag f).gapSeen = s.gapSeen := by
  simp [State.flag]
@[simp] theorem State.flag_lastEnd (s : State) (f : Fld) : (s.flag f).lastEnd = s.lastEnd := by
  simp [State.flag]
@[simp] theorem State.flag_runStart (s : State) (f : Fld) : (s.flag f).runStart = s.runStart := by
  simp [State.flag]
@[simp] theorem State.flag_runCycle (s : State) (f : Fld) : (s.flag f).runCycle = s.runCycle := by
  simp [State.flag]
@[simp] theorem State.flag_freeCount (s : State) (f : Fld) : (s.flag f).freeCount = s.freeCount := by
  simp [State.flag]
@[simp] theorem State.flag_services (s : State) (f : Fld) : (s.flag f).services = s.services := by
  simp [State.flag]
@[simp] theorem State.flag_staged (s : State) (f : Fld) : (s.flag f).staged = s.staged := by
  simp [State.flag]
@[simp] theorem State.flag_modelEpoch (s : State) (f : Fld) : (s.flag f).modelEpoch = s.modelEpoch := by
  simp [State.flag]
@[simp] theorem State.flag_configEpoch (s : State) (f : Fld) : (s.flag f).configEpoch = s.configEpoch := by
  simp [State.flag]
@[simp] theorem State.flag_tiles (s : State) (f : Fld) : (s.flag f).tiles = s.tiles := by
  simp [State.flag]
@[simp] theorem State.flag_clusters (s : State) (f : Fld) : (s.flag f).clusters = s.clusters := by
  simp [State.flag]
@[simp] theorem State.flag_barriers (s : State) (f : Fld) : (s.flag f).barriers = s.barriers := by
  simp [State.flag]
@[simp] theorem State.flag_deferred (s : State) (f : Fld) : (s.flag f).deferred = s.deferred := by
  simp [State.flag]
@[simp] theorem State.flag_nv (s : State) (f : Fld) : (s.flag f).nv = s.nv := by
  simp [State.flag]
@[simp] theorem State.flag_mem (s : State) (f : Fld) : (s.flag f).mem = s.mem := by
  simp [State.flag]
@[simp] theorem State.flag_intake (s : State) (f : Fld) : (s.flag f).intake = s.intake := by
  simp [State.flag]
@[simp] theorem State.flag_hif (s : State) (f : Fld) : (s.flag f).hif = s.hif := by
  simp [State.flag]
@[simp] theorem State.flag_consort (s : State) (f : Fld) : (s.flag f).consort = s.consort := by
  simp [State.flag]
@[simp] theorem State.flag_cores (s : State) (f : Fld) : (s.flag f).cores = s.cores := by
  simp [State.flag]
@[simp] theorem State.flag_spp (s : State) (f : Fld) : (s.flag f).spp = s.spp := by
  simp [State.flag]
@[simp] theorem State.flag_power (s : State) (f : Fld) : (s.flag f).power = s.power := by
  simp [State.flag]
@[simp] theorem State.flag_boot (s : State) (f : Fld) : (s.flag f).boot = s.boot := by
  simp [State.flag]
@[simp] theorem State.flag_out (s : State) (f : Fld) : (s.flag f).out = s.out := by
  simp [State.flag]

@[simp] theorem State.accessError_pending (s : State) (a b c : Nat) (x y : Bool) : (s.accessError a b c x y).pending = s.pending := by
  unfold State.accessError; split <;> rfl
@[simp] theorem State.accessError_now (s : State) (a b c : Nat) (x y : Bool) : (s.accessError a b c x y).now = s.now := by
  unfold State.accessError; split <;> rfl
@[simp] theorem State.accessError_boundaryAt (s : State) (a b c : Nat) (x y : Bool) : (s.accessError a b c x y).boundaryAt = s.boundaryAt := by
  unfold State.accessError; split <;> rfl
@[simp] theorem State.accessError_ticking (s : State) (a b c : Nat) (x y : Bool) : (s.accessError a b c x y).ticking = s.ticking := by
  unfold State.accessError; split <;> rfl
@[simp] theorem State.accessError_tickFrom (s : State) (a b c : Nat) (x y : Bool) : (s.accessError a b c x y).tickFrom = s.tickFrom := by
  unfold State.accessError; split <;> rfl
@[simp] theorem State.accessError_tickEvent (s : State) (a b c : Nat) (x y : Bool) : (s.accessError a b c x y).tickEvent = s.tickEvent := by
  unfold State.accessError; split <;> rfl
@[simp] theorem State.accessError_srcWritten (s : State) (a b c : Nat) (x y : Bool) : (s.accessError a b c x y).srcWritten = s.srcWritten := by
  unfold State.accessError; split <;> rfl
@[simp] theorem State.accessError_missed (s : State) (a b c : Nat) (x y : Bool) : (s.accessError a b c x y).missed = s.missed := by
  unfold State.accessError; split <;> rfl
@[simp] theorem State.accessError_phaseAct (s : State) (a b c : Nat) (x y : Bool) : (s.accessError a b c x y).phaseAct = s.phaseAct := by
  unfold State.accessError; split <;> rfl
@[simp] theorem State.accessError_slewing (s : State) (a b c : Nat) (x y : Bool) : (s.accessError a b c x y).slewing = s.slewing := by
  unfold State.accessError; split <;> rfl
@[simp] theorem State.accessError_gapSeen (s : State) (a b c : Nat) (x y : Bool) : (s.accessError a b c x y).gapSeen = s.gapSeen := by
  unfold State.accessError; split <;> rfl
@[simp] theorem State.accessError_lastEnd (s : State) (a b c : Nat) (x y : Bool) : (s.accessError a b c x y).lastEnd = s.lastEnd := by
  unfold State.accessError; split <;> rfl
@[simp] theorem State.accessError_runStart (s : State) (a b c : Nat) (x y : Bool) : (s.accessError a b c x y).runStart = s.runStart := by
  unfold State.accessError; split <;> rfl
@[simp] theorem State.accessError_runCycle (s : State) (a b c : Nat) (x y : Bool) : (s.accessError a b c x y).runCycle = s.runCycle := by
  unfold State.accessError; split <;> rfl
@[simp] theorem State.accessError_freeCount (s : State) (a b c : Nat) (x y : Bool) : (s.accessError a b c x y).freeCount = s.freeCount := by
  unfold State.accessError; split <;> rfl
@[simp] theorem State.accessError_services (s : State) (a b c : Nat) (x y : Bool) : (s.accessError a b c x y).services = s.services := by
  unfold State.accessError; split <;> rfl
@[simp] theorem State.accessError_staged (s : State) (a b c : Nat) (x y : Bool) : (s.accessError a b c x y).staged = s.staged := by
  unfold State.accessError; split <;> rfl
@[simp] theorem State.accessError_modelEpoch (s : State) (a b c : Nat) (x y : Bool) : (s.accessError a b c x y).modelEpoch = s.modelEpoch := by
  unfold State.accessError; split <;> rfl
@[simp] theorem State.accessError_configEpoch (s : State) (a b c : Nat) (x y : Bool) : (s.accessError a b c x y).configEpoch = s.configEpoch := by
  unfold State.accessError; split <;> rfl
@[simp] theorem State.accessError_tiles (s : State) (a b c : Nat) (x y : Bool) : (s.accessError a b c x y).tiles = s.tiles := by
  unfold State.accessError; split <;> rfl
@[simp] theorem State.accessError_clusters (s : State) (a b c : Nat) (x y : Bool) : (s.accessError a b c x y).clusters = s.clusters := by
  unfold State.accessError; split <;> rfl
@[simp] theorem State.accessError_barriers (s : State) (a b c : Nat) (x y : Bool) : (s.accessError a b c x y).barriers = s.barriers := by
  unfold State.accessError; split <;> rfl
@[simp] theorem State.accessError_deferred (s : State) (a b c : Nat) (x y : Bool) : (s.accessError a b c x y).deferred = s.deferred := by
  unfold State.accessError; split <;> rfl
@[simp] theorem State.accessError_nv (s : State) (a b c : Nat) (x y : Bool) : (s.accessError a b c x y).nv = s.nv := by
  unfold State.accessError; split <;> rfl
@[simp] theorem State.accessError_mem (s : State) (a b c : Nat) (x y : Bool) : (s.accessError a b c x y).mem = s.mem := by
  unfold State.accessError; split <;> rfl
@[simp] theorem State.accessError_intake (s : State) (a b c : Nat) (x y : Bool) : (s.accessError a b c x y).intake = s.intake := by
  unfold State.accessError; split <;> rfl
@[simp] theorem State.accessError_hif (s : State) (a b c : Nat) (x y : Bool) : (s.accessError a b c x y).hif = s.hif := by
  unfold State.accessError; split <;> rfl
@[simp] theorem State.accessError_consort (s : State) (a b c : Nat) (x y : Bool) : (s.accessError a b c x y).consort = s.consort := by
  unfold State.accessError; split <;> rfl
@[simp] theorem State.accessError_cores (s : State) (a b c : Nat) (x y : Bool) : (s.accessError a b c x y).cores = s.cores := by
  unfold State.accessError; split <;> rfl
@[simp] theorem State.accessError_spp (s : State) (a b c : Nat) (x y : Bool) : (s.accessError a b c x y).spp = s.spp := by
  unfold State.accessError; split <;> rfl
@[simp] theorem State.accessError_power (s : State) (a b c : Nat) (x y : Bool) : (s.accessError a b c x y).power = s.power := by
  unfold State.accessError; split <;> rfl
@[simp] theorem State.accessError_boot (s : State) (a b c : Nat) (x y : Bool) : (s.accessError a b c x y).boot = s.boot := by
  unfold State.accessError; split <;> rfl
@[simp] theorem State.accessError_out (s : State) (a b c : Nat) (x y : Bool) : (s.accessError a b c x y).out = s.out := by
  unfold State.accessError; split <;> rfl
@[simp] theorem State.accessError_regs (s : State) (a b c : Nat) (x y : Bool) : (s.accessError a b c x y).regs = s.regs := by
  unfold State.accessError; split <;> rfl
@[simp] theorem State.accessError_fld (s : State) (a b c : Nat) (x y : Bool) (g : Fld) : (s.accessError a b c x y).fld g = s.fld g := by
  unfold State.accessError; split <;> rfl

@[simp] theorem State.bumpRaw_pending (s : State) (f : Fld) (n : Nat) : (s.bumpRaw f n).1.pending = s.pending := by
  unfold State.bumpRaw; simp only; split <;> (try split) <;> rfl
@[simp] theorem State.bumpRaw_now (s : State) (f : Fld) (n : Nat) : (s.bumpRaw f n).1.now = s.now := by
  unfold State.bumpRaw; simp only; split <;> (try split) <;> rfl
@[simp] theorem State.bumpRaw_boundaryAt (s : State) (f : Fld) (n : Nat) : (s.bumpRaw f n).1.boundaryAt = s.boundaryAt := by
  unfold State.bumpRaw; simp only; split <;> (try split) <;> rfl
@[simp] theorem State.bumpRaw_ticking (s : State) (f : Fld) (n : Nat) : (s.bumpRaw f n).1.ticking = s.ticking := by
  unfold State.bumpRaw; simp only; split <;> (try split) <;> rfl
@[simp] theorem State.bumpRaw_tickFrom (s : State) (f : Fld) (n : Nat) : (s.bumpRaw f n).1.tickFrom = s.tickFrom := by
  unfold State.bumpRaw; simp only; split <;> (try split) <;> rfl
@[simp] theorem State.bumpRaw_tickEvent (s : State) (f : Fld) (n : Nat) : (s.bumpRaw f n).1.tickEvent = s.tickEvent := by
  unfold State.bumpRaw; simp only; split <;> (try split) <;> rfl
@[simp] theorem State.bumpRaw_srcWritten (s : State) (f : Fld) (n : Nat) : (s.bumpRaw f n).1.srcWritten = s.srcWritten := by
  unfold State.bumpRaw; simp only; split <;> (try split) <;> rfl
@[simp] theorem State.bumpRaw_missed (s : State) (f : Fld) (n : Nat) : (s.bumpRaw f n).1.missed = s.missed := by
  unfold State.bumpRaw; simp only; split <;> (try split) <;> rfl
@[simp] theorem State.bumpRaw_phaseAct (s : State) (f : Fld) (n : Nat) : (s.bumpRaw f n).1.phaseAct = s.phaseAct := by
  unfold State.bumpRaw; simp only; split <;> (try split) <;> rfl
@[simp] theorem State.bumpRaw_slewing (s : State) (f : Fld) (n : Nat) : (s.bumpRaw f n).1.slewing = s.slewing := by
  unfold State.bumpRaw; simp only; split <;> (try split) <;> rfl
@[simp] theorem State.bumpRaw_gapSeen (s : State) (f : Fld) (n : Nat) : (s.bumpRaw f n).1.gapSeen = s.gapSeen := by
  unfold State.bumpRaw; simp only; split <;> (try split) <;> rfl
@[simp] theorem State.bumpRaw_lastEnd (s : State) (f : Fld) (n : Nat) : (s.bumpRaw f n).1.lastEnd = s.lastEnd := by
  unfold State.bumpRaw; simp only; split <;> (try split) <;> rfl
@[simp] theorem State.bumpRaw_runStart (s : State) (f : Fld) (n : Nat) : (s.bumpRaw f n).1.runStart = s.runStart := by
  unfold State.bumpRaw; simp only; split <;> (try split) <;> rfl
@[simp] theorem State.bumpRaw_runCycle (s : State) (f : Fld) (n : Nat) : (s.bumpRaw f n).1.runCycle = s.runCycle := by
  unfold State.bumpRaw; simp only; split <;> (try split) <;> rfl
@[simp] theorem State.bumpRaw_freeCount (s : State) (f : Fld) (n : Nat) : (s.bumpRaw f n).1.freeCount = s.freeCount := by
  unfold State.bumpRaw; simp only; split <;> (try split) <;> rfl
@[simp] theorem State.bumpRaw_services (s : State) (f : Fld) (n : Nat) : (s.bumpRaw f n).1.services = s.services := by
  unfold State.bumpRaw; simp only; split <;> (try split) <;> rfl
@[simp] theorem State.bumpRaw_staged (s : State) (f : Fld) (n : Nat) : (s.bumpRaw f n).1.staged = s.staged := by
  unfold State.bumpRaw; simp only; split <;> (try split) <;> rfl
@[simp] theorem State.bumpRaw_modelEpoch (s : State) (f : Fld) (n : Nat) : (s.bumpRaw f n).1.modelEpoch = s.modelEpoch := by
  unfold State.bumpRaw; simp only; split <;> (try split) <;> rfl
@[simp] theorem State.bumpRaw_configEpoch (s : State) (f : Fld) (n : Nat) : (s.bumpRaw f n).1.configEpoch = s.configEpoch := by
  unfold State.bumpRaw; simp only; split <;> (try split) <;> rfl
@[simp] theorem State.bumpRaw_tiles (s : State) (f : Fld) (n : Nat) : (s.bumpRaw f n).1.tiles = s.tiles := by
  unfold State.bumpRaw; simp only; split <;> (try split) <;> rfl
@[simp] theorem State.bumpRaw_clusters (s : State) (f : Fld) (n : Nat) : (s.bumpRaw f n).1.clusters = s.clusters := by
  unfold State.bumpRaw; simp only; split <;> (try split) <;> rfl
@[simp] theorem State.bumpRaw_barriers (s : State) (f : Fld) (n : Nat) : (s.bumpRaw f n).1.barriers = s.barriers := by
  unfold State.bumpRaw; simp only; split <;> (try split) <;> rfl
@[simp] theorem State.bumpRaw_deferred (s : State) (f : Fld) (n : Nat) : (s.bumpRaw f n).1.deferred = s.deferred := by
  unfold State.bumpRaw; simp only; split <;> (try split) <;> rfl
@[simp] theorem State.bumpRaw_nv (s : State) (f : Fld) (n : Nat) : (s.bumpRaw f n).1.nv = s.nv := by
  unfold State.bumpRaw; simp only; split <;> (try split) <;> rfl
@[simp] theorem State.bumpRaw_mem (s : State) (f : Fld) (n : Nat) : (s.bumpRaw f n).1.mem = s.mem := by
  unfold State.bumpRaw; simp only; split <;> (try split) <;> rfl
@[simp] theorem State.bumpRaw_intake (s : State) (f : Fld) (n : Nat) : (s.bumpRaw f n).1.intake = s.intake := by
  unfold State.bumpRaw; simp only; split <;> (try split) <;> rfl
@[simp] theorem State.bumpRaw_hif (s : State) (f : Fld) (n : Nat) : (s.bumpRaw f n).1.hif = s.hif := by
  unfold State.bumpRaw; simp only; split <;> (try split) <;> rfl
@[simp] theorem State.bumpRaw_consort (s : State) (f : Fld) (n : Nat) : (s.bumpRaw f n).1.consort = s.consort := by
  unfold State.bumpRaw; simp only; split <;> (try split) <;> rfl
@[simp] theorem State.bumpRaw_cores (s : State) (f : Fld) (n : Nat) : (s.bumpRaw f n).1.cores = s.cores := by
  unfold State.bumpRaw; simp only; split <;> (try split) <;> rfl
@[simp] theorem State.bumpRaw_spp (s : State) (f : Fld) (n : Nat) : (s.bumpRaw f n).1.spp = s.spp := by
  unfold State.bumpRaw; simp only; split <;> (try split) <;> rfl
@[simp] theorem State.bumpRaw_power (s : State) (f : Fld) (n : Nat) : (s.bumpRaw f n).1.power = s.power := by
  unfold State.bumpRaw; simp only; split <;> (try split) <;> rfl
@[simp] theorem State.bumpRaw_boot (s : State) (f : Fld) (n : Nat) : (s.bumpRaw f n).1.boot = s.boot := by
  unfold State.bumpRaw; simp only; split <;> (try split) <;> rfl
@[simp] theorem State.bumpRaw_log (s : State) (f : Fld) (n : Nat) : (s.bumpRaw f n).1.log = s.log := by
  unfold State.bumpRaw; simp only; split <;> (try split) <;> rfl
@[simp] theorem State.bumpRaw_out (s : State) (f : Fld) (n : Nat) : (s.bumpRaw f n).1.out = s.out := by
  unfold State.bumpRaw; simp only; split <;> (try split) <;> rfl

@[simp] theorem State.count_pending (s : State) (f : Fld) (n : Nat) : (s.count f n).pending = s.pending := by
  simp only [State.count]; split <;> simp
@[simp] theorem State.count_now (s : State) (f : Fld) (n : Nat) : (s.count f n).now = s.now := by
  simp only [State.count]; split <;> simp
@[simp] theorem State.count_boundaryAt (s : State) (f : Fld) (n : Nat) : (s.count f n).boundaryAt = s.boundaryAt := by
  simp only [State.count]; split <;> simp
@[simp] theorem State.count_ticking (s : State) (f : Fld) (n : Nat) : (s.count f n).ticking = s.ticking := by
  simp only [State.count]; split <;> simp
@[simp] theorem State.count_tickFrom (s : State) (f : Fld) (n : Nat) : (s.count f n).tickFrom = s.tickFrom := by
  simp only [State.count]; split <;> simp
@[simp] theorem State.count_tickEvent (s : State) (f : Fld) (n : Nat) : (s.count f n).tickEvent = s.tickEvent := by
  simp only [State.count]; split <;> simp
@[simp] theorem State.count_srcWritten (s : State) (f : Fld) (n : Nat) : (s.count f n).srcWritten = s.srcWritten := by
  simp only [State.count]; split <;> simp
@[simp] theorem State.count_missed (s : State) (f : Fld) (n : Nat) : (s.count f n).missed = s.missed := by
  simp only [State.count]; split <;> simp
@[simp] theorem State.count_phaseAct (s : State) (f : Fld) (n : Nat) : (s.count f n).phaseAct = s.phaseAct := by
  simp only [State.count]; split <;> simp
@[simp] theorem State.count_slewing (s : State) (f : Fld) (n : Nat) : (s.count f n).slewing = s.slewing := by
  simp only [State.count]; split <;> simp
@[simp] theorem State.count_gapSeen (s : State) (f : Fld) (n : Nat) : (s.count f n).gapSeen = s.gapSeen := by
  simp only [State.count]; split <;> simp
@[simp] theorem State.count_lastEnd (s : State) (f : Fld) (n : Nat) : (s.count f n).lastEnd = s.lastEnd := by
  simp only [State.count]; split <;> simp
@[simp] theorem State.count_runStart (s : State) (f : Fld) (n : Nat) : (s.count f n).runStart = s.runStart := by
  simp only [State.count]; split <;> simp
@[simp] theorem State.count_runCycle (s : State) (f : Fld) (n : Nat) : (s.count f n).runCycle = s.runCycle := by
  simp only [State.count]; split <;> simp
@[simp] theorem State.count_freeCount (s : State) (f : Fld) (n : Nat) : (s.count f n).freeCount = s.freeCount := by
  simp only [State.count]; split <;> simp
@[simp] theorem State.count_services (s : State) (f : Fld) (n : Nat) : (s.count f n).services = s.services := by
  simp only [State.count]; split <;> simp
@[simp] theorem State.count_staged (s : State) (f : Fld) (n : Nat) : (s.count f n).staged = s.staged := by
  simp only [State.count]; split <;> simp
@[simp] theorem State.count_modelEpoch (s : State) (f : Fld) (n : Nat) : (s.count f n).modelEpoch = s.modelEpoch := by
  simp only [State.count]; split <;> simp
@[simp] theorem State.count_configEpoch (s : State) (f : Fld) (n : Nat) : (s.count f n).configEpoch = s.configEpoch := by
  simp only [State.count]; split <;> simp
@[simp] theorem State.count_tiles (s : State) (f : Fld) (n : Nat) : (s.count f n).tiles = s.tiles := by
  simp only [State.count]; split <;> simp
@[simp] theorem State.count_clusters (s : State) (f : Fld) (n : Nat) : (s.count f n).clusters = s.clusters := by
  simp only [State.count]; split <;> simp
@[simp] theorem State.count_barriers (s : State) (f : Fld) (n : Nat) : (s.count f n).barriers = s.barriers := by
  simp only [State.count]; split <;> simp
@[simp] theorem State.count_deferred (s : State) (f : Fld) (n : Nat) : (s.count f n).deferred = s.deferred := by
  simp only [State.count]; split <;> simp
@[simp] theorem State.count_nv (s : State) (f : Fld) (n : Nat) : (s.count f n).nv = s.nv := by
  simp only [State.count]; split <;> simp
@[simp] theorem State.count_mem (s : State) (f : Fld) (n : Nat) : (s.count f n).mem = s.mem := by
  simp only [State.count]; split <;> simp
@[simp] theorem State.count_intake (s : State) (f : Fld) (n : Nat) : (s.count f n).intake = s.intake := by
  simp only [State.count]; split <;> simp
@[simp] theorem State.count_hif (s : State) (f : Fld) (n : Nat) : (s.count f n).hif = s.hif := by
  simp only [State.count]; split <;> simp
@[simp] theorem State.count_consort (s : State) (f : Fld) (n : Nat) : (s.count f n).consort = s.consort := by
  simp only [State.count]; split <;> simp
@[simp] theorem State.count_cores (s : State) (f : Fld) (n : Nat) : (s.count f n).cores = s.cores := by
  simp only [State.count]; split <;> simp
@[simp] theorem State.count_spp (s : State) (f : Fld) (n : Nat) : (s.count f n).spp = s.spp := by
  simp only [State.count]; split <;> simp
@[simp] theorem State.count_power (s : State) (f : Fld) (n : Nat) : (s.count f n).power = s.power := by
  simp only [State.count]; split <;> simp
@[simp] theorem State.count_boot (s : State) (f : Fld) (n : Nat) : (s.count f n).boot = s.boot := by
  simp only [State.count]; split <;> simp
@[simp] theorem State.count_out (s : State) (f : Fld) (n : Nat) : (s.count f n).out = s.out := by
  simp only [State.count]; split <;> simp

@[simp] theorem State.countUp_pending (s : State) (f : Fld) : (s.countUp f).pending = s.pending := by
  unfold State.countUp; split <;> rfl
@[simp] theorem State.countUp_now (s : State) (f : Fld) : (s.countUp f).now = s.now := by
  unfold State.countUp; split <;> rfl
@[simp] theorem State.countUp_boundaryAt (s : State) (f : Fld) : (s.countUp f).boundaryAt = s.boundaryAt := by
  unfold State.countUp; split <;> rfl
@[simp] theorem State.countUp_ticking (s : State) (f : Fld) : (s.countUp f).ticking = s.ticking := by
  unfold State.countUp; split <;> rfl
@[simp] theorem State.countUp_tickFrom (s : State) (f : Fld) : (s.countUp f).tickFrom = s.tickFrom := by
  unfold State.countUp; split <;> rfl
@[simp] theorem State.countUp_tickEvent (s : State) (f : Fld) : (s.countUp f).tickEvent = s.tickEvent := by
  unfold State.countUp; split <;> rfl
@[simp] theorem State.countUp_srcWritten (s : State) (f : Fld) : (s.countUp f).srcWritten = s.srcWritten := by
  unfold State.countUp; split <;> rfl
@[simp] theorem State.countUp_missed (s : State) (f : Fld) : (s.countUp f).missed = s.missed := by
  unfold State.countUp; split <;> rfl
@[simp] theorem State.countUp_phaseAct (s : State) (f : Fld) : (s.countUp f).phaseAct = s.phaseAct := by
  unfold State.countUp; split <;> rfl
@[simp] theorem State.countUp_slewing (s : State) (f : Fld) : (s.countUp f).slewing = s.slewing := by
  unfold State.countUp; split <;> rfl
@[simp] theorem State.countUp_gapSeen (s : State) (f : Fld) : (s.countUp f).gapSeen = s.gapSeen := by
  unfold State.countUp; split <;> rfl
@[simp] theorem State.countUp_lastEnd (s : State) (f : Fld) : (s.countUp f).lastEnd = s.lastEnd := by
  unfold State.countUp; split <;> rfl
@[simp] theorem State.countUp_runStart (s : State) (f : Fld) : (s.countUp f).runStart = s.runStart := by
  unfold State.countUp; split <;> rfl
@[simp] theorem State.countUp_runCycle (s : State) (f : Fld) : (s.countUp f).runCycle = s.runCycle := by
  unfold State.countUp; split <;> rfl
@[simp] theorem State.countUp_freeCount (s : State) (f : Fld) : (s.countUp f).freeCount = s.freeCount := by
  unfold State.countUp; split <;> rfl
@[simp] theorem State.countUp_services (s : State) (f : Fld) : (s.countUp f).services = s.services := by
  unfold State.countUp; split <;> rfl
@[simp] theorem State.countUp_staged (s : State) (f : Fld) : (s.countUp f).staged = s.staged := by
  unfold State.countUp; split <;> rfl
@[simp] theorem State.countUp_modelEpoch (s : State) (f : Fld) : (s.countUp f).modelEpoch = s.modelEpoch := by
  unfold State.countUp; split <;> rfl
@[simp] theorem State.countUp_configEpoch (s : State) (f : Fld) : (s.countUp f).configEpoch = s.configEpoch := by
  unfold State.countUp; split <;> rfl
@[simp] theorem State.countUp_tiles (s : State) (f : Fld) : (s.countUp f).tiles = s.tiles := by
  unfold State.countUp; split <;> rfl
@[simp] theorem State.countUp_clusters (s : State) (f : Fld) : (s.countUp f).clusters = s.clusters := by
  unfold State.countUp; split <;> rfl
@[simp] theorem State.countUp_barriers (s : State) (f : Fld) : (s.countUp f).barriers = s.barriers := by
  unfold State.countUp; split <;> rfl
@[simp] theorem State.countUp_deferred (s : State) (f : Fld) : (s.countUp f).deferred = s.deferred := by
  unfold State.countUp; split <;> rfl
@[simp] theorem State.countUp_nv (s : State) (f : Fld) : (s.countUp f).nv = s.nv := by
  unfold State.countUp; split <;> rfl
@[simp] theorem State.countUp_mem (s : State) (f : Fld) : (s.countUp f).mem = s.mem := by
  unfold State.countUp; split <;> rfl
@[simp] theorem State.countUp_intake (s : State) (f : Fld) : (s.countUp f).intake = s.intake := by
  unfold State.countUp; split <;> rfl
@[simp] theorem State.countUp_hif (s : State) (f : Fld) : (s.countUp f).hif = s.hif := by
  unfold State.countUp; split <;> rfl
@[simp] theorem State.countUp_consort (s : State) (f : Fld) : (s.countUp f).consort = s.consort := by
  unfold State.countUp; split <;> rfl
@[simp] theorem State.countUp_cores (s : State) (f : Fld) : (s.countUp f).cores = s.cores := by
  unfold State.countUp; split <;> rfl
@[simp] theorem State.countUp_spp (s : State) (f : Fld) : (s.countUp f).spp = s.spp := by
  unfold State.countUp; split <;> rfl
@[simp] theorem State.countUp_power (s : State) (f : Fld) : (s.countUp f).power = s.power := by
  unfold State.countUp; split <;> rfl
@[simp] theorem State.countUp_boot (s : State) (f : Fld) : (s.countUp f).boot = s.boot := by
  unfold State.countUp; split <;> rfl
@[simp] theorem State.countUp_log (s : State) (f : Fld) : (s.countUp f).log = s.log := by
  unfold State.countUp; split <;> rfl
@[simp] theorem State.countUp_out (s : State) (f : Fld) : (s.countUp f).out = s.out := by
  unfold State.countUp; split <;> rfl

@[simp] theorem State.setFlds_pending (s : State) (l : List (Fld × Nat)) : (s.setFlds l).pending = s.pending := by
  unfold State.setFlds
  induction l generalizing s with
  | nil => rfl
  | cons a l ih => rw [List.foldl_cons, ih]; rfl
@[simp] theorem State.setFlds_now (s : State) (l : List (Fld × Nat)) : (s.setFlds l).now = s.now := by
  unfold State.setFlds
  induction l generalizing s with
  | nil => rfl
  | cons a l ih => rw [List.foldl_cons, ih]; rfl
@[simp] theorem State.setFlds_boundaryAt (s : State) (l : List (Fld × Nat)) : (s.setFlds l).boundaryAt = s.boundaryAt := by
  unfold State.setFlds
  induction l generalizing s with
  | nil => rfl
  | cons a l ih => rw [List.foldl_cons, ih]; rfl
@[simp] theorem State.setFlds_ticking (s : State) (l : List (Fld × Nat)) : (s.setFlds l).ticking = s.ticking := by
  unfold State.setFlds
  induction l generalizing s with
  | nil => rfl
  | cons a l ih => rw [List.foldl_cons, ih]; rfl
@[simp] theorem State.setFlds_tickFrom (s : State) (l : List (Fld × Nat)) : (s.setFlds l).tickFrom = s.tickFrom := by
  unfold State.setFlds
  induction l generalizing s with
  | nil => rfl
  | cons a l ih => rw [List.foldl_cons, ih]; rfl
@[simp] theorem State.setFlds_tickEvent (s : State) (l : List (Fld × Nat)) : (s.setFlds l).tickEvent = s.tickEvent := by
  unfold State.setFlds
  induction l generalizing s with
  | nil => rfl
  | cons a l ih => rw [List.foldl_cons, ih]; rfl
@[simp] theorem State.setFlds_srcWritten (s : State) (l : List (Fld × Nat)) : (s.setFlds l).srcWritten = s.srcWritten := by
  unfold State.setFlds
  induction l generalizing s with
  | nil => rfl
  | cons a l ih => rw [List.foldl_cons, ih]; rfl
@[simp] theorem State.setFlds_missed (s : State) (l : List (Fld × Nat)) : (s.setFlds l).missed = s.missed := by
  unfold State.setFlds
  induction l generalizing s with
  | nil => rfl
  | cons a l ih => rw [List.foldl_cons, ih]; rfl
@[simp] theorem State.setFlds_phaseAct (s : State) (l : List (Fld × Nat)) : (s.setFlds l).phaseAct = s.phaseAct := by
  unfold State.setFlds
  induction l generalizing s with
  | nil => rfl
  | cons a l ih => rw [List.foldl_cons, ih]; rfl
@[simp] theorem State.setFlds_slewing (s : State) (l : List (Fld × Nat)) : (s.setFlds l).slewing = s.slewing := by
  unfold State.setFlds
  induction l generalizing s with
  | nil => rfl
  | cons a l ih => rw [List.foldl_cons, ih]; rfl
@[simp] theorem State.setFlds_gapSeen (s : State) (l : List (Fld × Nat)) : (s.setFlds l).gapSeen = s.gapSeen := by
  unfold State.setFlds
  induction l generalizing s with
  | nil => rfl
  | cons a l ih => rw [List.foldl_cons, ih]; rfl
@[simp] theorem State.setFlds_lastEnd (s : State) (l : List (Fld × Nat)) : (s.setFlds l).lastEnd = s.lastEnd := by
  unfold State.setFlds
  induction l generalizing s with
  | nil => rfl
  | cons a l ih => rw [List.foldl_cons, ih]; rfl
@[simp] theorem State.setFlds_runStart (s : State) (l : List (Fld × Nat)) : (s.setFlds l).runStart = s.runStart := by
  unfold State.setFlds
  induction l generalizing s with
  | nil => rfl
  | cons a l ih => rw [List.foldl_cons, ih]; rfl
@[simp] theorem State.setFlds_runCycle (s : State) (l : List (Fld × Nat)) : (s.setFlds l).runCycle = s.runCycle := by
  unfold State.setFlds
  induction l generalizing s with
  | nil => rfl
  | cons a l ih => rw [List.foldl_cons, ih]; rfl
@[simp] theorem State.setFlds_freeCount (s : State) (l : List (Fld × Nat)) : (s.setFlds l).freeCount = s.freeCount := by
  unfold State.setFlds
  induction l generalizing s with
  | nil => rfl
  | cons a l ih => rw [List.foldl_cons, ih]; rfl
@[simp] theorem State.setFlds_services (s : State) (l : List (Fld × Nat)) : (s.setFlds l).services = s.services := by
  unfold State.setFlds
  induction l generalizing s with
  | nil => rfl
  | cons a l ih => rw [List.foldl_cons, ih]; rfl
@[simp] theorem State.setFlds_staged (s : State) (l : List (Fld × Nat)) : (s.setFlds l).staged = s.staged := by
  unfold State.setFlds
  induction l generalizing s with
  | nil => rfl
  | cons a l ih => rw [List.foldl_cons, ih]; rfl
@[simp] theorem State.setFlds_modelEpoch (s : State) (l : List (Fld × Nat)) : (s.setFlds l).modelEpoch = s.modelEpoch := by
  unfold State.setFlds
  induction l generalizing s with
  | nil => rfl
  | cons a l ih => rw [List.foldl_cons, ih]; rfl
@[simp] theorem State.setFlds_configEpoch (s : State) (l : List (Fld × Nat)) : (s.setFlds l).configEpoch = s.configEpoch := by
  unfold State.setFlds
  induction l generalizing s with
  | nil => rfl
  | cons a l ih => rw [List.foldl_cons, ih]; rfl
@[simp] theorem State.setFlds_tiles (s : State) (l : List (Fld × Nat)) : (s.setFlds l).tiles = s.tiles := by
  unfold State.setFlds
  induction l generalizing s with
  | nil => rfl
  | cons a l ih => rw [List.foldl_cons, ih]; rfl
@[simp] theorem State.setFlds_clusters (s : State) (l : List (Fld × Nat)) : (s.setFlds l).clusters = s.clusters := by
  unfold State.setFlds
  induction l generalizing s with
  | nil => rfl
  | cons a l ih => rw [List.foldl_cons, ih]; rfl
@[simp] theorem State.setFlds_barriers (s : State) (l : List (Fld × Nat)) : (s.setFlds l).barriers = s.barriers := by
  unfold State.setFlds
  induction l generalizing s with
  | nil => rfl
  | cons a l ih => rw [List.foldl_cons, ih]; rfl
@[simp] theorem State.setFlds_deferred (s : State) (l : List (Fld × Nat)) : (s.setFlds l).deferred = s.deferred := by
  unfold State.setFlds
  induction l generalizing s with
  | nil => rfl
  | cons a l ih => rw [List.foldl_cons, ih]; rfl
@[simp] theorem State.setFlds_nv (s : State) (l : List (Fld × Nat)) : (s.setFlds l).nv = s.nv := by
  unfold State.setFlds
  induction l generalizing s with
  | nil => rfl
  | cons a l ih => rw [List.foldl_cons, ih]; rfl
@[simp] theorem State.setFlds_mem (s : State) (l : List (Fld × Nat)) : (s.setFlds l).mem = s.mem := by
  unfold State.setFlds
  induction l generalizing s with
  | nil => rfl
  | cons a l ih => rw [List.foldl_cons, ih]; rfl
@[simp] theorem State.setFlds_intake (s : State) (l : List (Fld × Nat)) : (s.setFlds l).intake = s.intake := by
  unfold State.setFlds
  induction l generalizing s with
  | nil => rfl
  | cons a l ih => rw [List.foldl_cons, ih]; rfl
@[simp] theorem State.setFlds_hif (s : State) (l : List (Fld × Nat)) : (s.setFlds l).hif = s.hif := by
  unfold State.setFlds
  induction l generalizing s with
  | nil => rfl
  | cons a l ih => rw [List.foldl_cons, ih]; rfl
@[simp] theorem State.setFlds_consort (s : State) (l : List (Fld × Nat)) : (s.setFlds l).consort = s.consort := by
  unfold State.setFlds
  induction l generalizing s with
  | nil => rfl
  | cons a l ih => rw [List.foldl_cons, ih]; rfl
@[simp] theorem State.setFlds_cores (s : State) (l : List (Fld × Nat)) : (s.setFlds l).cores = s.cores := by
  unfold State.setFlds
  induction l generalizing s with
  | nil => rfl
  | cons a l ih => rw [List.foldl_cons, ih]; rfl
@[simp] theorem State.setFlds_spp (s : State) (l : List (Fld × Nat)) : (s.setFlds l).spp = s.spp := by
  unfold State.setFlds
  induction l generalizing s with
  | nil => rfl
  | cons a l ih => rw [List.foldl_cons, ih]; rfl
@[simp] theorem State.setFlds_power (s : State) (l : List (Fld × Nat)) : (s.setFlds l).power = s.power := by
  unfold State.setFlds
  induction l generalizing s with
  | nil => rfl
  | cons a l ih => rw [List.foldl_cons, ih]; rfl
@[simp] theorem State.setFlds_boot (s : State) (l : List (Fld × Nat)) : (s.setFlds l).boot = s.boot := by
  unfold State.setFlds
  induction l generalizing s with
  | nil => rfl
  | cons a l ih => rw [List.foldl_cons, ih]; rfl
@[simp] theorem State.setFlds_log (s : State) (l : List (Fld × Nat)) : (s.setFlds l).log = s.log := by
  unfold State.setFlds
  induction l generalizing s with
  | nil => rfl
  | cons a l ih => rw [List.foldl_cons, ih]; rfl
@[simp] theorem State.setFlds_out (s : State) (l : List (Fld × Nat)) : (s.setFlds l).out = s.out := by
  unfold State.setFlds
  induction l generalizing s with
  | nil => rfl
  | cons a l ih => rw [List.foldl_cons, ih]; rfl

@[simp] theorem State.firstRecord_pending (s : State) (f : Fld) (l : List (Fld × Nat)) : (s.firstRecord f l).pending = s.pending := by
  unfold State.firstRecord; split <;> simp
@[simp] theorem State.firstRecord_now (s : State) (f : Fld) (l : List (Fld × Nat)) : (s.firstRecord f l).now = s.now := by
  unfold State.firstRecord; split <;> simp
@[simp] theorem State.firstRecord_boundaryAt (s : State) (f : Fld) (l : List (Fld × Nat)) : (s.firstRecord f l).boundaryAt = s.boundaryAt := by
  unfold State.firstRecord; split <;> simp
@[simp] theorem State.firstRecord_ticking (s : State) (f : Fld) (l : List (Fld × Nat)) : (s.firstRecord f l).ticking = s.ticking := by
  unfold State.firstRecord; split <;> simp
@[simp] theorem State.firstRecord_tickFrom (s : State) (f : Fld) (l : List (Fld × Nat)) : (s.firstRecord f l).tickFrom = s.tickFrom := by
  unfold State.firstRecord; split <;> simp
@[simp] theorem State.firstRecord_tickEvent (s : State) (f : Fld) (l : List (Fld × Nat)) : (s.firstRecord f l).tickEvent = s.tickEvent := by
  unfold State.firstRecord; split <;> simp
@[simp] theorem State.firstRecord_srcWritten (s : State) (f : Fld) (l : List (Fld × Nat)) : (s.firstRecord f l).srcWritten = s.srcWritten := by
  unfold State.firstRecord; split <;> simp
@[simp] theorem State.firstRecord_missed (s : State) (f : Fld) (l : List (Fld × Nat)) : (s.firstRecord f l).missed = s.missed := by
  unfold State.firstRecord; split <;> simp
@[simp] theorem State.firstRecord_phaseAct (s : State) (f : Fld) (l : List (Fld × Nat)) : (s.firstRecord f l).phaseAct = s.phaseAct := by
  unfold State.firstRecord; split <;> simp
@[simp] theorem State.firstRecord_slewing (s : State) (f : Fld) (l : List (Fld × Nat)) : (s.firstRecord f l).slewing = s.slewing := by
  unfold State.firstRecord; split <;> simp
@[simp] theorem State.firstRecord_gapSeen (s : State) (f : Fld) (l : List (Fld × Nat)) : (s.firstRecord f l).gapSeen = s.gapSeen := by
  unfold State.firstRecord; split <;> simp
@[simp] theorem State.firstRecord_lastEnd (s : State) (f : Fld) (l : List (Fld × Nat)) : (s.firstRecord f l).lastEnd = s.lastEnd := by
  unfold State.firstRecord; split <;> simp
@[simp] theorem State.firstRecord_runStart (s : State) (f : Fld) (l : List (Fld × Nat)) : (s.firstRecord f l).runStart = s.runStart := by
  unfold State.firstRecord; split <;> simp
@[simp] theorem State.firstRecord_runCycle (s : State) (f : Fld) (l : List (Fld × Nat)) : (s.firstRecord f l).runCycle = s.runCycle := by
  unfold State.firstRecord; split <;> simp
@[simp] theorem State.firstRecord_freeCount (s : State) (f : Fld) (l : List (Fld × Nat)) : (s.firstRecord f l).freeCount = s.freeCount := by
  unfold State.firstRecord; split <;> simp
@[simp] theorem State.firstRecord_services (s : State) (f : Fld) (l : List (Fld × Nat)) : (s.firstRecord f l).services = s.services := by
  unfold State.firstRecord; split <;> simp
@[simp] theorem State.firstRecord_staged (s : State) (f : Fld) (l : List (Fld × Nat)) : (s.firstRecord f l).staged = s.staged := by
  unfold State.firstRecord; split <;> simp
@[simp] theorem State.firstRecord_modelEpoch (s : State) (f : Fld) (l : List (Fld × Nat)) : (s.firstRecord f l).modelEpoch = s.modelEpoch := by
  unfold State.firstRecord; split <;> simp
@[simp] theorem State.firstRecord_configEpoch (s : State) (f : Fld) (l : List (Fld × Nat)) : (s.firstRecord f l).configEpoch = s.configEpoch := by
  unfold State.firstRecord; split <;> simp
@[simp] theorem State.firstRecord_tiles (s : State) (f : Fld) (l : List (Fld × Nat)) : (s.firstRecord f l).tiles = s.tiles := by
  unfold State.firstRecord; split <;> simp
@[simp] theorem State.firstRecord_clusters (s : State) (f : Fld) (l : List (Fld × Nat)) : (s.firstRecord f l).clusters = s.clusters := by
  unfold State.firstRecord; split <;> simp
@[simp] theorem State.firstRecord_barriers (s : State) (f : Fld) (l : List (Fld × Nat)) : (s.firstRecord f l).barriers = s.barriers := by
  unfold State.firstRecord; split <;> simp
@[simp] theorem State.firstRecord_deferred (s : State) (f : Fld) (l : List (Fld × Nat)) : (s.firstRecord f l).deferred = s.deferred := by
  unfold State.firstRecord; split <;> simp
@[simp] theorem State.firstRecord_nv (s : State) (f : Fld) (l : List (Fld × Nat)) : (s.firstRecord f l).nv = s.nv := by
  unfold State.firstRecord; split <;> simp
@[simp] theorem State.firstRecord_mem (s : State) (f : Fld) (l : List (Fld × Nat)) : (s.firstRecord f l).mem = s.mem := by
  unfold State.firstRecord; split <;> simp
@[simp] theorem State.firstRecord_intake (s : State) (f : Fld) (l : List (Fld × Nat)) : (s.firstRecord f l).intake = s.intake := by
  unfold State.firstRecord; split <;> simp
@[simp] theorem State.firstRecord_hif (s : State) (f : Fld) (l : List (Fld × Nat)) : (s.firstRecord f l).hif = s.hif := by
  unfold State.firstRecord; split <;> simp
@[simp] theorem State.firstRecord_consort (s : State) (f : Fld) (l : List (Fld × Nat)) : (s.firstRecord f l).consort = s.consort := by
  unfold State.firstRecord; split <;> simp
@[simp] theorem State.firstRecord_cores (s : State) (f : Fld) (l : List (Fld × Nat)) : (s.firstRecord f l).cores = s.cores := by
  unfold State.firstRecord; split <;> simp
@[simp] theorem State.firstRecord_spp (s : State) (f : Fld) (l : List (Fld × Nat)) : (s.firstRecord f l).spp = s.spp := by
  unfold State.firstRecord; split <;> simp
@[simp] theorem State.firstRecord_power (s : State) (f : Fld) (l : List (Fld × Nat)) : (s.firstRecord f l).power = s.power := by
  unfold State.firstRecord; split <;> simp
@[simp] theorem State.firstRecord_boot (s : State) (f : Fld) (l : List (Fld × Nat)) : (s.firstRecord f l).boot = s.boot := by
  unfold State.firstRecord; split <;> simp
@[simp] theorem State.firstRecord_log (s : State) (f : Fld) (l : List (Fld × Nat)) : (s.firstRecord f l).log = s.log := by
  unfold State.firstRecord; split <;> simp
@[simp] theorem State.firstRecord_out (s : State) (f : Fld) (l : List (Fld × Nat)) : (s.firstRecord f l).out = s.out := by
  unfold State.firstRecord; split <;> simp

@[simp] theorem State.dma_pending (s : State) (a : Nat) (b : Bytes) : (s.dma a b).pending = s.pending := by
  unfold State.dma; split <;> rfl
@[simp] theorem State.dma_now (s : State) (a : Nat) (b : Bytes) : (s.dma a b).now = s.now := by
  unfold State.dma; split <;> rfl
@[simp] theorem State.dma_boundaryAt (s : State) (a : Nat) (b : Bytes) : (s.dma a b).boundaryAt = s.boundaryAt := by
  unfold State.dma; split <;> rfl
@[simp] theorem State.dma_ticking (s : State) (a : Nat) (b : Bytes) : (s.dma a b).ticking = s.ticking := by
  unfold State.dma; split <;> rfl
@[simp] theorem State.dma_tickFrom (s : State) (a : Nat) (b : Bytes) : (s.dma a b).tickFrom = s.tickFrom := by
  unfold State.dma; split <;> rfl
@[simp] theorem State.dma_tickEvent (s : State) (a : Nat) (b : Bytes) : (s.dma a b).tickEvent = s.tickEvent := by
  unfold State.dma; split <;> rfl
@[simp] theorem State.dma_srcWritten (s : State) (a : Nat) (b : Bytes) : (s.dma a b).srcWritten = s.srcWritten := by
  unfold State.dma; split <;> rfl
@[simp] theorem State.dma_missed (s : State) (a : Nat) (b : Bytes) : (s.dma a b).missed = s.missed := by
  unfold State.dma; split <;> rfl
@[simp] theorem State.dma_phaseAct (s : State) (a : Nat) (b : Bytes) : (s.dma a b).phaseAct = s.phaseAct := by
  unfold State.dma; split <;> rfl
@[simp] theorem State.dma_slewing (s : State) (a : Nat) (b : Bytes) : (s.dma a b).slewing = s.slewing := by
  unfold State.dma; split <;> rfl
@[simp] theorem State.dma_gapSeen (s : State) (a : Nat) (b : Bytes) : (s.dma a b).gapSeen = s.gapSeen := by
  unfold State.dma; split <;> rfl
@[simp] theorem State.dma_lastEnd (s : State) (a : Nat) (b : Bytes) : (s.dma a b).lastEnd = s.lastEnd := by
  unfold State.dma; split <;> rfl
@[simp] theorem State.dma_runStart (s : State) (a : Nat) (b : Bytes) : (s.dma a b).runStart = s.runStart := by
  unfold State.dma; split <;> rfl
@[simp] theorem State.dma_runCycle (s : State) (a : Nat) (b : Bytes) : (s.dma a b).runCycle = s.runCycle := by
  unfold State.dma; split <;> rfl
@[simp] theorem State.dma_freeCount (s : State) (a : Nat) (b : Bytes) : (s.dma a b).freeCount = s.freeCount := by
  unfold State.dma; split <;> rfl
@[simp] theorem State.dma_services (s : State) (a : Nat) (b : Bytes) : (s.dma a b).services = s.services := by
  unfold State.dma; split <;> rfl
@[simp] theorem State.dma_staged (s : State) (a : Nat) (b : Bytes) : (s.dma a b).staged = s.staged := by
  unfold State.dma; split <;> rfl
@[simp] theorem State.dma_modelEpoch (s : State) (a : Nat) (b : Bytes) : (s.dma a b).modelEpoch = s.modelEpoch := by
  unfold State.dma; split <;> rfl
@[simp] theorem State.dma_configEpoch (s : State) (a : Nat) (b : Bytes) : (s.dma a b).configEpoch = s.configEpoch := by
  unfold State.dma; split <;> rfl
@[simp] theorem State.dma_tiles (s : State) (a : Nat) (b : Bytes) : (s.dma a b).tiles = s.tiles := by
  unfold State.dma; split <;> rfl
@[simp] theorem State.dma_clusters (s : State) (a : Nat) (b : Bytes) : (s.dma a b).clusters = s.clusters := by
  unfold State.dma; split <;> rfl
@[simp] theorem State.dma_barriers (s : State) (a : Nat) (b : Bytes) : (s.dma a b).barriers = s.barriers := by
  unfold State.dma; split <;> rfl
@[simp] theorem State.dma_deferred (s : State) (a : Nat) (b : Bytes) : (s.dma a b).deferred = s.deferred := by
  unfold State.dma; split <;> rfl
@[simp] theorem State.dma_nv (s : State) (a : Nat) (b : Bytes) : (s.dma a b).nv = s.nv := by
  unfold State.dma; split <;> rfl
@[simp] theorem State.dma_mem (s : State) (a : Nat) (b : Bytes) : (s.dma a b).mem = s.mem := by
  unfold State.dma; split <;> rfl
@[simp] theorem State.dma_intake (s : State) (a : Nat) (b : Bytes) : (s.dma a b).intake = s.intake := by
  unfold State.dma; split <;> rfl
@[simp] theorem State.dma_hif (s : State) (a : Nat) (b : Bytes) : (s.dma a b).hif = s.hif := by
  unfold State.dma; split <;> rfl
@[simp] theorem State.dma_consort (s : State) (a : Nat) (b : Bytes) : (s.dma a b).consort = s.consort := by
  unfold State.dma; split <;> rfl
@[simp] theorem State.dma_cores (s : State) (a : Nat) (b : Bytes) : (s.dma a b).cores = s.cores := by
  unfold State.dma; split <;> rfl
@[simp] theorem State.dma_spp (s : State) (a : Nat) (b : Bytes) : (s.dma a b).spp = s.spp := by
  unfold State.dma; split <;> rfl
@[simp] theorem State.dma_power (s : State) (a : Nat) (b : Bytes) : (s.dma a b).power = s.power := by
  unfold State.dma; split <;> rfl
@[simp] theorem State.dma_boot (s : State) (a : Nat) (b : Bytes) : (s.dma a b).boot = s.boot := by
  unfold State.dma; split <;> rfl
@[simp] theorem State.dma_log (s : State) (a : Nat) (b : Bytes) : (s.dma a b).log = s.log := by
  unfold State.dma; split <;> rfl
@[simp] theorem State.dma_regs (s : State) (a : Nat) (b : Bytes) : (s.dma a b).regs = s.regs := by
  unfold State.dma; split <;> rfl
@[simp] theorem State.dma_fld (s : State) (a : Nat) (b : Bytes) (g : Fld) : (s.dma a b).fld g = s.fld g := by
  unfold State.dma; split <;> rfl

@[simp] theorem State.signal_pending (s : State) (v : Nat) : (s.signal v).pending = s.pending := by
  unfold State.signal; split <;> rfl
@[simp] theorem State.signal_now (s : State) (v : Nat) : (s.signal v).now = s.now := by
  unfold State.signal; split <;> rfl
@[simp] theorem State.signal_boundaryAt (s : State) (v : Nat) : (s.signal v).boundaryAt = s.boundaryAt := by
  unfold State.signal; split <;> rfl
@[simp] theorem State.signal_ticking (s : State) (v : Nat) : (s.signal v).ticking = s.ticking := by
  unfold State.signal; split <;> rfl
@[simp] theorem State.signal_tickFrom (s : State) (v : Nat) : (s.signal v).tickFrom = s.tickFrom := by
  unfold State.signal; split <;> rfl
@[simp] theorem State.signal_tickEvent (s : State) (v : Nat) : (s.signal v).tickEvent = s.tickEvent := by
  unfold State.signal; split <;> rfl
@[simp] theorem State.signal_srcWritten (s : State) (v : Nat) : (s.signal v).srcWritten = s.srcWritten := by
  unfold State.signal; split <;> rfl
@[simp] theorem State.signal_missed (s : State) (v : Nat) : (s.signal v).missed = s.missed := by
  unfold State.signal; split <;> rfl
@[simp] theorem State.signal_phaseAct (s : State) (v : Nat) : (s.signal v).phaseAct = s.phaseAct := by
  unfold State.signal; split <;> rfl
@[simp] theorem State.signal_slewing (s : State) (v : Nat) : (s.signal v).slewing = s.slewing := by
  unfold State.signal; split <;> rfl
@[simp] theorem State.signal_gapSeen (s : State) (v : Nat) : (s.signal v).gapSeen = s.gapSeen := by
  unfold State.signal; split <;> rfl
@[simp] theorem State.signal_lastEnd (s : State) (v : Nat) : (s.signal v).lastEnd = s.lastEnd := by
  unfold State.signal; split <;> rfl
@[simp] theorem State.signal_runStart (s : State) (v : Nat) : (s.signal v).runStart = s.runStart := by
  unfold State.signal; split <;> rfl
@[simp] theorem State.signal_runCycle (s : State) (v : Nat) : (s.signal v).runCycle = s.runCycle := by
  unfold State.signal; split <;> rfl
@[simp] theorem State.signal_freeCount (s : State) (v : Nat) : (s.signal v).freeCount = s.freeCount := by
  unfold State.signal; split <;> rfl
@[simp] theorem State.signal_services (s : State) (v : Nat) : (s.signal v).services = s.services := by
  unfold State.signal; split <;> rfl
@[simp] theorem State.signal_staged (s : State) (v : Nat) : (s.signal v).staged = s.staged := by
  unfold State.signal; split <;> rfl
@[simp] theorem State.signal_modelEpoch (s : State) (v : Nat) : (s.signal v).modelEpoch = s.modelEpoch := by
  unfold State.signal; split <;> rfl
@[simp] theorem State.signal_configEpoch (s : State) (v : Nat) : (s.signal v).configEpoch = s.configEpoch := by
  unfold State.signal; split <;> rfl
@[simp] theorem State.signal_tiles (s : State) (v : Nat) : (s.signal v).tiles = s.tiles := by
  unfold State.signal; split <;> rfl
@[simp] theorem State.signal_clusters (s : State) (v : Nat) : (s.signal v).clusters = s.clusters := by
  unfold State.signal; split <;> rfl
@[simp] theorem State.signal_barriers (s : State) (v : Nat) : (s.signal v).barriers = s.barriers := by
  unfold State.signal; split <;> rfl
@[simp] theorem State.signal_deferred (s : State) (v : Nat) : (s.signal v).deferred = s.deferred := by
  unfold State.signal; split <;> rfl
@[simp] theorem State.signal_nv (s : State) (v : Nat) : (s.signal v).nv = s.nv := by
  unfold State.signal; split <;> rfl
@[simp] theorem State.signal_mem (s : State) (v : Nat) : (s.signal v).mem = s.mem := by
  unfold State.signal; split <;> rfl
@[simp] theorem State.signal_intake (s : State) (v : Nat) : (s.signal v).intake = s.intake := by
  unfold State.signal; split <;> rfl
@[simp] theorem State.signal_consort (s : State) (v : Nat) : (s.signal v).consort = s.consort := by
  unfold State.signal; split <;> rfl
@[simp] theorem State.signal_cores (s : State) (v : Nat) : (s.signal v).cores = s.cores := by
  unfold State.signal; split <;> rfl
@[simp] theorem State.signal_spp (s : State) (v : Nat) : (s.signal v).spp = s.spp := by
  unfold State.signal; split <;> rfl
@[simp] theorem State.signal_power (s : State) (v : Nat) : (s.signal v).power = s.power := by
  unfold State.signal; split <;> rfl
@[simp] theorem State.signal_boot (s : State) (v : Nat) : (s.signal v).boot = s.boot := by
  unfold State.signal; split <;> rfl
@[simp] theorem State.signal_log (s : State) (v : Nat) : (s.signal v).log = s.log := by
  unfold State.signal; split <;> rfl
@[simp] theorem State.signal_regs (s : State) (v : Nat) : (s.signal v).regs = s.regs := by
  unfold State.signal; split <;> rfl
@[simp] theorem State.signal_fld (s : State) (v : Nat) (g : Fld) : (s.signal v).fld g = s.fld g := by
  unfold State.signal; split <;> rfl

/-! ### What a field reads after a flag or a list of fields is stored -/

theorem State.flagWith_fld (s : State) (f g : Fld) (d : Bytes) : (s.flagWith f d).fld g = (s.setFld f 1).fld g := by
  unfold State.flagWith; simp only; split <;> rfl

theorem State.flag_fld (s : State) (f g : Fld) : (s.flag f).fld g = (s.setFld f 1).fld g := s.flagWith_fld f g _

theorem State.flagWith_look (s : State) (f : Fld) (d : Bytes) (k : Nat) :
    Tab.look (s.flagWith f d).regs k = Tab.look (s.setFld f 1).regs k := by
  unfold State.flagWith; simp only; split <;> rfl

theorem State.flag_look (s : State) (f : Fld) (k : Nat) :
    Tab.look (s.flag f).regs k = Tab.look (s.setFld f 1).regs k := s.flagWith_look f _ k

@[simp] theorem State.setFlds_nil (s : State) : s.setFlds [] = s := rfl
@[simp] theorem State.setFlds_cons (s : State) (x : Fld × Nat) (l : List (Fld × Nat)) :
    s.setFlds (x :: l) = (s.setFld x.1 x.2).setFlds l := rfl

theorem State.bumpRaw_fld_ne (s : State) (f g : Fld) (n : Nat) (h : g.off ≠ f.off) : (s.bumpRaw f n).1.fld g = s.fld g := by
  unfold State.bumpRaw
  simp only
  split
  · rfl
  · split <;> simp only [State.fld, State.whole_setWhole_ne _ _ _ _ _ _ h]

theorem State.count_fld_ne (s : State) (f g : Fld) (n : Nat) (h : g.off ≠ f.off) : (s.count f n).fld g = s.fld g := by
  simp only [State.count]
  split
  · simpa using s.bumpRaw_fld_ne f g n h
  · exact s.bumpRaw_fld_ne f g n h

theorem State.count_look_ne (s : State) (f : Fld) (n k : Nat) (h : k ≠ f.off) :
    Tab.look (s.count f n).regs k = Tab.look s.regs k := by
  have : ∀ v, Tab.look (s.setWhole f.off f.whole v).regs k = Tab.look s.regs k := fun v => by
    simp [State.setWhole, Tab.look_store_ne _ _ _ _ _ h]
  simp only [State.count, State.bumpRaw]
  split <;> split <;> (try split) <;> first | rfl | exact this _

/-- A counter that has not saturated counts on. -/
theorem State.count_fld_self (s : State) (f : Fld) (n : Nat) (hf : f.hi = 47 ∧ f.lo = 0)
    (h : (s.whole f.off f.whole).testBit 63 = false) (hn : s.fld f + n < 2 ^ 48) : (s.count f n).fld f = s.fld f + n := by
  have hb : ∀ v, bitsOf v 47 0 = v % 2 ^ 48 := fun v => by simp [bitsOf]
  have hc : s.fld f = s.whole f.off f.whole % 2 ^ 48 := by rw [State.fld, hf.1, hf.2, hb]
  rw [hc] at hn ⊢
  by_cases z : n = 0
  · subst z
    simp only [State.count, State.bumpRaw]
    simpa using hc
  · have live : ¬((s.whole f.off f.whole).testBit 63 || decide (n = 0)) = true := by simp [h, z]
    have e : s.bumpRaw f n = (s.setWhole f.off f.whole (s.whole f.off f.whole % 2 ^ 48 + n), false) := by
      unfold State.bumpRaw
      exact (if_neg live).trans (if_pos hn)
    have : s.count f n = s.setWhole f.off f.whole (s.whole f.off f.whole % 2 ^ 48 + n) := by
      simp [State.count, e]
    rw [this, State.fld, hf.1, hf.2, ← bitsOf_mod _ _ _ 64 (by omega), State.whole_setWhole,
      bitsOf_mod _ _ _ 64 (by omega), hb]
    exact Nat.mod_eq_of_lt hn

end Sys2Proof.Machine
end

