-- ==== Sys2Proof/Laws/Act.lean ====
section
/-! SUPPORT. How a command acts: everything that `act` and `actAlways` can do around an effect. -/

namespace Sys2Proof.Machine

/-- The state that a command's effect starts from. -/
def State.fresh (s : State) : State := { s with out := [] }

/-- The state that a command answers whose effect takes the state that it starts from to t. -/
def State.acted (s t : State) : State :=
  { t.settle with pending := s.pending, out := s.out ++ t.settle.out, now := max s.now t.settle.now }

theorem actAlways_eq (s : State) (f : State → State) : actAlways s f = .next (s.acted (f s.fresh)) := rfl

theorem act_live (s : State) (f : State → State) (h : s.power.tripped = false) :
    act s f = .next (s.acted (f s.fresh)) := by
  unfold act
  simp only [h, Bool.false_eq_true, if_false]
  rfl

theorem act_tripped (s : State) (f : State → State) (h : s.power.tripped = true) : act s f = .next s := by
  unfold act
  simp [h]

@[simp] theorem State.fresh_out (s : State) : s.fresh.out = [] := (rfl)
@[simp] theorem State.fresh_fld (s : State) (g : Fld) : s.fresh.fld g = s.fld g := (rfl)
@[simp] theorem State.fresh_whole (s : State) (k w : Nat) : s.fresh.whole k w = s.whole k w := (rfl)
@[simp] theorem State.fresh_pending (s : State) : s.fresh.pending = s.pending := (rfl)
@[simp] theorem State.fresh_now (s : State) : s.fresh.now = s.now := (rfl)
@[simp] theorem State.fresh_boundaryAt (s : State) : s.fresh.boundaryAt = s.boundaryAt := (rfl)
@[simp] theorem State.fresh_ticking (s : State) : s.fresh.ticking = s.ticking := (rfl)
@[simp] theorem State.fresh_tickFrom (s : State) : s.fresh.tickFrom = s.tickFrom := (rfl)
@[simp] theorem State.fresh_tickEvent (s : State) : s.fresh.tickEvent = s.tickEvent := (rfl)
@[simp] theorem State.fresh_srcWritten (s : State) : s.fresh.srcWritten = s.srcWritten := (rfl)
@[simp] theorem State.fresh_missed (s : State) : s.fresh.missed = s.missed := (rfl)
@[simp] theorem State.fresh_phaseAct (s : State) : s.fresh.phaseAct = s.phaseAct := (rfl)
@[simp] theorem State.fresh_slewing (s : State) : s.fresh.slewing = s.slewing := (rfl)
@[simp] theorem State.fresh_gapSeen (s : State) : s.fresh.gapSeen = s.gapSeen := (rfl)
@[simp] theorem State.fresh_lastEnd (s : State) : s.fresh.lastEnd = s.lastEnd := (rfl)
@[simp] theorem State.fresh_runStart (s : State) : s.fresh.runStart = s.runStart := (rfl)
@[simp] theorem State.fresh_runCycle (s : State) : s.fresh.runCycle = s.runCycle := (rfl)
@[simp] theorem State.fresh_freeCount (s : State) : s.fresh.freeCount = s.freeCount := (rfl)
@[simp] theorem State.fresh_services (s : State) : s.fresh.services = s.services := (rfl)
@[simp] theorem State.fresh_staged (s : State) : s.fresh.staged = s.staged := (rfl)
@[simp] theorem State.fresh_modelEpoch (s : State) : s.fresh.modelEpoch = s.modelEpoch := (rfl)
@[simp] theorem State.fresh_configEpoch (s : State) : s.fresh.configEpoch = s.configEpoch := (rfl)
@[simp] theorem State.fresh_tiles (s : State) : s.fresh.tiles = s.tiles := (rfl)
@[simp] theorem State.fresh_clusters (s : State) : s.fresh.clusters = s.clusters := (rfl)
@[simp] theorem State.fresh_barriers (s : State) : s.fresh.barriers = s.barriers := (rfl)
@[simp] theorem State.fresh_deferred (s : State) : s.fresh.deferred = s.deferred := (rfl)
@[simp] theorem State.fresh_nv (s : State) : s.fresh.nv = s.nv := (rfl)
@[simp] theorem State.fresh_mem (s : State) : s.fresh.mem = s.mem := (rfl)
@[simp] theorem State.fresh_intake (s : State) : s.fresh.intake = s.intake := (rfl)
@[simp] theorem State.fresh_hif (s : State) : s.fresh.hif = s.hif := (rfl)
@[simp] theorem State.fresh_consort (s : State) : s.fresh.consort = s.consort := (rfl)
@[simp] theorem State.fresh_cores (s : State) : s.fresh.cores = s.cores := (rfl)
@[simp] theorem State.fresh_spp (s : State) : s.fresh.spp = s.spp := (rfl)
@[simp] theorem State.fresh_power (s : State) : s.fresh.power = s.power := (rfl)
@[simp] theorem State.fresh_boot (s : State) : s.fresh.boot = s.boot := (rfl)
@[simp] theorem State.fresh_log (s : State) : s.fresh.log = s.log := (rfl)
@[simp] theorem State.fresh_regs (s : State) : s.fresh.regs = s.regs := (rfl)

@[simp] theorem State.settle_boundaryAt (s : State) : s.settle.boundaryAt = s.boundaryAt :=
  (congrArg State.boundaryAt s.settle_does.rest :)
@[simp] theorem State.settle_ticking (s : State) : s.settle.ticking = s.ticking :=
  (congrArg State.ticking s.settle_does.rest :)
@[simp] theorem State.settle_tickFrom (s : State) : s.settle.tickFrom = s.tickFrom :=
  (congrArg State.tickFrom s.settle_does.rest :)
@[simp] theorem State.settle_tickEvent (s : State) : s.settle.tickEvent = s.tickEvent :=
  (congrArg State.tickEvent s.settle_does.rest :)
@[simp] theorem State.settle_srcWritten (s : State) : s.settle.srcWritten = s.srcWritten :=
  (congrArg State.srcWritten s.settle_does.rest :)
@[simp] theorem State.settle_missed (s : State) : s.settle.missed = s.missed :=
  (congrArg State.missed s.settle_does.rest :)
@[simp] theorem State.settle_phaseAct (s : State) : s.settle.phaseAct = s.phaseAct :=
  (congrArg State.phaseAct s.settle_does.rest :)
@[simp] theorem State.settle_slewing (s : State) : s.settle.slewing = s.slewing :=
  (congrArg State.slewing s.settle_does.rest :)
@[simp] theorem State.settle_gapSeen (s : State) : s.settle.gapSeen = s.gapSeen :=
  (congrArg State.gapSeen s.settle_does.rest :)
@[simp] theorem State.settle_lastEnd (s : State) : s.settle.lastEnd = s.lastEnd :=
  (congrArg State.lastEnd s.settle_does.rest :)
@[simp] theorem State.settle_runStart (s : State) : s.settle.runStart = s.runStart :=
  (congrArg State.runStart s.settle_does.rest :)
@[simp] theorem State.settle_runCycle (s : State) : s.settle.runCycle = s.runCycle :=
  (congrArg State.runCycle s.settle_does.rest :)
@[simp] theorem State.settle_freeCount (s : State) : s.settle.freeCount = s.freeCount :=
  (congrArg State.freeCount s.settle_does.rest :)
@[simp] theorem State.settle_services (s : State) : s.settle.services = s.services :=
  (congrArg State.services s.settle_does.rest :)
@[simp] theorem State.settle_staged (s : State) : s.settle.staged = s.staged :=
  (congrArg State.staged s.settle_does.rest :)
@[simp] theorem State.settle_modelEpoch (s : State) : s.settle.modelEpoch = s.modelEpoch :=
  (congrArg State.modelEpoch s.settle_does.rest :)
@[simp] theorem State.settle_configEpoch (s : State) : s.settle.configEpoch = s.configEpoch :=
  (congrArg State.configEpoch s.settle_does.rest :)
@[simp] theorem State.settle_tiles (s : State) : s.settle.tiles = s.tiles :=
  (congrArg State.tiles s.settle_does.rest :)
@[simp] theorem State.settle_clusters (s : State) : s.settle.clusters = s.clusters :=
  (congrArg State.clusters s.settle_does.rest :)
@[simp] theorem State.settle_barriers (s : State) : s.settle.barriers = s.barriers :=
  (congrArg State.barriers s.settle_does.rest :)
@[simp] theorem State.settle_deferred (s : State) : s.settle.deferred = s.deferred :=
  (congrArg State.deferred s.settle_does.rest :)
@[simp] theorem State.settle_nv (s : State) : s.settle.nv = s.nv :=
  (congrArg State.nv s.settle_does.rest :)
@[simp] theorem State.settle_mem (s : State) : s.settle.mem = s.mem :=
  (congrArg State.mem s.settle_does.rest :)
@[simp] theorem State.settle_intake (s : State) : s.settle.intake = s.intake :=
  (congrArg State.intake s.settle_does.rest :)
@[simp] theorem State.settle_consort (s : State) : s.settle.consort = s.consort :=
  (congrArg State.consort s.settle_does.rest :)
@[simp] theorem State.settle_cores (s : State) : s.settle.cores = s.cores :=
  (congrArg State.cores s.settle_does.rest :)
@[simp] theorem State.settle_spp (s : State) : s.settle.spp = s.spp :=
  (congrArg State.spp s.settle_does.rest :)
@[simp] theorem State.settle_power (s : State) : s.settle.power = s.power :=
  (congrArg State.power s.settle_does.rest :)
@[simp] theorem State.settle_boot (s : State) : s.settle.boot = s.boot :=
  (congrArg State.boot s.settle_does.rest :)
@[simp] theorem State.settle_now (s : State) : s.settle.now = s.now := (congrArg State.now s.settle_does.rest :)
@[simp] theorem State.settle_hif_cmdRings (s : State) : s.settle.hif.cmdRings = s.hif.cmdRings :=
  (congrArg (fun x : State => x.hif.cmdRings) s.settle_does.rest :)
@[simp] theorem State.settle_hif_cplRings (s : State) : s.settle.hif.cplRings = s.hif.cplRings :=
  (congrArg (fun x : State => x.hif.cplRings) s.settle_does.rest :)
@[simp] theorem State.settle_hif_resRings (s : State) : s.settle.hif.resRings = s.hif.resRings :=
  (congrArg (fun x : State => x.hif.resRings) s.settle_does.rest :)
@[simp] theorem State.settle_hif_lastServed (s : State) : s.settle.hif.lastServed = s.hif.lastServed :=
  (congrArg (fun x : State => x.hif.lastServed) s.settle_does.rest :)
@[simp] theorem State.settle_hif_accepted (s : State) : s.settle.hif.accepted = s.hif.accepted :=
  (congrArg (fun x : State => x.hif.accepted) s.settle_does.rest :)
@[simp] theorem State.settle_hif_nextId (s : State) : s.settle.hif.nextId = s.hif.nextId :=
  (congrArg (fun x : State => x.hif.nextId) s.settle_does.rest :)
@[simp] theorem State.settle_hif_d3hot (s : State) : s.settle.hif.d3hot = s.hif.d3hot :=
  (congrArg (fun x : State => x.hif.d3hot) s.settle_does.rest :)
@[simp] theorem State.settle_hif_dmaPaused (s : State) : s.settle.hif.dmaPaused = s.hif.dmaPaused :=
  (congrArg (fun x : State => x.hif.dmaPaused) s.settle_does.rest :)
@[simp] theorem State.settle_hif_perst (s : State) : s.settle.hif.perst = s.hif.perst :=
  (congrArg (fun x : State => x.hif.perst) s.settle_does.rest :)
@[simp] theorem State.settle_hif_latched (s : State) : s.settle.hif.latched = s.hif.latched :=
  (congrArg (fun x : State => x.hif.latched) s.settle_does.rest :)
@[simp] theorem State.settle_hif_heldLow (s : State) : s.settle.hif.heldLow = s.hif.heldLow :=
  (congrArg (fun x : State => x.hif.heldLow) s.settle_does.rest :)
@[simp] theorem State.settle_hif_emuCount (s : State) : s.settle.hif.emuCount = s.hif.emuCount :=
  (congrArg (fun x : State => x.hif.emuCount) s.settle_does.rest :)
@[simp] theorem State.settle_hif_heldRecords (s : State) : s.settle.hif.heldRecords = s.hif.heldRecords :=
  (congrArg (fun x : State => x.hif.heldRecords) s.settle_does.rest :)
@[simp] theorem State.settle_group (s : State) : s.settle.log.group = [] := s.settle_does.group

theorem State.settle_look (s : State) (k : Nat) (h : k ∉ eventKeys) : Tab.look s.settle.regs k = Tab.look s.regs k :=
  s.settle_does.regs k h

theorem State.settle_out (s : State) : ∃ l, s.settle.out = s.out ++ l := s.settle_does.out

@[simp] theorem State.acted_boundaryAt (s t : State) : (s.acted t).boundaryAt = t.boundaryAt := t.settle_boundaryAt
@[simp] theorem State.acted_ticking (s t : State) : (s.acted t).ticking = t.ticking := t.settle_ticking
@[simp] theorem State.acted_tickFrom (s t : State) : (s.acted t).tickFrom = t.tickFrom := t.settle_tickFrom
@[simp] theorem State.acted_tickEvent (s t : State) : (s.acted t).tickEvent = t.tickEvent := t.settle_tickEvent
@[simp] theorem State.acted_srcWritten (s t : State) : (s.acted t).srcWritten = t.srcWritten := t.settle_srcWritten
@[simp] theorem State.acted_missed (s t : State) : (s.acted t).missed = t.missed := t.settle_missed
@[simp] theorem State.acted_phaseAct (s t : State) : (s.acted t).phaseAct = t.phaseAct := t.settle_phaseAct
@[simp] theorem State.acted_slewing (s t : State) : (s.acted t).slewing = t.slewing := t.settle_slewing
@[simp] theorem State.acted_gapSeen (s t : State) : (s.acted t).gapSeen = t.gapSeen := t.settle_gapSeen
@[simp] theorem State.acted_lastEnd (s t : State) : (s.acted t).lastEnd = t.lastEnd := t.settle_lastEnd
@[simp] theorem State.acted_runStart (s t : State) : (s.acted t).runStart = t.runStart := t.settle_runStart
@[simp] theorem State.acted_runCycle (s t : State) : (s.acted t).runCycle = t.runCycle := t.settle_runCycle
@[simp] theorem State.acted_freeCount (s t : State) : (s.acted t).freeCount = t.freeCount := t.settle_freeCount
@[simp] theorem State.acted_services (s t : State) : (s.acted t).services = t.services := t.settle_services
@[simp] theorem State.acted_staged (s t : State) : (s.acted t).staged = t.staged := t.settle_staged
@[simp] theorem State.acted_modelEpoch (s t : State) : (s.acted t).modelEpoch = t.modelEpoch := t.settle_modelEpoch
@[simp] theorem State.acted_configEpoch (s t : State) : (s.acted t).configEpoch = t.configEpoch := t.settle_configEpoch
@[simp] theorem State.acted_tiles (s t : State) : (s.acted t).tiles = t.tiles := t.settle_tiles
@[simp] theorem State.acted_clusters (s t : State) : (s.acted t).clusters = t.clusters := t.settle_clusters
@[simp] theorem State.acted_barriers (s t : State) : (s.acted t).barriers = t.barriers := t.settle_barriers
@[simp] theorem State.acted_deferred (s t : State) : (s.acted t).deferred = t.deferred := t.settle_deferred
@[simp] theorem State.acted_nv (s t : State) : (s.acted t).nv = t.nv := t.settle_nv
@[simp] theorem State.acted_mem (s t : State) : (s.acted t).mem = t.mem := t.settle_mem
@[simp] theorem State.acted_intake (s t : State) : (s.acted t).intake = t.intake := t.settle_intake
@[simp] theorem State.acted_consort (s t : State) : (s.acted t).consort = t.consort := t.settle_consort
@[simp] theorem State.acted_cores (s t : State) : (s.acted t).cores = t.cores := t.settle_cores
@[simp] theorem State.acted_spp (s t : State) : (s.acted t).spp = t.spp := t.settle_spp
@[simp] theorem State.acted_power (s t : State) : (s.acted t).power = t.power := t.settle_power
@[simp] theorem State.acted_boot (s t : State) : (s.acted t).boot = t.boot := t.settle_boot
@[simp] theorem State.acted_hif_cmdRings (s t : State) : (s.acted t).hif.cmdRings = t.hif.cmdRings := t.settle_hif_cmdRings
@[simp] theorem State.acted_hif_cplRings (s t : State) : (s.acted t).hif.cplRings = t.hif.cplRings := t.settle_hif_cplRings
@[simp] theorem State.acted_hif_resRings (s t : State) : (s.acted t).hif.resRings = t.hif.resRings := t.settle_hif_resRings
@[simp] theorem State.acted_hif_lastServed (s t : State) : (s.acted t).hif.lastServed = t.hif.lastServed := t.settle_hif_lastServed
@[simp] theorem State.acted_hif_accepted (s t : State) : (s.acted t).hif.accepted = t.hif.accepted := t.settle_hif_accepted
@[simp] theorem State.acted_hif_nextId (s t : State) : (s.acted t).hif.nextId = t.hif.nextId := t.settle_hif_nextId
@[simp] theorem State.acted_hif_d3hot (s t : State) : (s.acted t).hif.d3hot = t.hif.d3hot := t.settle_hif_d3hot
@[simp] theorem State.acted_hif_dmaPaused (s t : State) : (s.acted t).hif.dmaPaused = t.hif.dmaPaused := t.settle_hif_dmaPaused
@[simp] theorem State.acted_hif_perst (s t : State) : (s.acted t).hif.perst = t.hif.perst := t.settle_hif_perst
@[simp] theorem State.acted_hif_latched (s t : State) : (s.acted t).hif.latched = t.hif.latched := t.settle_hif_latched
@[simp] theorem State.acted_hif_heldLow (s t : State) : (s.acted t).hif.heldLow = t.hif.heldLow := t.settle_hif_heldLow
@[simp] theorem State.acted_hif_emuCount (s t : State) : (s.acted t).hif.emuCount = t.hif.emuCount := t.settle_hif_emuCount
@[simp] theorem State.acted_hif_heldRecords (s t : State) : (s.acted t).hif.heldRecords = t.hif.heldRecords := t.settle_hif_heldRecords
@[simp] theorem State.acted_pending (s t : State) : (s.acted t).pending = s.pending := (rfl)
@[simp] theorem State.acted_now (s t : State) : (s.acted t).now = max s.now t.now := by
  simp [State.acted]
@[simp] theorem State.acted_group (s t : State) : (s.acted t).log.group = [] := t.settle_group

theorem State.acted_look (s t : State) (k : Nat) (h : k ∉ eventKeys) :
    Tab.look (s.acted t).regs k = Tab.look t.regs k := t.settle_look k h

/-- Registers apart from those of the event unit read as the effect left them. -/
theorem State.acted_fld (s t : State) (g : Fld) (h : g.off ∉ eventKeys) : (s.acted t).fld g = t.fld g := by
  simp only [State.fld, State.whole, s.acted_look t _ h]

/-- What the effect sent has left, after what had left before and before the messages of its events. -/
theorem State.acted_out (s t : State) : ∃ l, (s.acted t).out = s.out ++ t.out ++ l := by
  obtain ⟨l, hl⟩ := t.settle_out
  exact ⟨l, by simp [State.acted, hl, List.append_assoc]⟩

/-- Messages that the effect left pending stay pending. -/
theorem State.acted_held (s t : State) (v : Nat) (h : v ∈ t.hif.msixPending) : v ∈ (s.acted t).hif.msixPending :=
  t.settle_does.held v h

/-! ### Frames -/

theorem KeepsRegs.refl (ks : List Nat) (s : State) : KeepsRegs ks s s := fun _ _ _ => rfl

theorem KeepsRegs.trans {ks : List Nat} {s t u : State} (a : KeepsRegs ks s t) (b : KeepsRegs ks t u) : KeepsRegs ks s u :=
  fun k h h' => (b k h h').trans (a k h h')

theorem KeepsRegs.setFld {ks : List Nat} {s t : State} (a : KeepsRegs ks s t) (f : Fld) (v : Nat) (h : f.off ∈ ks) :
    KeepsRegs ks s (t.setFld f v) :=
  fun k hk hk' => (t.look_setFld_ne f v k (fun e => hk (e ▸ h))).trans (a k hk hk')

theorem KeepsRegs.flag {ks : List Nat} {s t : State} (a : KeepsRegs ks s t) (f : Fld) (h : f.off ∈ ks) :
    KeepsRegs ks s (t.flag f) :=
  fun k hk hk' => (t.flag_look f k).trans (a.setFld f 1 h k hk hk')

theorem KeepsRegs.count {ks : List Nat} {s t : State} (a : KeepsRegs ks s t) (f : Fld) (n : Nat) (h : f.off ∈ ks) :
    KeepsRegs ks s (t.count f n) :=
  fun k hk hk' => (t.count_look_ne f n k (fun e => hk (e ▸ h))).trans (a k hk hk')

theorem KeepsRegs.acted {ks : List Nat} {s t : State} (a : KeepsRegs ks s.fresh t) : KeepsRegs ks s (s.acted t) :=
  fun k hk hk' => (s.acted_look t k hk').trans (a k hk hk')

theorem KeepsRest.refl (s : State) : KeepsRest s s := rfl

theorem KeepsRest.acted {s t : State} (a : KeepsRest s t) : KeepsRest s (s.acted t) := by
  have h : restOf s (s.acted t) = { restOf s t with pending := s.pending } :=
    congrArg (fun x : State => { restOf s x with pending := s.pending }) t.settle_does.rest
  have e : ({ restOf s t with pending := s.pending } : State) = s := congrArg (fun x : State => { x with pending := s.pending }) a
  exact h.trans e

/-- A state is another's, apart from the time and from what raising events and messages changes. -/
def Like (s' u : State) : Prop := KeepsRest s' u ∧ KeepsRegs [] s' u

theorem Like.refl (s : State) : Like s s := ⟨rfl, KeepsRegs.refl _ _⟩
theorem Like.fresh (s : State) : Like s s.fresh := ⟨rfl, KeepsRegs.refl _ _⟩
theorem Like.emit {s u : State} (h : Like s u) (o : Out) : Like s (u.emit o) := h
theorem Like.event {s u : State} (h : Like s u) (a b c : Nat) (d : Bytes) : Like s (u.event a b c d) := h
theorem Like.upTo {s u : State} (h : Like s u) (n : Nat) : Like s (u.upTo n) := h

theorem Like.flagWith {s u : State} {f : Fld} (h : Like s (u.setFld f 1)) (d : Bytes) : Like s (u.flagWith f d) := by
  unfold State.flagWith
  simp only
  split
  · exact h
  · exact h

theorem Like.flag {s u : State} {f : Fld} (h : Like s (u.setFld f 1)) : Like s (u.flag f) := Like.flagWith h _

theorem Like.accessError {s u : State} (h : Like s u) (a b c : Nat) (x y : Bool) : Like s (u.accessError a b c x y) := by
  unfold State.accessError
  split
  · exact h
  · exact h

theorem Like.signal {s u : State} (h : Like s u) (v : Nat) : Like s (u.signal v) := by
  unfold State.signal
  split
  · exact h
  · exact h

theorem Like.dma {s u : State} (h : Like s u) (a : Nat) (b : Bytes) : Like s (u.dma a b) := by
  unfold State.dma
  split
  · exact h
  · exact h

theorem Like.acted {s u s' : State} (h : Like s' u) (hp : s'.pending = s.pending) : Like s' (s.acted u) := by
  refine ⟨?_, fun k hk hk' => (s.acted_look u k hk').trans (h.2 k hk hk')⟩
  have e : restOf s' (s.acted u) = { restOf s' u with pending := s.pending } :=
    congrArg (fun x : State => { restOf s' x with pending := s.pending }) u.settle_does.rest
  have a : restOf s' u = s' := h.1
  rw [KeepsRest, e, a, ← hp]

/-- What an effect has to show for a command to give a state. -/
theorem Gives.of_act {c : Instr} {s s' : State} {f : State → State} (he : exec c s = act s f)
    (hl : s.power.tripped = false) (h : Like s' (f s.fresh)) (hp : s'.pending = s.pending) : Gives c s s' :=
  ⟨s.acted (f s.fresh), he.trans (act_live s f hl), h.acted hp⟩

theorem Gives.of_always {c : Instr} {s s' : State} {f : State → State} (he : exec c s = actAlways s f)
    (h : Like s' (f s.fresh)) (hp : s'.pending = s.pending) : Gives c s s' :=
  ⟨s.acted (f s.fresh), he.trans (actAlways_eq s f), h.acted hp⟩

theorem hostAct_reaches (s : State) (off : Nat) (f : State → State) (h : Reaches s off) :
    hostAct off s f = .next (s.acted (f s.fresh)) := by
  obtain ⟨a, b, c, d⟩ := h
  have e : s.fresh.hostWrite off f = f s.fresh := by
    unfold State.hostWrite
    have b' : s.fresh.delivered = true := b
    have c' : s.fresh.shows off = true := c
    have d' : s.fresh.takes off = true := d
    simp [b', c', d']
  unfold hostAct
  rw [act_live s _ a, e]

/-- The same of a host write. -/
theorem Gives.of_host {c : Instr} {s s' : State} {off : Nat} {f : State → State} (he : exec c s = hostAct off s f)
    (hl : Reaches s off) (h : Like s' (f s.fresh)) (hp : s'.pending = s.pending) : Gives c s s' :=
  ⟨s.acted (f s.fresh), he.trans (hostAct_reaches s off f hl), h.acted hp⟩

end Sys2Proof.Machine
end

