-- ==== Sys2Proof/Laws/Acts.lean ====
section
/-! SUPPORT. Every command acts by `act`, or by `actAlways` where it acts after a thermal trip as well. -/

namespace Sys2Proof.Machine

theorem exec_acts (c : Instr) (s : State) : (∃ f, exec c s = act s f) ∨ (∃ f, exec c s = actAlways s f) := by
  cases c with
  | loadProgram _ => exact .inl ⟨_, by dsimp only [exec]; unfold execLoadProgram; rfl⟩
  | bindModel => exact .inl ⟨_, by dsimp only [exec]; unfold execBindModel; rfl⟩
  | startService _ => exact .inl ⟨_, by dsimp only [exec]; unfold execStartService; rfl⟩
  | stopService => exact .inl ⟨_, by dsimp only [exec]; unfold execStopService; rfl⟩
  | submitInput => exact .inl ⟨_, by dsimp only [exec]; unfold execSubmitInput; rfl⟩
  | inputDmaDone _ => exact .inl ⟨_, by dsimp only [exec]; unfold execInputDmaDone; rfl⟩
  | nvProgram _ => exact .inl ⟨_, by dsimp only [exec]; unfold execNvProgram; rfl⟩
  | nvErase => exact .inl ⟨_, by dsimp only [exec]; unfold execNvErase; rfl⟩
  | modelSwap => exact .inl ⟨_, by dsimp only [exec]; unfold execModelSwap; rfl⟩
  | scrub _ _ => exact .inl ⟨_, by dsimp only [exec]; unfold execScrub; rfl⟩
  | fill => exact .inl ⟨_, by dsimp only [exec]; unfold execFill; rfl⟩
  | fwStage _ => exact .inl ⟨_, by dsimp only [exec]; unfold execFwStage; rfl⟩
  | fwActivate => exact .inl ⟨_, by dsimp only [exec]; unfold execFwActivate; rfl⟩
  | attest => exact .inl ⟨_, by dsimp only [exec]; unfold execAttest; rfl⟩
  | configEpoch _ => exact .inl ⟨_, by dsimp only [exec]; unfold execConfigEpoch; rfl⟩
  | query _ => exact .inl ⟨_, by dsimp only [exec]; unfold execQuery; rfl⟩
  | cancel => exact .inl ⟨_, by dsimp only [exec]; unfold execCancel; rfl⟩
  | dblCmdTail _ _ => exact .inl ⟨_, by dsimp only [exec]; unfold execDblCmdTail hostAct; rfl⟩
  | dblCplHead _ _ => exact .inl ⟨_, by dsimp only [exec]; unfold execDblCplHead hostAct; rfl⟩
  | dblResHead _ _ => exact .inl ⟨_, by dsimp only [exec]; unfold execDblResHead hostAct; rfl⟩
  | commandAccept _ => exact .inl ⟨_, by dsimp only [exec]; unfold execCommandAccept; rfl⟩
  | commandComplete _ => exact .inl ⟨_, by dsimp only [exec]; unfold execCommandComplete; rfl⟩
  | coalesceTimeout _ _ => exact .inl ⟨_, by dsimp only [exec]; unfold execCoalesceTimeout; rfl⟩
  | tilMemRead _ => exact .inl ⟨_, by dsimp only [exec]; unfold execTilMemRead hostAct; rfl⟩
  | tilMemWrite _ => exact .inl ⟨_, by dsimp only [exec]; unfold execTilMemWrite hostAct; rfl⟩
  | tilMemAccessDone _ => exact .inl ⟨_, by dsimp only [exec]; unfold execTilMemAccessDone; rfl⟩
  | tilInval _ => exact .inl ⟨_, by dsimp only [exec]; unfold execTilInval hostAct; rfl⟩
  | bulkInvalidateDone _ => exact .inl ⟨_, by dsimp only [exec]; unfold execBulkInvalidateDone; rfl⟩
  | slackRst _ => exact .inl ⟨_, by dsimp only [exec]; unfold execSlackRst hostAct; rfl⟩
  | tckPeriodWrite _ => exact .inl ⟨_, by dsimp only [exec]; unfold execTckPeriodWrite hostAct; rfl⟩
  | tckSrcWrite _ => exact .inl ⟨_, by dsimp only [exec]; unfold execTckSrcWrite hostAct; rfl⟩
  | tckPhaseWrite _ => exact .inl ⟨_, by dsimp only [exec]; unfold execTckPhaseWrite hostAct; rfl⟩
  | tckTickinWrite _ => exact .inl ⟨_, by dsimp only [exec]; unfold execTckTickinWrite hostAct; rfl⟩
  | nvsPageRead => exact .inl ⟨_, by dsimp only [exec]; unfold execNvsPageRead hostAct; rfl⟩
  | nvsPageReadDone _ => exact .inl ⟨_, by dsimp only [exec]; unfold execNvsPageReadDone; rfl⟩
  | cmpTabLoad _ => exact .inl ⟨_, by dsimp only [exec]; unfold execCmpTabLoad hostAct; rfl⟩
  | cmpTabClear _ => exact .inl ⟨_, by dsimp only [exec]; unfold execCmpTabClear hostAct; rfl⟩
  | cmpTabApply => exact .inl ⟨_, by dsimp only [exec]; unfold execCmpTabApply; rfl⟩
  | cmpRegionWrite _ _ => exact .inl ⟨_, by dsimp only [exec]; unfold execCmpRegionWrite hostAct; rfl⟩
  | memPoolSettingWrite _ _ => exact .inl ⟨_, by dsimp only [exec]; unfold execMemPoolSettingWrite hostAct; rfl⟩
  | memPoolEnWrite _ => exact .inl ⟨_, by dsimp only [exec]; unfold execMemPoolEnWrite hostAct; rfl⟩
  | hifRingEnable _ => exact .inl ⟨_, by dsimp only [exec]; unfold execHifRingEnable hostAct; rfl⟩
  | hifRingDisable _ => exact .inl ⟨_, by dsimp only [exec]; unfold execHifRingDisable hostAct; rfl⟩
  | ringDisableDone _ => exact .inl ⟨_, by dsimp only [exec]; unfold execRingDisableDone; rfl⟩
  | hifBar4BaseWrite _ => exact .inl ⟨_, by dsimp only [exec]; unfold execHifBar4BaseWrite hostAct; rfl⟩
  | hifEmuEnWrite _ => exact .inl ⟨_, by dsimp only [exec]; unfold execHifEmuEnWrite hostAct; rfl⟩
  | secBootGo => exact .inl ⟨_, by dsimp only [exec]; unfold execSecBootGo hostAct; rfl⟩
  | hostedLoadDone _ => exact .inl ⟨_, by dsimp only [exec]; unfold execHostedLoadDone; rfl⟩
  | sppScmdGo => exact .inl ⟨_, by dsimp only [exec]; unfold execSppScmdGo hostAct; rfl⟩
  | signedCommandChecked => exact .inl ⟨_, by dsimp only [exec]; unfold execSignedCommandChecked; rfl⟩
  | sppSpiRead _ _ => exact .inl ⟨_, by dsimp only [exec]; unfold execSppSpiRead; rfl⟩
  | sppSpiWrite _ _ => exact .inl ⟨_, by dsimp only [exec]; unfold execSppSpiWrite; rfl⟩
  | sppSpiCommit _ _ => exact .inl ⟨_, by dsimp only [exec]; unfold execSppSpiCommit; rfl⟩
  | sppSpiAbort _ _ => exact .inl ⟨_, by dsimp only [exec]; unfold execSppSpiAbort; rfl⟩
  | sppSpiStatus _ _ => exact .inl ⟨_, by dsimp only [exec]; unfold execSppSpiStatus; rfl⟩
  | cnsLeave _ => exact .inl ⟨_, by dsimp only [exec]; unfold execCnsLeave hostAct; rfl⟩
  | cnsEnWrite _ => exact .inl ⟨_, by dsimp only [exec]; unfold execCnsEnWrite hostAct; rfl⟩
  | form _ => exact .inl ⟨_, by dsimp only [exec]; unfold execForm hostAct; rfl⟩
  | dissolve _ => exact .inl ⟨_, by dsimp only [exec]; unfold execDissolve hostAct; rfl⟩
  | cnsPlanWrite _ _ => exact .inl ⟨_, by dsimp only [exec]; unfold execCnsPlanWrite hostAct; rfl⟩
  | envReqWrite _ => exact .inl ⟨_, by dsimp only [exec]; unfold execEnvReqWrite hostAct; rfl⟩
  | sleepReqRest => exact .inl ⟨_, by dsimp only [exec]; unfold execSleepReqRest hostAct; rfl⟩
  | sleepReqPizzicato => exact .inl ⟨_, by dsimp only [exec]; unfold execSleepReqPizzicato hostAct; rfl⟩
  | pwrWakeGo => exact .inl ⟨_, by dsimp only [exec]; unfold execPwrWakeGo hostAct; rfl⟩
  | padRelease => exact .inl ⟨_, by dsimp only [exec]; unfold execPadRelease hostAct; rfl⟩
  | provision => exact .inl ⟨_, by dsimp only [exec]; unfold execProvision hostAct; rfl⟩
  | svnCommit => exact .inl ⟨_, by dsimp only [exec]; unfold execSvnCommit hostAct; rfl⟩
  | deviceResetRequest _ => exact .inl ⟨_, by dsimp only [exec]; unfold execDeviceResetRequest hostAct; rfl⟩
  | evtLogRdWrite _ => exact .inl ⟨_, by dsimp only [exec]; unfold execEvtLogRdWrite hostAct; rfl⟩
  | vidStreamCtlWrite _ => exact .inl ⟨_, by dsimp only [exec]; unfold execVidStreamCtlWrite hostAct; rfl⟩
  | vidEncCtlWrite _ => exact .inl ⟨_, by dsimp only [exec]; unfold execVidEncCtlWrite hostAct; rfl⟩
  | vidMemWrite _ _ => exact .inl ⟨_, by dsimp only [exec]; unfold execVidMemWrite hostAct; rfl⟩
  | intPortCtlWrite _ _ => exact .inl ⟨_, by dsimp only [exec]; unfold execIntPortCtlWrite hostAct; rfl⟩
  | counterSatClear _ => exact .inl ⟨_, by dsimp only [exec]; unfold execCounterSatClear; rfl⟩
  | registerWrite _ _ _ => exact .inl ⟨_, by dsimp only [exec]; unfold execRegisterWrite; rfl⟩
  | reg64LowHalfRead _ => exact .inl ⟨_, by dsimp only [exec]; unfold execReg64LowHalfRead; rfl⟩
  | reg64LowHalfWrite _ _ => exact .inl ⟨_, by dsimp only [exec]; unfold execReg64LowHalfWrite; rfl⟩
  | partialByteWrite _ => exact .inl ⟨_, by dsimp only [exec]; unfold execPartialByteWrite; rfl⟩
  | unmappedAccess _ _ => exact .inl ⟨_, by dsimp only [exec]; unfold execUnmappedAccess; rfl⟩
  | bar4Read _ _ => exact .inl ⟨_, by dsimp only [exec]; unfold execBar4Read; rfl⟩
  | bar4Write _ _ => exact .inl ⟨_, by dsimp only [exec]; unfold execBar4Write; rfl⟩
  | bar2Read _ => exact .inl ⟨_, by dsimp only [exec]; unfold execBar2Read; rfl⟩
  | bar2Write _ _ => exact .inl ⟨_, by dsimp only [exec]; unfold execBar2Write; rfl⟩
  | smbusAddr _ _ => exact .inl ⟨_, by dsimp only [exec]; unfold execSmbusAddr; rfl⟩
  | smbusRead => exact .inl ⟨_, by dsimp only [exec]; unfold execSmbusRead; rfl⟩
  | smbusWrite _ _ _ => exact .inl ⟨_, by dsimp only [exec]; unfold execSmbusWrite; rfl⟩
  | smbusClockTimeout => exact .inl ⟨_, by dsimp only [exec]; unfold execSmbusClockTimeout; rfl⟩
  | bypass => exact .inr ⟨_, by dsimp only [exec]; unfold execBypass; rfl⟩
  | idcode => exact .inr ⟨_, by dsimp only [exec]; unfold execIdcode; rfl⟩
  | samplePreload => exact .inr ⟨_, by dsimp only [exec]; unfold execSamplePreload; rfl⟩
  | extest => exact .inr ⟨_, by dsimp only [exec]; unfold execExtest; rfl⟩
  | clamp => exact .inr ⟨_, by dsimp only [exec]; unfold execClamp; rfl⟩
  | highz => exact .inr ⟨_, by dsimp only [exec]; unfold execHighz; rfl⟩
  | jtagReset => exact .inr ⟨_, by dsimp only [exec]; unfold execJtagReset; rfl⟩
  | tickBoundary _ _ _ => exact .inl ⟨_, by dsimp only [exec]; unfold execTickBoundary; rfl⟩
  | sleepEntry => exact .inl ⟨_, by dsimp only [exec]; unfold execSleepEntry; rfl⟩
  | tickInEdge _ => exact .inl ⟨_, by dsimp only [exec]; unfold execTickInEdge; rfl⟩
  | tickInTimeout => exact .inl ⟨_, by dsimp only [exec]; unfold execTickInTimeout; rfl⟩
  | boundaryGap => exact .inl ⟨_, by dsimp only [exec]; unfold execBoundaryGap; rfl⟩
  | nop _ => exact .inl ⟨_, by dsimp only [exec]; unfold execNop; rfl⟩
  | lka _ => exact .inl ⟨_, by dsimp only [exec]; unfold execLka; rfl⟩
  | vec _ => exact .inl ⟨_, by dsimp only [exec]; unfold execVec; rfl⟩
  | ftab _ => exact .inl ⟨_, by dsimp only [exec]; unfold execFtab; rfl⟩
  | xfer _ _ => exact .inl ⟨_, by dsimp only [exec]; unfold execXfer; rfl⟩
  | gather _ => exact .inl ⟨_, by dsimp only [exec]; unfold execGather; rfl⟩
  | slabFill _ => exact .inl ⟨_, by dsimp only [exec]; unfold execSlabFill; rfl⟩
  | hand _ _ => exact .inl ⟨_, by dsimp only [exec]; unfold execHand; rfl⟩
  | stage _ => exact .inl ⟨_, by dsimp only [exec]; unfold execStage; rfl⟩
  | bar _ => exact .inl ⟨_, by dsimp only [exec]; unfold execBar; rfl⟩
  | barrierComplete _ => exact .inl ⟨_, by dsimp only [exec]; unfold execBarrierComplete; rfl⟩
  | sem _ => exact .inl ⟨_, by dsimp only [exec]; unfold execSem; rfl⟩
  | semaphoreWaitEnd _ => exact .inl ⟨_, by dsimp only [exec]; unfold execSemaphoreWaitEnd; rfl⟩
  | evt _ => exact .inl ⟨_, by dsimp only [exec]; unfold execEvt; rfl⟩
  | eventLineWaitEnd _ => exact .inl ⟨_, by dsimp only [exec]; unfold execEventLineWaitEnd; rfl⟩
  | rangeCmd _ => exact .inl ⟨_, by dsimp only [exec]; unfold execRangeCmd; rfl⟩
  | endProg _ => exact .inl ⟨_, by dsimp only [exec]; unfold execEndProg; rfl⟩
  | transferDone _ => exact .inl ⟨_, by dsimp only [exec]; unfold execTransferDone; rfl⟩
  | slabPageDelivery _ _ => exact .inl ⟨_, by dsimp only [exec]; unfold execSlabPageDelivery; rfl⟩
  | repairRound _ _ => exact .inl ⟨_, by dsimp only [exec]; unfold execRepairRound; rfl⟩
  | ptpMessage => exact .inl ⟨_, by dsimp only [exec]; unfold execPtpMessage; rfl⟩
  | ptpSyncTimeout => exact .inl ⟨_, by dsimp only [exec]; unfold execPtpSyncTimeout; rfl⟩
  | ppsInEdge => exact .inl ⟨_, by dsimp only [exec]; unfold execPpsInEdge; rfl⟩
  | ppsOutSecond => exact .inl ⟨_, by dsimp only [exec]; unfold execPpsOutSecond; rfl⟩
  | pllLockLoss _ => exact .inl ⟨_, by dsimp only [exec]; unfold execPllLockLoss; rfl⟩
  | pllRelock _ => exact .inl ⟨_, by dsimp only [exec]; unfold execPllRelock; rfl⟩
  | refclkMissing => exact .inl ⟨_, by dsimp only [exec]; unfold execRefclkMissing; rfl⟩
  | refclkReturn => exact .inl ⟨_, by dsimp only [exec]; unfold execRefclkReturn; rfl⟩
  | ethFrameRx _ _ => exact .inl ⟨_, by dsimp only [exec]; unfold execEthFrameRx; rfl⟩
  | arpRequest => exact .inl ⟨_, by dsimp only [exec]; unfold execArpRequest; rfl⟩
  | icmpEcho => exact .inl ⟨_, by dsimp only [exec]; unfold execIcmpEcho; rfl⟩
  | igmpQuery => exact .inl ⟨_, by dsimp only [exec]; unfold execIgmpQuery; rfl⟩
  | arpRefresh => exact .inl ⟨_, by dsimp only [exec]; unfold execArpRefresh; rfl⟩
  | arpExpiry => exact .inl ⟨_, by dsimp only [exec]; unfold execArpExpiry; rfl⟩
  | rtpPacket => exact .inl ⟨_, by dsimp only [exec]; unfold execRtpPacket; rfl⟩
  | ssrcRelease _ => exact .inl ⟨_, by dsimp only [exec]; unfold execSsrcRelease; rfl⟩
  | jitterTimeout _ => exact .inl ⟨_, by dsimp only [exec]; unfold execJitterTimeout; rfl⟩
  | decodeDone _ _ => exact .inl ⟨_, by dsimp only [exec]; unfold execDecodeDone; rfl⟩
  | shapeDone _ _ _ => exact .inl ⟨_, by dsimp only [exec]; unfold execShapeDone; rfl⟩
  | datagramTx _ => exact .inl ⟨_, by dsimp only [exec]; unfold execDatagramTx; rfl⟩
  | ethLinkDown _ => exact .inl ⟨_, by dsimp only [exec]; unfold execEthLinkDown; rfl⟩
  | ethLinkUp _ => exact .inl ⟨_, by dsimp only [exec]; unfold execEthLinkUp; rfl⟩
  | tokenSend => exact .inl ⟨_, by dsimp only [exec]; unfold execTokenSend; rfl⟩
  | verdict => exact .inl ⟨_, by dsimp only [exec]; unfold execVerdict; rfl⟩
  | token => exact .inl ⟨_, by dsimp only [exec]; unfold execToken; rfl⟩
  | join => exact .inl ⟨_, by dsimp only [exec]; unfold execJoin; rfl⟩
  | propose => exact .inl ⟨_, by dsimp only [exec]; unfold execPropose; rfl⟩
  | accept => exact .inl ⟨_, by dsimp only [exec]; unfold execAccept; rfl⟩
  | abortFrame => exact .inl ⟨_, by dsimp only [exec]; unfold execAbortFrame; rfl⟩
  | proposeTimeout => exact .inl ⟨_, by dsimp only [exec]; unfold execProposeTimeout; rfl⟩
  | arm => exact .inl ⟨_, by dsimp only [exec]; unfold execArm; rfl⟩
  | applyFrame => exact .inl ⟨_, by dsimp only [exec]; unfold execApplyFrame; rfl⟩
  | consortCancel => exact .inl ⟨_, by dsimp only [exec]; unfold execConsortCancel; rfl⟩
  | agreementTimeout _ => exact .inl ⟨_, by dsimp only [exec]; unfold execAgreementTimeout; rfl⟩
  | tensor => exact .inl ⟨_, by dsimp only [exec]; unfold execTensor; rfl⟩
  | tensorTx => exact .inl ⟨_, by dsimp only [exec]; unfold execTensorTx; rfl⟩
  | chainCmd => exact .inl ⟨_, by dsimp only [exec]; unfold execChainCmd; rfl⟩
  | chainData => exact .inl ⟨_, by dsimp only [exec]; unfold execChainData; rfl⟩
  | chainCredit => exact .inl ⟨_, by dsimp only [exec]; unfold execChainCredit; rfl⟩
  | chainStatus => exact .inl ⟨_, by dsimp only [exec]; unfold execChainStatus; rfl⟩
  | chainCreditTimer _ => exact .inl ⟨_, by dsimp only [exec]; unfold execChainCreditTimer; rfl⟩
  | chainResend _ => exact .inl ⟨_, by dsimp only [exec]; unfold execChainResend; rfl⟩
  | chainTimeout _ => exact .inl ⟨_, by dsimp only [exec]; unfold execChainTimeout; rfl⟩
  | knownExpiry _ => exact .inl ⟨_, by dsimp only [exec]; unfold execKnownExpiry; rfl⟩
  | watchdogExpiry _ => exact .inl ⟨_, by dsimp only [exec]; unfold execWatchdogExpiry; rfl⟩
  | coreFault _ _ => exact .inl ⟨_, by dsimp only [exec]; unfold execCoreFault; rfl⟩
  | coreRestarted _ => exact .inl ⟨_, by dsimp only [exec]; unfold execCoreRestarted; rfl⟩
  | activationReadyTimeout _ => exact .inl ⟨_, by dsimp only [exec]; unfold execActivationReadyTimeout; rfl⟩
  | emergencyClearExpiry => exact .inl ⟨_, by dsimp only [exec]; unfold execEmergencyClearExpiry; rfl⟩
  | sensorReading _ _ => exact .inl ⟨_, by dsimp only [exec]; unfold execSensorReading; rfl⟩
  | clampRelease => exact .inl ⟨_, by dsimp only [exec]; unfold execClampRelease; rfl⟩
  | avsStatusPoll _ _ => exact .inl ⟨_, by dsimp only [exec]; unfold execAvsStatusPoll; rfl⟩
  | avsWriteTimeout => exact .inl ⟨_, by dsimp only [exec]; unfold execAvsWriteTimeout; rfl⟩
  | regulatorFaultPoll _ _ => exact .inl ⟨_, by dsimp only [exec]; unfold execRegulatorFaultPoll; rfl⟩
  | pwrFailAssert => exact .inl ⟨_, by dsimp only [exec]; unfold execPwrFailAssert; rfl⟩
  | pwrFailDeassert _ => exact .inl ⟨_, by dsimp only [exec]; unfold execPwrFailDeassert; rfl⟩
  | ethWakeFrame _ _ => exact .inl ⟨_, by dsimp only [exec]; unfold execEthWakeFrame; rfl⟩
  | tickInWake _ => exact .inl ⟨_, by dsimp only [exec]; unfold execTickInWake; rfl⟩
  | d3hotEntry => exact .inl ⟨_, by dsimp only [exec]; unfold execD3hotEntry; rfl⟩
  | d0Return => exact .inl ⟨_, by dsimp only [exec]; unfold execD0Return; rfl⟩
  | wake => exact .inl ⟨_, by dsimp only [exec]; unfold execWake; rfl⟩
  | pizzicatoCycle => exact .inl ⟨_, by dsimp only [exec]; unfold execPizzicatoCycle; rfl⟩
  | idrWaitTimeout => exact .inl ⟨_, by dsimp only [exec]; unfold execIdrWaitTimeout; rfl⟩
  | retentionClockTick => exact .inl ⟨_, by dsimp only [exec]; unfold execRetentionClockTick; rfl⟩
  | tableVersionWrite => exact .inl ⟨_, by dsimp only [exec]; unfold execTableVersionWrite; rfl⟩
  | eraseBatchStart => exact .inl ⟨_, by dsimp only [exec]; unfold execEraseBatchStart; rfl⟩
  | eraseDone _ => exact .inl ⟨_, by dsimp only [exec]; unfold execEraseDone; rfl⟩
  | pageProgramStart _ _ => exact .inl ⟨_, by dsimp only [exec]; unfold execPageProgramStart; rfl⟩
  | pageProgramDone _ => exact .inl ⟨_, by dsimp only [exec]; unfold execPageProgramDone; rfl⟩
  | refreshStart _ => exact .inl ⟨_, by dsimp only [exec]; unfold execRefreshStart; rfl⟩
  | lineRepair => exact .inl ⟨_, by dsimp only [exec]; unfold execLineRepair; rfl⟩
  | poolWriteBackDone => exact .inl ⟨_, by dsimp only [exec]; unfold execPoolWriteBackDone; rfl⟩
  | poolRestoreDone _ => exact .inl ⟨_, by dsimp only [exec]; unfold execPoolRestoreDone; rfl⟩
  | poolDmaFailure => exact .inl ⟨_, by dsimp only [exec]; unfold execPoolDmaFailure; rfl⟩
  | lpddrTrainingDone _ => exact .inl ⟨_, by dsimp only [exec]; unfold execLpddrTrainingDone; rfl⟩
  | railsValid => exact .inr ⟨_, by dsimp only [exec]; unfold execRailsValid; rfl⟩
  | fuseLoadDone => exact .inl ⟨_, by dsimp only [exec]; unfold execFuseLoadDone; rfl⟩
  | porstNDeassert _ => exact .inl ⟨_, by dsimp only [exec]; unfold execPorstNDeassert; rfl⟩
  | porstNAssert => exact .inr ⟨_, by dsimp only [exec]; unfold execPorstNAssert; rfl⟩
  | railMonitorTrip _ => exact .inr ⟨_, by dsimp only [exec]; unfold execRailMonitorTrip; rfl⟩
  | configLoadDone _ _ => exact .inl ⟨_, by dsimp only [exec]; unfold execConfigLoadDone; rfl⟩
  | standaloneBootDone _ => exact .inl ⟨_, by dsimp only [exec]; unfold execStandaloneBootDone; rfl⟩
  | nvScan _ _ _ => exact .inl ⟨_, by dsimp only [exec]; unfold execNvScan; rfl⟩
  | nvScanDone => exact .inl ⟨_, by dsimp only [exec]; unfold execNvScanDone; rfl⟩
  | ready => exact .inl ⟨_, by dsimp only [exec]; unfold execReady; rfl⟩
  | pciePerstAssert => exact .inl ⟨_, by dsimp only [exec]; unfold execPciePerstAssert; rfl⟩
  | pciePerstDeassert => exact .inl ⟨_, by dsimp only [exec]; unfold execPciePerstDeassert; rfl⟩
  | functionLevelReset => exact .inl ⟨_, by dsimp only [exec]; unfold execFunctionLevelReset; rfl⟩
  | hotReset => exact .inl ⟨_, by dsimp only [exec]; unfold execHotReset; rfl⟩
  | linkDownReset => exact .inl ⟨_, by dsimp only [exec]; unfold execLinkDownReset; rfl⟩
  | pcieLinkRecovery => exact .inl ⟨_, by dsimp only [exec]; unfold execPcieLinkRecovery; rfl⟩
  | pcieLinkTrained _ _ => exact .inl ⟨_, by dsimp only [exec]; unfold execPcieLinkTrained; rfl⟩
  | pictureEncoded _ _ => exact .inl ⟨_, by dsimp only [exec]; unfold execPictureEncoded; rfl⟩
  | igmpCompatTimeout _ => exact .inl ⟨_, by dsimp only [exec]; unfold execIgmpCompatTimeout; rfl⟩
  | igmpReportTimer _ => exact .inl ⟨_, by dsimp only [exec]; unfold execIgmpReportTimer; rfl⟩
  | ptpDelayReqTimer => exact .inl ⟨_, by dsimp only [exec]; unfold execPtpDelayReqTimer; rfl⟩
  | announceReceiptTimeout _ => exact .inl ⟨_, by dsimp only [exec]; unfold execAnnounceReceiptTimeout; rfl⟩
  | zeroInitFillDone _ => exact .inl ⟨_, by dsimp only [exec]; unfold execZeroInitFillDone; rfl⟩
  | programCopyDone _ => exact .inl ⟨_, by dsimp only [exec]; unfold execProgramCopyDone; rfl⟩
  | secOperationDone _ => exact .inl ⟨_, by dsimp only [exec]; unfold execSecOperationDone; rfl⟩

end Sys2Proof.Machine
end

