-- ==== Sys2Proof/Laws/Memory.lean ====
section
/-! SUPPORT. LPDDR's bytes: a byte reads as it was last written, every other byte as before, and every memory operation keeps the
canonical form. -/

namespace Sys2Proof.Machine

/-! ### Lists of cells with rising keys -/

theorem above_iff (t : List Host.Cell) (b : Option Nat) :
    Tab.above b t = true ↔ (∀ x, b = some x → ∀ e ∈ t, x < e.1) ∧ t.Pairwise fun a c => a.1 < c.1 := by
  induction t generalizing b with
  | nil => simp [Tab.above]
  | cons e r ih =>
    obtain ⟨k, v⟩ := e
    simp only [Tab.above, Bool.and_eq_true, ih, List.pairwise_cons]
    constructor
    · rintro ⟨h1, h2, h3⟩
      have hk := h2 k rfl
      refine ⟨?_, hk, h3⟩
      intro x hx f hf
      subst hx
      have : x < k := by simpa using h1
      rcases List.mem_cons.1 hf with rfl | hf
      · exact this
      · exact Nat.lt_trans this (hk f hf)
    · rintro ⟨h1, h2, h3⟩
      refine ⟨?_, fun x hx f hf => by cases hx; exact h2 f hf, h3⟩
      cases b with
      | none => rfl
      | some x => simpa using h1 x rfl (k, v) List.mem_cons_self

theorem cells_wf_iff (t : List Host.Cell) : Tab.wf t = true ↔ t.Pairwise fun a c => a.1 < c.1 := by
  simp [Tab.wf, above_iff]

theorem mem_cellsAt (b : Bytes) (k : Nat) : ∀ e ∈ cellsAt k b, k ≤ e.1 ∧ e.1 < k + b.length := by
  induction b generalizing k with
  | nil => simp [cellsAt]
  | cons x r ih =>
    intro e he
    simp only [cellsAt, List.mem_cons] at he
    rcases he with rfl | he
    · simp
    · have := ih (k + 1) e he
      simp only [List.length_cons]
      omega

theorem cellsAt_pairwise (b : Bytes) (k : Nat) : (cellsAt k b).Pairwise fun a c => a.1 < c.1 := by
  induction b generalizing k with
  | nil => simp [cellsAt]
  | cons x r ih =>
    refine List.pairwise_cons.2 ⟨fun e he => ?_, ih (k + 1)⟩
    have := mem_cellsAt r (k + 1) e he
    show k < e.1
    omega

/-- A write of bytes keeps the keys strictly rising. -/
theorem cellsWrite_wf (c : List Host.Cell) (k : Nat) (b : Bytes) (h : Tab.wf c = true) : Tab.wf (cellsWrite c k b) = true := by
  rw [cells_wf_iff] at h ⊢
  unfold cellsWrite
  refine List.pairwise_append.2 ⟨List.pairwise_append.2 ⟨h.sublist List.filter_sublist, cellsAt_pairwise b k, ?_⟩,
    h.sublist List.filter_sublist, ?_⟩
  · intro e he f hf
    have := (List.mem_filter.1 he).2
    have := mem_cellsAt b k f hf
    simp only [decide_eq_true_eq] at *
    omega
  · intro e he f hf
    have := (List.mem_filter.1 hf).2
    simp only [decide_eq_true_eq] at *
    rcases List.mem_append.1 he with he | he
    · have := (List.mem_filter.1 he).2
      simp only [decide_eq_true_eq] at *
      omega
    · have := mem_cellsAt b k e he
      omega

/-! ### A read after a write -/

theorem look_append (c d : List Host.Cell) (j : Nat) :
    Tab.look (α := Byte) (c ++ d) j = (Tab.look (α := Byte) c j).or (Tab.look (α := Byte) d j) := by
  induction c with
  | nil => simp [Tab.look]
  | cons e r ih =>
    obtain ⟨k, v⟩ := e
    by_cases h : j = k
    · simp [Tab.look, h]
    · simpa [Tab.look, h] using ih

theorem look_of_not_mem (c : List Host.Cell) (j : Nat) (h : ∀ e ∈ c, e.1 ≠ j) : Tab.look (α := Byte) c j = none := by
  induction c with
  | nil => rfl
  | cons e r ih =>
    obtain ⟨k, v⟩ := e
    have hk : j ≠ k := fun x => h (k, v) List.mem_cons_self x.symm
    simp only [Tab.look, if_neg hk]
    exact ih fun f hf => h f (List.mem_cons_of_mem _ hf)

theorem look_cellsAt (b : Bytes) (k j : Nat) : Tab.look (α := Byte) (cellsAt k b) j = if k ≤ j then b[j - k]? else none := by
  induction b generalizing k with
  | nil => simp [cellsAt]
  | cons x r ih =>
    by_cases h : j = k
    · subst h
      simp [cellsAt, Tab.look]
    · simp only [cellsAt, Tab.look, if_neg h, ih]
      by_cases hk : k ≤ j
      · rw [if_pos (by omega), if_pos hk, show j - k = (j - (k + 1)) + 1 by omega, List.getElem?_cons_succ]
      · rw [if_neg (by omega), if_neg hk]

theorem look_filter (c : List Host.Cell) (p : Nat → Bool) (j : Nat) :
    Tab.look (α := Byte) (c.filter fun e => p e.1) j = if p j then Tab.look (α := Byte) c j else none := by
  induction c with
  | nil => simp [Tab.look]
  | cons e r ih =>
    obtain ⟨k, v⟩ := e
    by_cases hk : j = k
    · subst hk
      by_cases hp : p j <;> simp [Tab.look, hp, ih]
    · by_cases hp : p k <;> simp [Tab.look, hp, hk, ih]

/-- After a write a stored byte is the one written, where it lies under it, and else the one stored before. -/
theorem cellByte_cellsWrite (c : List Host.Cell) (k j : Nat) (b : Bytes) :
    cellByte (cellsWrite c k b) j = if k ≤ j ∧ j < k + b.length then b.getD (j - k) 0 else cellByte c j := by
  unfold cellByte cellsWrite
  rw [look_append, look_append, look_cellsAt, look_filter c (fun x => x < k), look_filter c (fun x => k + b.length ≤ x)]
  by_cases h1 : k ≤ j
  · by_cases h2 : j < k + b.length
    · have hl : j - k < b.length := by omega
      simp [h1, h2, List.getD_eq_getElem?_getD, List.getElem?_eq_getElem hl, Nat.not_lt.2 h1]
    · have hl : b.length ≤ j - k := by omega
      simp [h1, h2, Nat.not_lt.2 h1, Nat.not_lt.1 h2, List.getElem?_eq_none hl]
  · have h3 : ¬(k + b.length ≤ j) := by omega
    simp [h1, h3, Nat.not_le.1 h1]

/-! ### The memory operations keep the canonical form -/

theorem reset_mem_wf : State.reset.mem.wf = true := rfl

theorem storeLine_wf (m : Mem) (compat : Bool) (n a : Nat) (l : LineImg) (h : m.wf = true) : (storeLine m compat n a l).wf = true :=
  cellsWrite_wf _ _ _ (cellsWrite_wf _ _ _ (by split; exact h; exact cellsWrite_wf _ _ _ h))

theorem memWriteGo_wf (k : Nat) (s : State) (a : Nat) (ws : List MWord) (h : s.mem.wf = true) :
    (State.memWriteGo k s a ws).mem.wf = true := by
  induction k generalizing s a ws with
  | zero => exact h
  | succ k ih =>
    unfold State.memWriteGo
    split
    · exact h
    · exact ih _ _ _ (storeLine_wf _ _ _ _ _ h)

/-- A write of words keeps the canonical form. -/
theorem memWrite_wf (s : State) (a : Nat) (ws : List MWord) (h : s.mem.wf = true) : (s.memWrite a ws).mem.wf = true :=
  memWriteGo_wf _ _ _ _ h

/-! ### A read leaves the stored bytes alone -/

theorem queueRepair_cells (s : State) (a : Nat) : (s.queueRepair a).mem.cells = s.mem.cells := by
  unfold State.queueRepair
  split <;> rfl

theorem noteLpddr_cells (s : State) (a : Nat) (k : KKind) : (s.noteLpddr a k).mem.cells = s.mem.cells := by
  cases k <;> simp only [State.noteLpddr, State.memErr, queueRepair_cells, State.firstRecord_mem, State.flag_mem, State.count_mem]

theorem noteWord_cells (s : State) (a : Nat) (k : KKind) : (s.noteWord a k).mem.cells = s.mem.cells := by
  unfold State.noteWord
  split
  · split
    · simp only [State.memErr, queueRepair_cells, State.firstRecord_mem, State.flag_mem]
    · exact noteLpddr_cells s a k
  · exact noteLpddr_cells s a k

theorem noteAll_cells {α : Type} (l : List α) (f : State → α → State) (hf : ∀ s x, (f s x).mem.cells = s.mem.cells) (s : State) :
    (l.foldl f s).mem.cells = s.mem.cells := by
  induction l generalizing s with
  | nil => rfl
  | cons x l ih => exact (ih _).trans (hf _ _)

theorem readBlock_cells (s : State) (blk i n : Nat) : (s.readBlock blk i n).1.mem.cells = s.mem.cells := by
  unfold State.readBlock
  split
  · dsimp only
    have hw : ∀ (l : List (Nat × KKind × MWord)) (f : Nat × KKind × MWord → Nat) (s : State),
        (l.foldl (fun s e => s.noteWord (f e) e.2.1) s).mem.cells = s.mem.cells :=
      fun l f s => noteAll_cells l _ (fun s e => noteWord_cells s (f e) e.2.1) s
    have hs : ∀ (l : List (Nat × List (KKind × MWord) × Bool)) (s : State),
        (l.foldl (fun s x => ((List.range 4).zip x.2.1).foldl (fun s e => s.noteWord (blk + 64 * x.1 + 16 * e.1) e.2.1)
          (if x.2.2 then s.noteLpddr (blk + 64 * x.1) .corrected else s)) s).mem.cells = s.mem.cells := by
      intro l s
      refine noteAll_cells l _ (fun s x => ?_) s
      rw [hw _ fun e => blk + 64 * x.1 + 16 * e.1]
      split
      · rw [noteLpddr_cells]
      · rfl
    split
    · rw [queueRepair_cells, hs]
    · rw [hs]
  · simp only [State.memErr, State.firstRecord_mem, State.flag_mem]

/-- A read of words stores nothing. -/
theorem memRead_cells (s : State) (a n : Nat) : (s.memRead a n).1.mem.cells = s.mem.cells := by
  have h : ∀ k (s : State) a n, (State.memReadGo k s a n).1.mem.cells = s.mem.cells := by
    intro k
    induction k with
    | zero => intro s a n; rfl
    | succ k ih =>
      intro s a n
      unfold State.memReadGo
      split
      · rfl
      · exact (ih _ _ _).trans (readBlock_cells _ _ _ _)
  exact h _ _ _ _

/-- Nor does a read of bytes. -/
theorem memBytes_cells (s : State) (a n : Nat) : (s.memBytes a n).1.mem.cells = s.mem.cells := memRead_cells _ _ _

/-- A write of bytes keeps the canonical form. -/
theorem memPut_wf (s : State) (a : Nat) (b : Bytes) (h : s.mem.wf = true) : (s.memPut a b).mem.wf = true := by
  unfold State.memPut
  split
  · exact h
  · dsimp only
    split
    · exact memWrite_wf _ _ _ h
    · refine memWrite_wf _ _ _ ?_
      unfold Mem.wf
      rw [memRead_cells]
      exact h

/-- Nor does line repair break it. -/
theorem repairAt_wf (s : State) (a : Nat) (h : s.mem.wf = true) : (s.repairAt a).mem.wf = true := by
  have hw := storeLine_wf s.mem s.compat s.chBytes a
  unfold State.repairAt
  dsimp only
  split
  · exact h
  split
  · rw [State.flag_mem, State.count_mem]
    exact hw _ h
  · rw [State.memErr, State.firstRecord_mem, State.flag_mem]
    exact hw _ h

end Sys2Proof.Machine
end

