-- ==== Sys2Proof/Laws/Data.lean ====
section
/-! SUPPORT. The data bytes of LPDDR: lines, check records and zero ends lie apart, a line read holds the bytes stored, and a
write of words changes the bytes under them and no other byte of usable memory. -/

namespace Sys2Proof

@[simp] theorem leBytes_length (n v : Nat) : (leBytes n v).length = n := by
  induction n generalizing v with
  | zero => rfl
  | succ n ih => simp [leBytes, ih]

theorem leNat_lt (b : Bytes) : leNat b < 2 ^ (8 * b.length) := by
  induction b with
  | nil => simp [leNat]
  | cons x r ih =>
    have := x.isLt
    have e : 2 ^ (8 * (r.length + 1)) = 256 * 2 ^ (8 * r.length) := by
      rw [show 8 * (r.length + 1) = 8 * r.length + 8 from rfl, Nat.pow_add, Nat.mul_comm]
    simp only [leNat, List.length_cons, e]
    omega

/-- The bytes of the number that bytes spell are those bytes. -/
theorem leBytes_leNat (b : Bytes) : leBytes b.length (leNat b) = b := by
  induction b with
  | nil => rfl
  | cons x r ih =>
    have h := x.isLt
    have h8 : (x.toNat + 256 * leNat r) >>> 8 = leNat r := by
      rw [Nat.shiftRight_eq_div_pow]; omega
    have hx : BitVec.ofNat 8 (x.toNat + 256 * leNat r) = x := by
      apply BitVec.eq_of_toNat_eq
      rw [BitVec.toNat_ofNat]; omega
    simp only [List.length_cons, leBytes, leNat, h8, hx, ih]

/-- The bytes of the word that 16 bytes spell are those bytes. -/
theorem bytes128_ofBytes (b : Bytes) (h : b.length = 16) : bytes128 (BitVec.ofNat 128 (leNat b)) = b := by
  have hl := leNat_lt b
  rw [h] at hl
  have hb := leBytes_leNat b
  rw [h] at hb
  unfold bytes128
  rw [BitVec.toNat_ofNat, Nat.mod_eq_of_lt hl, hb]

@[simp] theorem bytes128_length (w : QWord) : (bytes128 w).length = 16 := leBytes_length _ _

@[simp] theorem words128Go_length (n : Nat) (b : Bytes) : (words128Go n b).length = n := by
  induction n generalizing b with
  | zero => rfl
  | succ n ih => simp [words128Go, ih]

/-- A byte of a run of words lies in the word that its place names. -/
theorem getElem?_flatMap_bytes128 (ws : List QWord) (k : Nat) :
    (ws.flatMap bytes128)[k]? = (ws[k / 16]?).bind fun w => (bytes128 w)[k % 16]? := by
  induction ws generalizing k with
  | nil => simp
  | cons w r ih =>
    rw [List.flatMap_cons, List.getElem?_append, bytes128_length]
    by_cases h : k < 16
    · have h0 : k / 16 = 0 := by omega
      have h1 : k % 16 = k := by omega
      simp [h, h0, h1]
    · have h0 : k / 16 = (k - 16) / 16 + 1 := by omega
      have h1 : (k - 16) % 16 = k % 16 := by omega
      rw [if_neg h, ih, h0, h1, List.getElem?_cons_succ]

/-- Bytes cut into words are those words' bytes. -/
theorem flatMap_words128Go (n : Nat) (b : Bytes) (h : b.length = 16 * n) : (words128Go n b).flatMap bytes128 = b := by
  induction n generalizing b with
  | zero =>
    have : b = [] := List.length_eq_zero_iff.1 (by omega)
    simp [words128Go, this]
  | succ n ih =>
    have h1 : (b.take 16).length = 16 := by rw [List.length_take]; omega
    have h2 : (b.drop 16).length = 16 * n := by rw [List.length_drop]; omega
    rw [words128Go, List.flatMap_cons, ih _ h2, bytes128_ofBytes _ h1, List.take_append_drop]

namespace Machine

/-! ### Lines lie apart -/

/-- Keys of two channels lie apart, and within one they lie apart as their offsets do. -/
theorem key_apart (c c' o o' m : Nat) (ho : o < 2 ^ 34) (ho' : o' + m ≤ 2 ^ 34) (h : c = c' → o < o' ∨ o' + m ≤ o) :
    c * 2 ^ 34 + o < c' * 2 ^ 34 + o' ∨ c' * 2 ^ 34 + o' + m ≤ c * 2 ^ 34 + o := by
  rcases Nat.lt_trichotomy c c' with x | x | x
  · left; omega
  · have := h x; omega
  · right; omega

/-- The data of a usable line lie apart from every other line's. -/
theorem line_apart (c : Bool) (d x y : Nat) (hd : d < 16) (hx : x < d * 2 ^ 30 * 8 / 16 * 15)
    (hy : y < d * 2 ^ 30 * 8 / 16 * 15) (h : x / 2048 ≠ y / 2048) :
    (linePlace c (d * 2 ^ 30) x).1 + x % 2048 < (linePlace c (d * 2 ^ 30) y).1 ∨
      (linePlace c (d * 2 ^ 30) y).1 + 2048 ≤ (linePlace c (d * 2 ^ 30) x).1 + x % 2048 := by
  cases c <;> simp only [linePlace, Bool.false_eq_true, if_true, if_false]
  · have := key_apart (x / 30720 % 8) (y / 30720 % 8) (x / 30720 / 8 * 32768 + x % 30720 / 2048 * 2048 + x % 2048)
      (y / 30720 / 8 * 32768 + y % 30720 / 2048 * 2048) 2048 (by omega) (by omega) (by omega)
    simpa only [Nat.add_assoc] using this
  · have := key_apart (x / 2048 % 8) (y / 2048 % 8) (x / 2048 / 8 * 2048 + x % 2048)
      (y / 2048 / 8 * 2048) 2048 (by omega) (by omega) (by omega)
    simpa only [Nat.add_assoc] using this

/-- Data and check records lie apart. -/
theorem record_apart (c : Bool) (d x y : Nat) (hd : d < 16) (hx : x < d * 2 ^ 30 * 8 / 16 * 15)
    (hy : y < d * 2 ^ 30 * 8 / 16 * 15) :
    (linePlace c (d * 2 ^ 30) x).1 + x % 2048 < (linePlace c (d * 2 ^ 30) y).2 ∨
      (linePlace c (d * 2 ^ 30) y).2 + 136 ≤ (linePlace c (d * 2 ^ 30) x).1 + x % 2048 := by
  cases c <;> simp only [linePlace, Bool.false_eq_true, if_true, if_false]
  · have := key_apart (x / 30720 % 8) (y / 30720 % 8) (x / 30720 / 8 * 32768 + x % 30720 / 2048 * 2048 + x % 2048)
      (y / 30720 / 8 * 32768 + 30720 + 136 * (y % 30720 / 2048)) 136 (by omega) (by omega) (by omega)
    simpa only [Nat.add_assoc] using this
  · have hx' : x / 2048 / 8 < 491520 * d := by omega
    have hy' : y / 2048 / 8 < 491520 * d := by omega
    have := key_apart (x / 2048 % 8) (y / 2048 % 8) (x / 2048 / 8 * 2048 + x % 2048)
      (d * 2 ^ 30 / 16 * 15 + 136 * (y / 2048 / 8)) 136 (by omega) (by omega) (by omega)
    simpa only [Nat.add_assoc] using this

/-- Data and the zero ends of check lines lie apart. -/
theorem tail_apart (d x y : Nat) (hd : d < 16) (hx : x < d * 2 ^ 30 * 8 / 16 * 15)
    (hy : y < d * 2 ^ 30 * 8 / 16 * 15) :
    (linePlace false (d * 2 ^ 30) x).1 + x % 2048 < tailPlace y ∨ tailPlace y + 8 ≤ (linePlace false (d * 2 ^ 30) x).1 + x % 2048 := by
  simp only [linePlace, tailPlace, Bool.false_eq_true, if_false]
  have := key_apart (x / 30720 % 8) (y / 30720 % 8) (x / 30720 / 8 * 32768 + x % 30720 / 2048 * 2048 + x % 2048)
      (y / 30720 / 8 * 32768 + 30720 + 2040) 8 (by omega) (by omega) (by omega)
  simpa only [Nat.add_assoc] using this

/-! ### Bytes after a write -/

/-- Byte j of a word. -/
theorem getD_flatMap_bytes128 (ws : List QWord) (k : Nat) (h : k / 16 < ws.length) :
    (ws.flatMap bytes128).getD k 0 = (bytes128 (ws.getD (k / 16) 0)).getD (k % 16) 0 := by
  rw [List.getD_eq_getElem?_getD, getElem?_flatMap_bytes128, List.getD_eq_getElem?_getD, List.getD_eq_getElem?_getD,
    List.getElem?_eq_getElem h]
  simp

@[simp] theorem cellBytes_length (c : List Host.Cell) (k n : Nat) : (cellBytes c k n).length = n := by simp [cellBytes]

/-- A line read holds the bytes that its cells store. -/
theorem readLine_byte (m : Mem) (compat : Bool) (n a k : Nat) (h : k < 2048) :
    (bytes128 ((readLine m compat n a).words.getD (k / 16) 0)).getD (k % 16) 0 =
      cellByte m.cells ((linePlace compat n a).1 + k) := by
  have hw : ((readLine m compat n a).words).length = 128 := by simp [readLine, words128]
  rw [← getD_flatMap_bytes128 _ k (by rw [hw]; omega)]
  have : (readLine m compat n a).words.flatMap bytes128 = cellBytes m.cells (linePlace compat n a).1 2048 := by
    simp only [readLine, words128]
    exact flatMap_words128Go _ _ (by simp)
  rw [this, List.getD_eq_getElem?_getD]
  simp [cellBytes, h]

/-- After a line is stored, its data bytes read as the line has them, and those of every other usable line as before. -/
theorem storeLine_byte (m : Mem) (c : Bool) (d a x : Nat) (l : LineImg) (hl : l.words.length = 128) (hd : d < 16)
    (hx : x < d * 2 ^ 30 * 8 / 16 * 15) (ha : a < d * 2 ^ 30 * 8 / 16 * 15) :
    cellByte (storeLine m c (d * 2 ^ 30) a l).cells ((linePlace c (d * 2 ^ 30) x).1 + x % 2048) =
      if x / 2048 = a / 2048 then (bytes128 (l.words.getD (x % 2048 / 16) 0)).getD (x % 16) 0
      else cellByte m.cells ((linePlace c (d * 2 ^ 30) x).1 + x % 2048) := by
  have hr := record_apart c d x a hd hx ha
  have hlen : (l.words.flatMap bytes128).length = 2048 := by
    have : ∀ ws : List QWord, (ws.flatMap bytes128).length = 16 * ws.length := by
      intro ws
      induction ws with
      | nil => rfl
      | cons w r ih => rw [List.flatMap_cons, List.length_append, ih, bytes128_length, List.length_cons]; omega
    rw [this, hl]
  unfold storeLine
  dsimp only
  rw [cellByte_cellsWrite, if_neg (by simp only [List.length_append, List.length_map, List.length_range, leBytes_length]; omega),
    cellByte_cellsWrite, hlen]
  by_cases h : x / 2048 = a / 2048
  · have e : (linePlace c (d * 2 ^ 30) x).1 = (linePlace c (d * 2 ^ 30) a).1 := by
      cases c <;> simp only [linePlace, Bool.false_eq_true, if_true, if_false] <;> omega
    have hm : x % 2048 % 16 = x % 16 := by omega
    rw [if_pos h, if_pos (by omega), e, Nat.add_sub_cancel_left, getD_flatMap_bytes128 _ _ (by omega), hm]
  · have hp := line_apart c d x a hd hx ha h
    rw [if_neg h, if_neg (by omega)]
    cases c
    · have ht := tail_apart d x a hd hx ha
      simp only [Bool.false_eq_true, if_false]
      rw [cellByte_cellsWrite, if_neg (by simp only [List.length_replicate]; omega)]
    · rfl

theorem chBytes_eq (s : State) : ∃ d, d < 16 ∧ s.chBytes = d * 2 ^ 30 :=
  ⟨s.fld MEM_CFG_DENSITY, bitsOf_lt _ 23 20, rfl⟩

/-- The entries of words from an index on. -/
theorem look_new (ws : List MWord) (i n j : Nat) (hn : n ≤ ws.length) :
    Tab.look (((List.range n).zip ws).map fun e => (i + e.1, e.2)) j =
      if i ≤ j ∧ j < i + n then some (ws.getD (j - i) MWord.zero) else none := by
  have h : ∀ (n k : Nat) (ws : List MWord), n ≤ ws.length →
      Tab.look (((List.range' k n).zip ws).map fun e => (i + e.1, e.2)) j =
        if i + k ≤ j ∧ j < i + k + n then some (ws.getD (j - (i + k)) MWord.zero) else none := by
    intro n
    induction n with
    | zero => intro k ws _; rw [if_neg (by omega)]; rfl
    | succ n ih =>
      intro k ws h
      cases ws with
      | nil => simp at h
      | cons w r =>
        simp only [List.range'_succ, List.zip_cons_cons, List.map_cons, Tab.look]
        by_cases hj : j = i + k
        · subst hj; simp
        · rw [if_neg hj, ih (k + 1) r (by simpa using h)]
          by_cases hk : i + k ≤ j ∧ j < i + k + (n + 1)
          · rw [if_pos hk, if_pos (by omega), show j - (i + k) = (j - (i + (k + 1))) + 1 by omega, List.getD_cons_succ]
          · rw [if_neg hk, if_neg (by omega)]
  rw [List.range_eq_range', h n 0 ws hn]
  rfl

theorem write_words (l : LineImg) (c : Bool) (b : Nat) (new : List (Nat × MWord)) (i : Nat) (h : i < 128) :
    (l.write c b new).words.getD i 0 = ((Tab.look new i).map (·.data)).getD (l.words.getD i 0) := by
  simp [LineImg.write, List.getD_eq_getElem?_getD, h]

theorem memWriteGo_byte (k : Nat) (s : State) (a : Nat) (ws : List MWord) (x : Nat) (ha : a % 16 = 0) (hk : ws.length < k)
    (hu : a + 16 * ws.length ≤ s.usable) (hx : x < s.usable) :
    (State.memWriteGo k s a ws).dataByte x =
      if a ≤ x ∧ x < a + 16 * ws.length then (bytes128 (ws.getD ((x - a) / 16) MWord.zero).data).getD (x % 16) 0
      else s.dataByte x := by
  induction k generalizing s a ws with
  | zero => omega
  | succ k ih =>
    unfold State.memWriteGo
    by_cases he : ws = []
    · subst he; simp <;> omega
    · have hpos : 0 < ws.length := List.length_pos_iff.2 he
      have hemp : ws.isEmpty = false := by cases ws <;> simp_all
      simp only [hemp, Bool.false_eq_true, if_false]
      obtain ⟨d, hd, hc⟩ := chBytes_eq s
      have hus : s.usable = d * 2 ^ 30 * 8 / 16 * 15 := by unfold State.usable; rw [hc]
      generalize hn : min ws.length (128 - a % 2048 / 16) = n
      have hn1 : 0 < n := by omega
      rw [ih]
      · -- what this line takes
        have hdb : State.dataByte (s.setMem (((storeLine s.mem s.compat s.chBytes a
              ((readLine s.mem s.compat s.chBytes a).write s.compat (lineBase a)
                (((List.range n).zip ws).map fun e => (a % 2048 / 16 + e.1, e.2)))).setInit a).forget a n)) x =
            if a ≤ x ∧ x < a + 16 * n then (bytes128 (ws.getD ((x - a) / 16) MWord.zero).data).getD (x % 16) 0
            else s.dataByte x := by
          show cellByte _ _ = _
          show cellByte (storeLine s.mem s.compat s.chBytes a _).cells ((linePlace s.compat s.chBytes x).1 + x % 2048) = _
          rw [hc, storeLine_byte _ _ _ _ _ _ (by simp [LineImg.write]) hd (by omega) (by omega)]
          by_cases hl : x / 2048 = a / 2048
          · rw [if_pos hl, write_words _ _ _ _ _ (by omega), look_new _ _ _ _ (by omega)]
            by_cases hin : a ≤ x ∧ x < a + 16 * n
            · rw [if_pos hin, if_pos (by omega)]
              have : x % 2048 / 16 - a % 2048 / 16 = (x - a) / 16 := by omega
              rw [this]; rfl
            · rw [if_neg hin, if_neg (by omega)]
              have hm : x % 16 = x % 2048 % 16 := by omega
              have e : (linePlace s.compat (d * 2 ^ 30) x).1 = (linePlace s.compat (d * 2 ^ 30) a).1 := by
                cases s.compat <;> simp only [linePlace, Bool.false_eq_true, if_true, if_false] <;> omega
              simp only [Option.map_none, Option.getD_none]
              rw [hm, readLine_byte _ _ _ _ _ (by omega), ← e, ← hc]
              rfl
          · rw [if_neg hl, if_neg (by omega), ← hc]
            rfl
        rw [hdb, List.length_drop]
        by_cases h2 : a + 16 * n ≤ x ∧ x < a + 16 * n + 16 * (ws.length - n)
        · rw [if_pos h2, if_pos (by omega)]
          have : (ws.drop n).getD ((x - (a + 16 * n)) / 16) MWord.zero = ws.getD ((x - a) / 16) MWord.zero := by
            rw [List.getD_eq_getElem?_getD, List.getD_eq_getElem?_getD, List.getElem?_drop,
              show n + (x - (a + 16 * n)) / 16 = (x - a) / 16 by omega]
          rw [this]
        · rw [if_neg h2]
          by_cases h3 : a ≤ x ∧ x < a + 16 * n
          · rw [if_pos h3, if_pos (by omega)]
          · rw [if_neg h3, if_neg (by omega)]
      · omega
      · rw [List.length_drop]; omega
      · rw [List.length_drop]
        show _ ≤ s.usable
        omega
      · exact hx

/-- A write of words changes the bytes under them and no other byte of usable memory. -/
theorem memWrite_byte (s : State) (a : Nat) (ws : List MWord) (x : Nat) (ha : a % 16 = 0) (hu : a + 16 * ws.length ≤ s.usable)
    (hx : x < s.usable) :
    (s.memWrite a ws).dataByte x =
      if a ≤ x ∧ x < a + 16 * ws.length then (bytes128 (ws.getD ((x - a) / 16) MWord.zero).data).getD (x % 16) 0
      else s.dataByte x := by
  unfold State.memWrite
  rw [show a / 16 * 16 = a by omega]
  exact memWriteGo_byte _ _ _ _ _ ha (by omega) hu hx

end Machine

end Sys2Proof
end

