-- ==== Sys2Proof/Laws/Rings.lean ====
section
/-! SUPPORT. What storing a ring leaves as it was. -/

namespace Sys2Proof.Machine

@[simp] theorem State.setRing_pending (s : State) (ty n : Nat) (r : Ring) : (s.setRing ty n r).pending = s.pending := (rfl)
@[simp] theorem State.setRing_now (s : State) (ty n : Nat) (r : Ring) : (s.setRing ty n r).now = s.now := (rfl)
@[simp] theorem State.setRing_boundaryAt (s : State) (ty n : Nat) (r : Ring) : (s.setRing ty n r).boundaryAt = s.boundaryAt := (rfl)
@[simp] theorem State.setRing_ticking (s : State) (ty n : Nat) (r : Ring) : (s.setRing ty n r).ticking = s.ticking := (rfl)
@[simp] theorem State.setRing_tickFrom (s : State) (ty n : Nat) (r : Ring) : (s.setRing ty n r).tickFrom = s.tickFrom := (rfl)
@[simp] theorem State.setRing_tickEvent (s : State) (ty n : Nat) (r : Ring) : (s.setRing ty n r).tickEvent = s.tickEvent := (rfl)
@[simp] theorem State.setRing_srcWritten (s : State) (ty n : Nat) (r : Ring) : (s.setRing ty n r).srcWritten = s.srcWritten := (rfl)
@[simp] theorem State.setRing_missed (s : State) (ty n : Nat) (r : Ring) : (s.setRing ty n r).missed = s.missed := (rfl)
@[simp] theorem State.setRing_phaseAct (s : State) (ty n : Nat) (r : Ring) : (s.setRing ty n r).phaseAct = s.phaseAct := (rfl)
@[simp] theorem State.setRing_slewing (s : State) (ty n : Nat) (r : Ring) : (s.setRing ty n r).slewing = s.slewing := (rfl)
@[simp] theorem State.setRing_gapSeen (s : State) (ty n : Nat) (r : Ring) : (s.setRing ty n r).gapSeen = s.gapSeen := (rfl)
@[simp] theorem State.setRing_lastEnd (s : State) (ty n : Nat) (r : Ring) : (s.setRing ty n r).lastEnd = s.lastEnd := (rfl)
@[simp] theorem State.setRing_runStart (s : State) (ty n : Nat) (r : Ring) : (s.setRing ty n r).runStart = s.runStart := (rfl)
@[simp] theorem State.setRing_runCycle (s : State) (ty n : Nat) (r : Ring) : (s.setRing ty n r).runCycle = s.runCycle := (rfl)
@[simp] theorem State.setRing_freeCount (s : State) (ty n : Nat) (r : Ring) : (s.setRing ty n r).freeCount = s.freeCount := (rfl)
@[simp] theorem State.setRing_services (s : State) (ty n : Nat) (r : Ring) : (s.setRing ty n r).services = s.services := (rfl)
@[simp] theorem State.setRing_staged (s : State) (ty n : Nat) (r : Ring) : (s.setRing ty n r).staged = s.staged := (rfl)
@[simp] theorem State.setRing_modelEpoch (s : State) (ty n : Nat) (r : Ring) : (s.setRing ty n r).modelEpoch = s.modelEpoch := (rfl)
@[simp] theorem State.setRing_configEpoch (s : State) (ty n : Nat) (r : Ring) : (s.setRing ty n r).configEpoch = s.configEpoch := (rfl)
@[simp] theorem State.setRing_tiles (s : State) (ty n : Nat) (r : Ring) : (s.setRing ty n r).tiles = s.tiles := (rfl)
@[simp] theorem State.setRing_clusters (s : State) (ty n : Nat) (r : Ring) : (s.setRing ty n r).clusters = s.clusters := (rfl)
@[simp] theorem State.setRing_barriers (s : State) (ty n : Nat) (r : Ring) : (s.setRing ty n r).barriers = s.barriers := (rfl)
@[simp] theorem State.setRing_deferred (s : State) (ty n : Nat) (r : Ring) : (s.setRing ty n r).deferred = s.deferred := (rfl)
@[simp] theorem State.setRing_nv (s : State) (ty n : Nat) (r : Ring) : (s.setRing ty n r).nv = s.nv := (rfl)
@[simp] theorem State.setRing_mem (s : State) (ty n : Nat) (r : Ring) : (s.setRing ty n r).mem = s.mem := (rfl)
@[simp] theorem State.setRing_intake (s : State) (ty n : Nat) (r : Ring) : (s.setRing ty n r).intake = s.intake := (rfl)
@[simp] theorem State.setRing_consort (s : State) (ty n : Nat) (r : Ring) : (s.setRing ty n r).consort = s.consort := (rfl)
@[simp] theorem State.setRing_cores (s : State) (ty n : Nat) (r : Ring) : (s.setRing ty n r).cores = s.cores := (rfl)
@[simp] theorem State.setRing_spp (s : State) (ty n : Nat) (r : Ring) : (s.setRing ty n r).spp = s.spp := (rfl)
@[simp] theorem State.setRing_power (s : State) (ty n : Nat) (r : Ring) : (s.setRing ty n r).power = s.power := (rfl)
@[simp] theorem State.setRing_boot (s : State) (ty n : Nat) (r : Ring) : (s.setRing ty n r).boot = s.boot := (rfl)
@[simp] theorem State.setRing_log (s : State) (ty n : Nat) (r : Ring) : (s.setRing ty n r).log = s.log := (rfl)
@[simp] theorem State.setRing_out (s : State) (ty n : Nat) (r : Ring) : (s.setRing ty n r).out = s.out := (rfl)
@[simp] theorem State.setRing_regs (s : State) (ty n : Nat) (r : Ring) : (s.setRing ty n r).regs = s.regs := (rfl)
@[simp] theorem State.setRing_fld (s : State) (ty n : Nat) (r : Ring) (g : Fld) : (s.setRing ty n r).fld g = s.fld g := (rfl)
@[simp] theorem State.setRing_bit (s : State) (ty n : Nat) (r : Ring) (g : Fld) : (s.setRing ty n r).bit g = s.bit g := (rfl)
@[simp] theorem State.setRing_hif_lastServed (s : State) (ty n : Nat) (r : Ring) :
    (s.setRing ty n r).hif.lastServed = s.hif.lastServed := by
  unfold State.setRing State.setHif; split <;> (try split) <;> rfl
@[simp] theorem State.setRing_hif_accepted (s : State) (ty n : Nat) (r : Ring) :
    (s.setRing ty n r).hif.accepted = s.hif.accepted := by
  unfold State.setRing State.setHif; split <;> (try split) <;> rfl
@[simp] theorem State.setRing_hif_nextId (s : State) (ty n : Nat) (r : Ring) :
    (s.setRing ty n r).hif.nextId = s.hif.nextId := by
  unfold State.setRing State.setHif; split <;> (try split) <;> rfl
@[simp] theorem State.setRing_hif_msixPending (s : State) (ty n : Nat) (r : Ring) :
    (s.setRing ty n r).hif.msixPending = s.hif.msixPending := by
  unfold State.setRing State.setHif; split <;> (try split) <;> rfl
@[simp] theorem State.setRing_hif_d3hot (s : State) (ty n : Nat) (r : Ring) :
    (s.setRing ty n r).hif.d3hot = s.hif.d3hot := by
  unfold State.setRing State.setHif; split <;> (try split) <;> rfl
@[simp] theorem State.setRing_hif_dmaPaused (s : State) (ty n : Nat) (r : Ring) :
    (s.setRing ty n r).hif.dmaPaused = s.hif.dmaPaused := by
  unfold State.setRing State.setHif; split <;> (try split) <;> rfl
@[simp] theorem State.setRing_hif_perst (s : State) (ty n : Nat) (r : Ring) :
    (s.setRing ty n r).hif.perst = s.hif.perst := by
  unfold State.setRing State.setHif; split <;> (try split) <;> rfl
@[simp] theorem State.setRing_hif_latched (s : State) (ty n : Nat) (r : Ring) :
    (s.setRing ty n r).hif.latched = s.hif.latched := by
  unfold State.setRing State.setHif; split <;> (try split) <;> rfl
@[simp] theorem State.setRing_hif_heldLow (s : State) (ty n : Nat) (r : Ring) :
    (s.setRing ty n r).hif.heldLow = s.hif.heldLow := by
  unfold State.setRing State.setHif; split <;> (try split) <;> rfl
@[simp] theorem State.setRing_hif_emuCount (s : State) (ty n : Nat) (r : Ring) :
    (s.setRing ty n r).hif.emuCount = s.hif.emuCount := by
  unfold State.setRing State.setHif; split <;> (try split) <;> rfl
@[simp] theorem State.setRing_hif_heldRecords (s : State) (ty n : Nat) (r : Ring) :
    (s.setRing ty n r).hif.heldRecords = s.hif.heldRecords := by
  unfold State.setRing State.setHif; split <;> (try split) <;> rfl

/-- The ring reads as it was stored. -/
theorem State.ring_setRing (s : State) (ty n : Nat) (r : Ring) : (s.setRing ty n r).ring ty n = r := by
  by_cases h0 : ty = 0
  · simp [State.setRing, State.ring, h0]
  · by_cases h1 : ty = 1
    · simp [State.setRing, State.ring, h1]
    · simp [State.setRing, State.ring, h0, h1]

end Sys2Proof.Machine
end

