-- ==== Sys2Proof/Laws/Frames.lean ====
section
/-! SUPPORT. Frames: what the shared operations keep of the registers and of the rest of the state, where fields lie apart, and
that starting a command (an empty group of events) commutes with the plain updates. -/

namespace Sys2Proof.Machine

/-! ### A command's start and the plain updates -/

theorem fresh_setWhole (s : State) (o r v : Nat) : s.fresh.setWhole o r v = (s.setWhole o r v).fresh := rfl
theorem fresh_setFld (s : State) (f : Fld) (v : Nat) : s.fresh.setFld f v = (s.setFld f v).fresh := rfl
theorem fresh_setRegAt (s : State) (k v : Nat) : s.fresh.setRegAt k v = (s.setRegAt k v).fresh := rfl
theorem fresh_quiet (s : State) (f : Fld) : s.fresh.quiet f = (s.quiet f).fresh := rfl
theorem fresh_upTo (s : State) (n : Nat) : s.fresh.upTo n = (s.upTo n).fresh := rfl
theorem fresh_event (s : State) (a b c : Nat) (d : Bytes) : s.fresh.event a b c d = (s.event a b c d).fresh := rfl
theorem fresh_setSvc (s : State) (n : Nat) (v : Service) : s.fresh.setSvc n v = (s.setSvc n v).fresh := rfl
theorem fresh_modSvc (s : State) (n : Nat) (f : Service → Service) : s.fresh.modSvc n f = (s.modSvc n f).fresh := rfl
theorem fresh_setTile (s : State) (n : Nat) (v : Tile) : s.fresh.setTile n v = (s.setTile n v).fresh := rfl
theorem fresh_modTile (s : State) (n : Nat) (f : Tile → Tile) : s.fresh.modTile n f = (s.modTile n f).fresh := rfl
theorem fresh_setCluster (s : State) (n : Nat) (v : Cluster) : s.fresh.setCluster n v = (s.setCluster n v).fresh := rfl
theorem fresh_modCore (s : State) (n : Nat) (f : Core → Core) : s.fresh.modCore n f = (s.modCore n f).fresh := rfl
theorem fresh_setNv (s : State) (v : Nv) : s.fresh.setNv v = (s.setNv v).fresh := rfl
theorem fresh_setMem (s : State) (v : Mem) : s.fresh.setMem v = (s.setMem v).fresh := rfl
theorem fresh_setIntake (s : State) (v : Intake) : s.fresh.setIntake v = (s.setIntake v).fresh := rfl
theorem fresh_setHif (s : State) (v : Hif) : s.fresh.setHif v = (s.setHif v).fresh := rfl
theorem fresh_setCns (s : State) (v : Consort) : s.fresh.setCns v = (s.setCns v).fresh := rfl
theorem fresh_setPower (s : State) (v : Power) : s.fresh.setPower v = (s.setPower v).fresh := rfl
theorem fresh_setBoot (s : State) (v : Boot) : s.fresh.setBoot v = (s.setBoot v).fresh := rfl
theorem fresh_setSpp (s : State) (v : Spp) : s.fresh.setSpp v = (s.setSpp v).fresh := rfl
theorem fresh_setRing (s : State) (a b : Nat) (r : Ring) : s.fresh.setRing a b r = (s.setRing a b r).fresh := rfl
theorem fresh_setRingFld (s : State) (f : Fld) (a b r : Nat) : s.fresh.setRingFld f a b r = (s.setRingFld f a b r).fresh :=
    rfl
theorem fresh_ring (s : State) (a b : Nat) : s.fresh.ring a b = s.ring a b := rfl
theorem fresh_ringFld (s : State) (f : Fld) (a b : Nat) : s.fresh.ringFld f a b = s.ringFld f a b := rfl
theorem keepsRest_iff (s t : State) : KeepsRest s t ↔ t.pending = s.pending ∧ t.boundaryAt = s.boundaryAt ∧ t.ticking =
    s.ticking ∧ t.tickFrom = s.tickFrom ∧ t.tickEvent = s.tickEvent ∧ t.srcWritten = s.srcWritten ∧ t.missed = s.missed ∧
    t.phaseAct = s.phaseAct ∧ t.slewing = s.slewing ∧ t.gapSeen = s.gapSeen ∧ t.lastEnd = s.lastEnd ∧ t.runStart =
    s.runStart ∧ t.runCycle = s.runCycle ∧ t.freeCount = s.freeCount ∧ t.services = s.services ∧ t.staged = s.staged ∧
    t.modelEpoch = s.modelEpoch ∧ t.configEpoch = s.configEpoch ∧ t.tiles = s.tiles ∧ t.clusters = s.clusters ∧ t.barriers
    = s.barriers ∧ t.deferred = s.deferred ∧ t.nv = s.nv ∧ t.mem = s.mem ∧ t.intake = s.intake ∧ t.consort = s.consort ∧
    t.cores = s.cores ∧ t.spp = s.spp ∧ t.power = s.power ∧ t.boot = s.boot ∧ t.hif.cmdRings = s.hif.cmdRings ∧
    t.hif.cplRings = s.hif.cplRings ∧ t.hif.resRings = s.hif.resRings ∧ t.hif.lastServed = s.hif.lastServed ∧
    t.hif.accepted = s.hif.accepted ∧ t.hif.nextId = s.hif.nextId ∧ t.hif.d3hot = s.hif.d3hot ∧ t.hif.dmaPaused =
    s.hif.dmaPaused ∧ t.hif.perst = s.hif.perst ∧ t.hif.latched = s.hif.latched ∧ t.hif.heldLow = s.hif.heldLow ∧
    t.hif.emuCount = s.hif.emuCount ∧ t.hif.heldRecords = s.hif.heldRecords := by
  constructor
  · intro h
    unfold KeepsRest at h
    rw [← h]
    simp [restOf]
  · intro h
    cases s; rename_i sh _ _ _ _ _ _ _ _
    cases t; rename_i th _ _ _ _ _ _ _ _
    cases sh; cases th
    simp only at h
    simp only [KeepsRest, restOf, h]

/-! ### Where banked and tiled fields lie -/

theorem bank_off (f : Fld) (b : Nat) : (f.bank b).off = f.off + 0x100000000 * b := by simp only [Fld.bank, Fld.at]
theorem tile_off (f : Fld) (b : Nat) : (f.tile b).off = f.off + 0x40000 * b := by simp only [Fld.tile, Fld.at]
theorem at_off (f : Fld) (b : Nat) : (f.at b).off = f.off + b := rfl
@[simp] theorem bank_hi (f : Fld) (b : Nat) : (f.bank b).hi = f.hi := by cases f; rfl
@[simp] theorem bank_lo (f : Fld) (b : Nat) : (f.bank b).lo = f.lo := by cases f; rfl
@[simp] theorem tile_hi (f : Fld) (b : Nat) : (f.tile b).hi = f.hi := by cases f; rfl
@[simp] theorem tile_lo (f : Fld) (b : Nat) : (f.tile b).lo = f.lo := by cases f; rfl
theorem not_ev (f : Fld) (b : Nat) (hf : f.off % 0x100000000 < 0xD00000) : (f.bank b).off ∉ eventKeys := by
  simp [eventKeys, EVT_SEQ, EVT_LOG_WR, EVT_LOG_RD, EVT_STATUS, EVT_SUPPRESS_COUNT, EVT_LOST_COUNT, EVT_TOTAL_COUNT,
      bank_off]; omega
theorem not_ev_tile (f : Fld) (b : Nat) (hf : 0xE00000 ≤ f.off) : (f.tile b).off ∉ eventKeys := by
  simp [eventKeys, EVT_SEQ, EVT_LOG_WR, EVT_LOG_RD, EVT_STATUS, EVT_SUPPRESS_COUNT, EVT_LOST_COUNT, EVT_TOTAL_COUNT,
      tile_off]; omega
theorem apart_bank (g f : Fld) (b : Nat) (h : g.apart f = true) : (g.bank b).apart (f.bank b) = true := by
  by_cases e : g.off = f.off
  · simp only [Fld.apart, e, Fld.bank, Fld.at, bne_self_eq_false, Bool.false_or] at h ⊢; exact h
  · simp [Fld.apart, Fld.bank, Fld.at, e]
theorem apart_tile (g f : Fld) (b : Nat) (h : g.apart f = true) : (g.tile b).apart (f.tile b) = true := by
  by_cases e : g.off = f.off
  · simp only [Fld.apart, e, Fld.tile, Fld.at, bne_self_eq_false, Bool.false_or] at h ⊢; exact h
  · simp [Fld.apart, Fld.tile, Fld.at, e]
theorem apart_bank_l (g f : Fld) (b : Nat) (h : g.off % 0x100000000 ≠ f.off % 0x100000000) : (g.bank b).apart f = true := by
  have : (g.bank b).off ≠ f.off := by rw [bank_off]; omega
  simp [Fld.apart, this]
theorem apart_bank_r (g f : Fld) (b : Nat) (h : g.off % 0x100000000 ≠ f.off % 0x100000000) : g.apart (f.bank b) = true := by
  have : g.off ≠ (f.bank b).off := by rw [bank_off]; omega
  simp [Fld.apart, this]
theorem apart_banks (g f : Fld) (a b : Nat) (h : g.off % 0x100000000 ≠ f.off % 0x100000000) : (g.bank a).apart (f.bank b) =
    true := by
  have : (g.bank a).off ≠ (f.bank b).off := by rw [bank_off, bank_off]; omega
  simp [Fld.apart, this]
theorem apart_bank2 (g f : Fld) (a b : Nat) (h : g.apart f = true) (hg : g.off < 0x100000000) (hf : f.off < 0x100000000) :
    (g.bank a).apart (f.bank b) = true := by
  by_cases e : a = b
  · subst e; exact apart_bank _ _ _ h
  · have : (g.bank a).off ≠ (f.bank b).off := by rw [bank_off, bank_off]; omega
    simp [Fld.apart, this]
theorem apart_tile2 (g f : Fld) (a b : Nat) (h : g.apart f = true) (hg : g.off / 0x40000 = 0x40) (hf : f.off / 0x40000 =
    0x40) :
    (g.tile a).apart (f.tile b) = true := by
  by_cases e : a = b
  · subst e; exact apart_tile _ _ _ h
  · have : (g.tile a).off ≠ (f.tile b).off := by rw [tile_off, tile_off]; omega
    simp [Fld.apart, this]
theorem apart_tile_l (g f : Fld) (b : Nat) (h : f.off < g.off) : (g.tile b).apart f = true := by
  have : (g.tile b).off ≠ f.off := by rw [tile_off]; omega
  simp [Fld.apart, this]
theorem apart_tile_r (g f : Fld) (b : Nat) (h : g.off < f.off) : g.apart (f.tile b) = true := by
  have : g.off ≠ (f.tile b).off := by rw [tile_off]; omega
  simp [Fld.apart, this]
theorem sound_bank (f : Fld) (b : Nat) (h : f.sound = true) : (f.bank b).sound = true := by cases f; exact h
theorem sound_tile (f : Fld) (b : Nat) (h : f.sound = true) : (f.tile b).sound = true := by cases f; exact h

/-! ### What the operations keep -/

theorem KeepsRegs.setFlds {ks : List Nat} {s : State} (l : List (Fld × Nat)) (hl : ∀ x ∈ l, x.1.off ∈ ks) :
    ∀ {t : State}, KeepsRegs ks s t → KeepsRegs ks s (t.setFlds l) := by
  induction l with
  | nil => intro t a; exact a
  | cons x l ih => intro t a; exact ih (fun y hy => hl y (List.mem_cons_of_mem _ hy)) (a.setFld _ _ (hl x
      (List.mem_cons_self ..)))
theorem KeepsRegs.firstRecord {ks : List Nat} {s t : State} (a : KeepsRegs ks s t) (f : Fld) (l : List (Fld × Nat)) (h :
    f.off ∈ ks) (hl : ∀ x ∈ l, x.1.off ∈ ks):
    KeepsRegs ks s (t.firstRecord f l) := by
  unfold State.firstRecord
  split
  · exact a
  · exact (KeepsRegs.setFlds l hl a).setFld _ _ h

theorem KeepsRest.flagWith {s t : State} (a : KeepsRest s t) (f : Fld) (d : Bytes) : KeepsRest s (t.flagWith f d) := by
  unfold State.flagWith; simp only; split <;> exact a
theorem KeepsRest.flag {s t : State} (a : KeepsRest s t) (f : Fld) : KeepsRest s (t.flag f) := a.flagWith f _
theorem KeepsRest.setFld {s t : State} (a : KeepsRest s t) (f : Fld) (v : Nat) : KeepsRest s (t.setFld f v) := a
theorem KeepsRest.setFlds {s : State} (l : List (Fld × Nat)) : ∀ {t : State}, KeepsRest s t → KeepsRest s (t.setFlds l) :=
    by
  induction l with
  | nil => intro t a; exact a
  | cons x l ih => intro t a; exact ih a
theorem KeepsRest.firstRecord {s t : State} (a : KeepsRest s t) (f : Fld) (l) : KeepsRest s (t.firstRecord f l) := by
  unfold State.firstRecord; split
  · exact a
  · exact KeepsRest.setFlds l a
theorem KeepsRest.event {s t : State} (a : KeepsRest s t) (x y z d) : KeepsRest s (t.event x y z d) := a
theorem KeepsRest.emit {s t : State} (a : KeepsRest s t) (x) : KeepsRest s (t.emit x) := a
theorem KeepsRest.upTo {s t : State} (a : KeepsRest s t) (x) : KeepsRest s (t.upTo x) := a
theorem KeepsRest.signal {s t : State} (a : KeepsRest s t) (x) : KeepsRest s (t.signal x) := by
  unfold State.signal; split <;> exact a
theorem KeepsRest.count {s t : State} (a : KeepsRest s t) (f : Fld) (n) : KeepsRest s (t.count f n) := by
  unfold State.count State.bumpRaw; simp only; split <;> split <;> (try split) <;> exact a
theorem KeepsRest.accessError {s t : State} (a : KeepsRest s t) (x y z p q) : KeepsRest s (t.accessError x y z p q) := by
  unfold State.accessError; split <;> exact a
theorem KeepsRest.dma {s t : State} (a : KeepsRest s t) (x y) : KeepsRest s (t.dma x y) := by
  unfold State.dma; split <;> exact a
theorem KeepsRest.acted' {s t : State} (a : KeepsRest { s with hif := (s.acted t).hif } t) : KeepsRest { s with hif :=
    (s.acted t).hif } (s.acted t) := by
  have h : restOf { s with hif := (s.acted t).hif } (s.acted t) = { restOf { s with hif := (s.acted t).hif } t with pending
      := s.pending } :=
    congrArg (fun x : State => { restOf { s with hif := (s.acted t).hif } x with pending := s.pending }) t.settle_does.rest
  have e : ({ restOf { s with hif := (s.acted t).hif } t with pending := s.pending } : State) = { s with hif := (s.acted
      t).hif } :=
    congrArg (fun x : State => { x with pending := s.pending }) a
  exact h.trans e
theorem KeepsRegs.of_regs {ks} {s t u : State} (a : KeepsRegs ks s u) (h : t.regs = u.regs) : KeepsRegs ks s t := by
  intro k hk hk'; rw [h]; exact a k hk hk'
theorem State.setFld_bit (s : State) (f g : Fld) (v) (h : g.apart f = true) : (s.setFld f v).bit g = s.bit g := by
  simp only [State.bit, State.fld_setFld_of_apart _ _ _ _ h]
theorem Like.flag_fresh (s : State) (f : Fld) : Like (s.setFld f 1) (s.fresh.flag f) :=
  Like.flag (by rw [fresh_setFld]; exact Like.fresh _)
theorem Like.flagWith_fresh (s : State) (f : Fld) (d) : Like (s.setFld f 1) (s.fresh.flagWith f d) :=
  Like.flagWith (by rw [fresh_setFld]; exact Like.fresh _) d

theorem KeepsRest.fresh (s : State) : KeepsRest s s.fresh := rfl
theorem KeepsRegs.fresh (ks) (s : State) : KeepsRegs ks s s.fresh := KeepsRegs.refl _ _

theorem KeepsRegs.upTo {ks} {s t : State} (a : KeepsRegs ks s t) (n) : KeepsRegs ks s (t.upTo n) := a
theorem KeepsRegs.emit {ks} {s t : State} (a : KeepsRegs ks s t) (n) : KeepsRegs ks s (t.emit n) := a
theorem KeepsRegs.event {ks} {s t : State} (a : KeepsRegs ks s t) (x y z d) : KeepsRegs ks s (t.event x y z d) := a
theorem KeepsRegs.dma {ks} {s t : State} (a : KeepsRegs ks s t) (x y) : KeepsRegs ks s (t.dma x y) := by
  unfold State.dma; split <;> exact a
theorem KeepsRegs.signal {ks} {s t : State} (a : KeepsRegs ks s t) (x) : KeepsRegs ks s (t.signal x) := by
  unfold State.signal; split <;> exact a
theorem KeepsRegs.accessError {ks} {s t : State} (a : KeepsRegs ks s t) (x y z p q) : KeepsRegs ks s (t.accessError x y z p
    q) := by
  unfold State.accessError; split <;> exact a
theorem KeepsRegs.flagWith {ks} {s t : State} (a : KeepsRegs ks s t) (f : Fld) (d) (h : f.off ∈ ks) : KeepsRegs ks s
    (t.flagWith f d) :=
  fun k hk hk' => (t.flagWith_look f d k).trans (a.setFld f 1 h k hk hk')

end Sys2Proof.Machine
end

