-- ==== Sys2Proof/WellFormed.lean ====
section
/-! DEFINITION. Which commands can arrive: the numbers that an operand may take. A term that fails a check names a
tile, port, ring or register that the device does not have, so nothing outside can send it. -/

namespace Sys2Proof

/-- A BAR0 offset (R381, R385: 64 MiB), 4-byte aligned. -/
def Instr.offsetOk (o : Nat) : Bool := decide (o < 0x4000000 ∧ o % 4 = 0)
/-- A BAR0 offset, or one of the 4 KiB of configuration space beside it (log 228). -/
def Instr.requestOk (o : Nat) : Bool :=
  Instr.offsetOk o || decide (0x8000000 ≤ o ∧ o < 0x8001000 ∧ o % 4 = 0)
/-- At most 4,096 bytes in one host access through BAR4 (a PCIe request). -/
def Instr.lengthOk (n : Nat) : Bool := decide (0 < n ∧ n ≤ 4096)
/-- Bit positions of a raw page of 4,608 bytes (R212). -/
def Instr.flipsOk (l : List Nat) : Bool := l.all fun b => decide (b < 36864)
/-- Bits of a coded word of 137 bits (R190), and hops of a route of at most 14 (R180). -/
def Instr.linkFlipsOk (l : LinkFlips) : Bool := l.all fun e => decide (e.2.1 < 137 ∧ e.2.2 < 14)
/-- A transaction is one of an operation unless its first byte spells another one (R469). -/
def Instr.spiOk (op : Nat) (mosi : Bytes) : Bool :=
  let b := (mosi.headD 0).toNat
  b == op || b == 0 || decide (5 < b)
/-- A picture holds one luma sample for each pixel and one chroma pair for each 2 × 2 block. -/
def Picture.wf (p : Picture) : Bool :=
  p.y.length == p.width * p.height && p.cb.length == ((p.width + 1) / 2) * ((p.height + 1) / 2) &&
    p.cr.length == p.cb.length
/-- A decode result that carries a picture carries a whole one. -/
def Decoded.wf : Decoded → Bool
  | .picture p => p.wf
  | .failed => true
  | .unsupported => true
  | .memory => true

/-- Every operand of the command is in its range. -/
def Instr.wf : Instr → Bool
  | .loadProgram _ => true
  | .bindModel => true
  | .startService _ => true
  | .stopService => true
  | .submitInput => true
  | .inputDmaDone _ => true
  | .nvProgram _ => true
  | .nvErase => true
  | .modelSwap => true
  | .scrub _ _ => true
  | .fill => true
  | .fwStage _ => true
  | .fwActivate => true
  | .attest => true
  | .configEpoch _ => true
  | .query _ => true
  | .cancel => true
  | .dblCmdTail page _ => decide (page < 64)
  | .dblCplHead page _ => decide (page < 64)
  | .dblResHead page _ => decide (page < 16)
  | .commandAccept _ => true
  | .commandComplete _ => true
  | .coalesceTimeout result ring => decide (ring < (if result then 16 else 64))
  | .tilMemRead tile => decide (tile < 64)
  | .tilMemWrite tile => decide (tile < 64)
  | .tilMemAccessDone tile => decide (tile < 64)
  | .tilInval tile => decide (tile < 64)
  | .bulkInvalidateDone tile => decide (tile < 64)
  | .slackRst _ => true
  | .tckPeriodWrite _ => true
  | .tckSrcWrite _ => true
  | .tckPhaseWrite _ => true
  | .tckTickinWrite _ => true
  | .nvsPageRead => true
  | .nvsPageReadDone rounds => rounds.all Instr.flipsOk
  | .cmpTabLoad slot => decide (slot < 16)
  | .cmpTabClear slot => decide (slot < 16)
  | .cmpTabApply => true
  | .cmpRegionWrite _ _ => true
  | .memPoolSettingWrite _ _ => true
  | .memPoolEnWrite _ => true
  | .hifRingEnable _ => true
  | .hifRingDisable _ => true
  | .ringDisableDone ring => decide (ring < 64)
  | .hifBar4BaseWrite _ => true
  | .hifEmuEnWrite _ => true
  | .secBootGo => true
  | .hostedLoadDone _ => true
  | .sppScmdGo => true
  | .signedCommandChecked => true
  | .sppSpiRead mosi _ => Instr.spiOk 1 mosi
  | .sppSpiWrite mosi _ => Instr.spiOk 2 mosi
  | .sppSpiCommit mosi _ => Instr.spiOk 3 mosi
  | .sppSpiAbort mosi _ => Instr.spiOk 4 mosi
  | .sppSpiStatus mosi _ => Instr.spiOk 5 mosi
  | .cnsLeave _ => true
  | .cnsEnWrite _ => true
  | .form _ => true
  | .dissolve _ => true
  | .cnsPlanWrite index _ => decide (index < 16)
  | .envReqWrite _ => true
  | .sleepReqRest => true
  | .sleepReqPizzicato => true
  | .pwrWakeGo => true
  | .padRelease => true
  | .provision => true
  | .svnCommit => true
  | .deviceResetRequest _ => true
  | .evtLogRdWrite _ => true
  | .vidStreamCtlWrite _ => true
  | .vidEncCtlWrite _ => true
  | .vidMemWrite _ _ => true
  | .intPortCtlWrite port _ => decide (port < 2)
  | .counterSatClear clear => Instr.offsetOk clear.offset
  | .registerWrite offset _ _ => Instr.requestOk offset
  | .reg64LowHalfRead r => Instr.requestOk r.offset && decide (r.enables < if r.wide then 256 else 16)
  | .reg64LowHalfWrite offset _ => Instr.offsetOk offset
  | .partialByteWrite offset => Instr.offsetOk offset
  | .unmappedAccess offset _ => Instr.offsetOk offset
  | .bar4Read offset length => decide (offset < 0x10000000) && Instr.lengthOk length
  | .bar4Write offset data => decide (offset < 0x10000000) && Instr.lengthOk data.length
  | .bar2Read offset => decide (offset < 0x100000 ∧ offset % 4 = 0)
  | .bar2Write offset _ => decide (offset < 0x100000 ∧ offset % 4 = 0)
  | .smbusAddr offset _ => Instr.offsetOk offset
  | .smbusRead => true
  | .smbusWrite offset _ _ => Instr.offsetOk offset
  | .smbusClockTimeout => true
  | .bypass => true
  | .idcode => true
  | .samplePreload => true
  | .extest => true
  | .clamp => true
  | .highz => true
  | .jtagReset => true
  | .tickBoundary _ _ _ => true
  | .sleepEntry => true
  | .tickInEdge _ => true
  | .tickInTimeout => true
  | .boundaryGap => true
  | .nop tile => decide (tile < 64)
  | .lka tile => decide (tile < 64)
  | .vec tile => decide (tile < 64)
  | .ftab tile => decide (tile < 64)
  | .xfer tile faults => decide (tile < 64) && Instr.linkFlipsOk faults.flips
  | .gather op => decide (op.tile < 64) && Instr.linkFlipsOk op.flips
  | .slabFill tile => decide (tile < 64)
  | .hand tile flips => decide (tile < 64) && Instr.linkFlipsOk flips
  | .stage tile => decide (tile < 64)
  | .bar tile => decide (tile < 64)
  | .barrierComplete network => decide (network < 4)
  | .sem tile => decide (tile < 64)
  | .semaphoreWaitEnd tile => decide (tile < 64)
  | .evt tile => decide (tile < 64)
  | .eventLineWaitEnd tile => decide (tile < 64)
  | .rangeCmd tile => decide (tile < 64)
  | .endProg tile => decide (tile < 64)
  | .transferDone tile => decide (tile < 64)
  | .slabPageDelivery tile flips => decide (tile < 64) && Instr.flipsOk flips
  | .repairRound tile flips => decide (tile < 64) && Instr.flipsOk flips
  | .ptpMessage => true
  | .ptpSyncTimeout => true
  | .ppsInEdge => true
  | .ppsOutSecond => true
  | .pllLockLoss pll => decide (pll < 2)
  | .pllRelock pll => decide (pll < 2)
  | .refclkMissing => true
  | .refclkReturn => true
  | .ethFrameRx port _ => decide (port < 2)
  | .arpRequest => true
  | .icmpEcho => true
  | .igmpQuery => true
  | .arpRefresh => true
  | .arpExpiry => true
  | .rtpPacket => true
  | .ssrcRelease stream => decide (stream < 32)
  | .jitterTimeout stream => decide (stream < 32)
  | .decodeDone stream result => decide (stream < 32) && result.answer.wf
  | .shapeDone service snap _ => decide (service < 64) && decide (snap < 64)
  | .datagramTx port => decide (port < 2)
  | .ethLinkDown port => decide (port < 2)
  | .ethLinkUp port => decide (port < 2)
  | .tokenSend => true
  | .verdict => true
  | .token => true
  | .join => true
  | .propose => true
  | .accept => true
  | .abortFrame => true
  | .proposeTimeout => true
  | .arm => true
  | .applyFrame => true
  | .consortCancel => true
  | .agreementTimeout kind => decide (kind < 3)
  | .tensor => true
  | .tensorTx => true
  | .chainCmd => true
  | .chainData => true
  | .chainCredit => true
  | .chainStatus => true
  | .chainCreditTimer _ => true
  | .chainResend _ => true
  | .chainTimeout _ => true
  | .knownExpiry member => decide (member < 16)
  | .watchdogExpiry core => decide (core < 11)
  | .coreFault core _ => decide (core < 11)
  | .coreRestarted core => decide (core < 11)
  | .activationReadyTimeout core => decide (core < 11)
  | .emergencyClearExpiry => true
  | .sensorReading die weight => decide (die.length = 16) && decide (weight.length = 4 ∨ weight.length = 2)
  | .clampRelease => true
  | .avsStatusPoll _ _ => true
  | .avsWriteTimeout => true
  | .regulatorFaultPoll _ _ => true
  | .pwrFailAssert => true
  | .pwrFailDeassert _ => true
  | .ethWakeFrame port _ => decide (port < 2)
  | .tickInWake _ => true
  | .d3hotEntry => true
  | .d0Return => true
  | .wake => true
  | .pizzicatoCycle => true
  | .idrWaitTimeout => true
  | .retentionClockTick => true
  | .tableVersionWrite => true
  | .eraseBatchStart => true
  | .eraseDone _ => true
  | .pageProgramStart senses _ => senses.rounds.all Instr.flipsOk
  | .pageProgramDone flips => Instr.flipsOk flips
  | .refreshStart senses => senses.rounds.all Instr.flipsOk
  | .lineRepair => true
  | .poolWriteBackDone => true
  | .poolRestoreDone _ => true
  | .poolDmaFailure => true
  | .lpddrTrainingDone failed => decide (failed < 256)
  | .railsValid => true
  | .fuseLoadDone => true
  | .porstNDeassert _ => true
  | .porstNAssert => true
  | .railMonitorTrip _ => true
  | .configLoadDone _ _ => true
  | .standaloneBootDone _ => true
  | .nvScan _ _ _ => true
  | .nvScanDone => true
  | .ready => true
  | .pciePerstAssert => true
  | .pciePerstDeassert => true
  | .functionLevelReset => true
  | .hotReset => true
  | .linkDownReset => true
  | .pcieLinkRecovery => true
  | .pcieLinkTrained _ _ => true
  | .pictureEncoded encoder _ => decide (encoder < 16)
  | .igmpCompatTimeout port => decide (port < 2)
  | .igmpReportTimer port => decide (port < 2)
  | .ptpDelayReqTimer => true
  | .announceReceiptTimeout port => decide (port < 2)
  | .zeroInitFillDone service => decide (service < 64)
  | .programCopyDone service => decide (service < 64)
  | .secOperationDone _ => true

end Sys2Proof
end

