-- ==== Sys2Proof/Tests/Slice0.lean ====
section
/-! SUPPORT. Tests: ill-formed commands refused, the words of a few commands, single steps against values worked out from the
spec, and for every obligation with hypotheses the concrete states and operands at which they are met. -/

set_option Elab.async false

namespace Sys2Proof.Tests

open Sys2Proof.Machine

/-! ### States -/

/-- A device that is READY, with its cores running, its weight store ready and the PCIe link up. -/
def rdy : State :=
  let s := (((State.reset.setDev stReady).setFld HIF_STATUS_READY 1).setFld HIF_LINK_UP 1).setFld NVS_STATE_PHASE nvReady
  (List.range 11).foldl (fun s k => s.setFw k fwRunning) s

/-- A ring that is enabled with 16 entries, PEER and VECTOR 0. -/
def withRing (s : State) (ty n : Nat) : State :=
  (s.setRingFld HIF_RING_CFG_EN ty n 1).setRingFld HIF_RING_CFG_LOG2SIZE ty n 4

/-- A command of ring 0 that waits for its work. -/
def waits (op : Nat) (b : Bytes) : HostCmd :=
  { id := 7, ring := 0, index := 0, peer := 0, bytes := padTo 64 (leBytes 8 op ++ b), started := false,
    result := none }

def withCmd (s : State) (c : HostCmd) : State := s.setHif { s.hif with accepted := [c] }
/-- The state from which its work starts. -/
def begun (s : State) (c : HostCmd) : State := { (withCmd s c).begin c.id with out := [] }

/-- Forms of a statement's conclusion, all of which say that the command answers a next state. -/
theorem ok {c : Instr} {s : State} {P : State → Prop} (h : ∃ t, exec c s = .next t ∧ P t) : ∃ t, exec c s = .next t :=
  h.imp fun _ a => a.1

theorem okG {c : Instr} {s s' : State} (h : Gives c s s') : ∃ t, exec c s = .next t := ok h
theorem okS {c : Instr} {s s' : State} {l : List Out} (h : Sending c s s' l) : ∃ t, exec c s = .next t := ok h

/-- Several hypotheses met at once. -/
theorem met2 {p1 p2 c : Prop} (f : p1 → p2 → c) (h : p1 ∧ p2) : c := f h.1 h.2
theorem met3 {p1 p2 p3 c : Prop} (f : p1 → p2 → p3 → c) (h : p1 ∧ p2 ∧ p3) : c := f h.1 h.2.1 h.2.2
theorem met4 {p1 p2 p3 p4 c : Prop}
    (f : p1 → p2 → p3 → p4 → c) (h : p1 ∧ p2 ∧ p3 ∧ p4) : c := f h.1 h.2.1 h.2.2.1 h.2.2.2
theorem met5 {p1 p2 p3 p4 p5 c : Prop}
    (f : p1 → p2 → p3 → p4 → p5 → c) (h : p1 ∧ p2 ∧ p3 ∧ p4 ∧ p5) : c := f h.1 h.2.1 h.2.2.1 h.2.2.2.1 h.2.2.2.2
theorem met6 {p1 p2 p3 p4 p5 p6 c : Prop}
    (f : p1 → p2 → p3 → p4 → p5 → p6 → c)
    (h : p1 ∧ p2 ∧ p3 ∧ p4 ∧ p5 ∧ p6) : c := f h.1 h.2.1 h.2.2.1 h.2.2.2.1 h.2.2.2.2.1 h.2.2.2.2.2
theorem met7 {p1 p2 p3 p4 p5 p6 p7 c : Prop}
    (f : p1 → p2 → p3 → p4 → p5 → p6 → p7 → c)
    (h : p1 ∧ p2 ∧ p3 ∧ p4 ∧ p5 ∧ p6 ∧ p7) : c := f h.1 h.2.1 h.2.2.1 h.2.2.2.1 h.2.2.2.2.1 h.2.2.2.2.2.1 h.2.2.2.2.2.2
theorem met8 {p1 p2 p3 p4 p5 p6 p7 p8 c : Prop}
    (f : p1 → p2 → p3 → p4 → p5 → p6 → p7 → p8 → c)
    (h : p1 ∧ p2 ∧ p3 ∧ p4 ∧ p5 ∧ p6 ∧ p7 ∧ p8) : c := f h.1 h.2.1 h.2.2.1 h.2.2.2.1 h.2.2.2.2.1 h.2.2.2.2.2.1 h.2.2.2.2.2.2.1 h.2.2.2.2.2.2.2
theorem met9 {p1 p2 p3 p4 p5 p6 p7 p8 p9 c : Prop}
    (f : p1 → p2 → p3 → p4 → p5 → p6 → p7 → p8 → p9 → c)
    (h : p1 ∧ p2 ∧ p3 ∧ p4 ∧ p5 ∧ p6 ∧ p7 ∧ p8 ∧ p9) : c := f h.1 h.2.1 h.2.2.1 h.2.2.2.1 h.2.2.2.2.1 h.2.2.2.2.2.1 h.2.2.2.2.2.2.1 h.2.2.2.2.2.2.2.1 h.2.2.2.2.2.2.2.2
theorem met10 {p1 p2 p3 p4 p5 p6 p7 p8 p9 p10 c : Prop}
    (f : p1 → p2 → p3 → p4 → p5 → p6 → p7 → p8 → p9 → p10 → c)
    (h : p1 ∧ p2 ∧ p3 ∧ p4 ∧ p5 ∧ p6 ∧ p7 ∧ p8 ∧ p9 ∧ p10) : c := f h.1 h.2.1 h.2.2.1 h.2.2.2.1 h.2.2.2.2.1 h.2.2.2.2.2.1 h.2.2.2.2.2.2.1 h.2.2.2.2.2.2.2.1 h.2.2.2.2.2.2.2.2.1 h.2.2.2.2.2.2.2.2.2
theorem met11 {p1 p2 p3 p4 p5 p6 p7 p8 p9 p10 p11 c : Prop}
    (f : p1 → p2 → p3 → p4 → p5 → p6 → p7 → p8 → p9 → p10 → p11 → c)
    (h : p1 ∧ p2 ∧ p3 ∧ p4 ∧ p5 ∧ p6 ∧ p7 ∧ p8 ∧ p9 ∧ p10 ∧ p11) : c := f h.1 h.2.1 h.2.2.1 h.2.2.2.1 h.2.2.2.2.1 h.2.2.2.2.2.1 h.2.2.2.2.2.2.1 h.2.2.2.2.2.2.2.1 h.2.2.2.2.2.2.2.2.1 h.2.2.2.2.2.2.2.2.2.1 h.2.2.2.2.2.2.2.2.2.2
theorem met12 {p1 p2 p3 p4 p5 p6 p7 p8 p9 p10 p11 p12 c : Prop}
    (f : p1 → p2 → p3 → p4 → p5 → p6 → p7 → p8 → p9 → p10 → p11 → p12 → c)
    (h : p1 ∧ p2 ∧ p3 ∧ p4 ∧ p5 ∧ p6 ∧ p7 ∧ p8 ∧ p9 ∧ p10 ∧ p11 ∧ p12) : c := f h.1 h.2.1 h.2.2.1 h.2.2.2.1 h.2.2.2.2.1 h.2.2.2.2.2.1 h.2.2.2.2.2.2.1 h.2.2.2.2.2.2.2.1 h.2.2.2.2.2.2.2.2.1 h.2.2.2.2.2.2.2.2.2.1 h.2.2.2.2.2.2.2.2.2.2.1 h.2.2.2.2.2.2.2.2.2.2.2

theorem met13 {p1 p2 p3 p4 p5 p6 p7 p8 p9 p10 p11 p12 p13 c : Prop}
    (f : p1 → p2 → p3 → p4 → p5 → p6 → p7 → p8 → p9 → p10 → p11 → p12 → p13 → c)
    (h : p1 ∧ p2 ∧ p3 ∧ p4 ∧ p5 ∧ p6 ∧ p7 ∧ p8 ∧ p9 ∧ p10 ∧ p11 ∧ p12 ∧ p13) : c := f h.1 h.2.1 h.2.2.1 h.2.2.2.1 h.2.2.2.2.1 h.2.2.2.2.2.1 h.2.2.2.2.2.2.1 h.2.2.2.2.2.2.2.1 h.2.2.2.2.2.2.2.2.1 h.2.2.2.2.2.2.2.2.2.1 h.2.2.2.2.2.2.2.2.2.2.1 h.2.2.2.2.2.2.2.2.2.2.2.1 h.2.2.2.2.2.2.2.2.2.2.2.2

/-! ### A tick-program image, by R131 to R136 -/

/-- A section: type, envelope, tile, body. -/
structure TSec where
  ty : Nat
  env : Nat
  tile : Nat
  body : Bytes

def TSec.count (x : TSec) : Nat :=
  if x.ty = tyTileMap then 1 else if x.ty = tyCommands || x.ty = tyDescriptors then x.body.length / 32 else x.body.length / 16

/-- Table entries and bodies, each body at a multiple of 32 from an offset on. -/
def placeSecs : List TSec → Nat → Bytes × Bytes
  | [], _ => ([], [])
  | x :: r, off =>
    let n := (x.body.length + 31) / 32 * 32
    let q := placeSecs r (off + n)
    (leBytes 2 x.ty ++ leBytes 1 x.env ++ leBytes 1 x.tile ++ leBytes 4 off ++ leBytes 4 x.body.length ++ leBytes 4 x.count ++
      q.1, padTo n x.body ++ q.2)

/-- An image of a class for E30 alone, or for all three envelopes, with a W for each. -/
def mkImg (cls envs tiles w hist : Nat) (secs : List TSec) : Bytes :=
  let first := (128 + 16 * secs.length + 31) / 32 * 32
  let p := placeSecs secs first
  let rest := padTo (first - 128) p.1 ++ p.2
  ascii "KTPG" ++ leBytes 2 1 ++ leBytes 1 cls ++ leBytes 1 0 ++ leBytes 1 envs ++ leBytes 1 tiles ++ leBytes 2 0 ++
    leBytes 4 10000 ++ leBytes 4 w ++ leBytes 4 w ++ leBytes 4 w ++ leBytes 4 hist ++ leBytes 4 secs.length ++
    leBytes 4 (128 + rest.length) ++ leBytes 24 0 ++ sha512 rest ++ rest

/-- The sections of a program for tile 0 with one stream and its descriptors, the same in every envelope. -/
def oneTile (envs : List Nat) (cmds descs : Bytes) (more : List TSec) : List TSec :=
  [⟨tyTileMap, secAll, secAll, leBytes 8 1⟩, ⟨tyCfg, secAll, 0, leBytes 16 0⟩,
    ⟨tyCsReserve, secAll, secAll, leBytes 8 0 ++ leBytes 8 1⟩] ++
  envs.flatMap (fun e => [⟨tySlotTable, e, secAll, []⟩, ⟨tyBarrierPlan, e, secAll, []⟩, ⟨tyLpddrSlots, e, secAll, []⟩,
    ⟨tyTrees, e, secAll, []⟩, ⟨tyCommands, e, 0, cmds⟩, ⟨tyDescriptors, e, 0, descs⟩, ⟨tySlabReads, e, 0, []⟩]) ++ more

/-- A command of 32 bytes: opcode, bytes 1 to 3, issue cycle, bytes from 8. -/
def tcmd (op b1 issue : Nat) (b : Bytes) : Bytes := padTo 32 (leBytes 1 op ++ leBytes 3 b1 ++ leBytes 4 issue ++ b)

/-- A class C program whose only command is END at cycle 1000. -/
def endImg : Bytes := mkImg 3 1 1 1000 0 (oneTile [0] (tcmd opEnd 0 1000 []) [] [])

/-- A configuration image, unsigned, with a DEVICE section of 64 bytes alone (R529 to R531). -/
def cfgImg (dev : Bytes) : Bytes :=
  padTo 56 (ascii "KCFG" ++ leBytes 4 1 ++ leBytes 4 272) ++ leBytes 4 1 ++ leBytes 68 0 ++
    leBytes 4 cfgDevice ++ leBytes 4 144 ++ leBytes 4 64 ++ leBytes 4 0 ++ padTo 64 dev ++ leBytes 64 0

/-- The same device with 8 Gib channels that have trained and a program area of frames 16 to 31. -/
def memRdy : State :=
  let s := (rdy.setFld MEM_CFG_DENSITY 8).setFld MEM_CFG_TRAINED 1
  s.setBoot { s.boot with config := cfgImg (leBytes 24 8 ++ leBytes 4 16 ++ leBytes 4 16) }

/-- A service with an image, in a phase. -/
def withSvc (s : State) (n : Nat) (img : Bytes) (p : SvcPhase) : State :=
  s.setSvc n { Service.reset with image := img, phase := p }

/-! ### Ill-formed commands are refused -/

theorem test_illFormed_registers :
    ([.dblCmdTail 64 0, .dblCplHead 64 0, .dblResHead 16 0, .coalesceTimeout true 16, .coalesceTimeout false 64, .ringDisableDone 64,
      .cmpTabLoad 16, .cmpTabClear 16, .cnsPlanWrite 16 0, .intPortCtlWrite 2 0, .counterSatClear ⟨2, 0⟩, .registerWrite 0x4000000 false 0,
      .reg64LowHalfRead ⟨1, false, 0⟩, .reg64LowHalfRead ⟨4, true, 256⟩, .reg64LowHalfWrite 3 0, .partialByteWrite 2, .unmappedAccess 1 true, .bar4Read 0x10000000 1, .bar4Read 0 0,
      .bar4Read 0 4097, .bar4Write 0x10000000 [0], .bar4Write 0 [], .bar2Read 2, .bar2Read 0x100000, .bar2Write 0x100000 0,
      .smbusAddr 2 none, .smbusWrite 2 0 none, .sppSpiRead [2] 0, .sppSpiWrite [1] 0, .sppSpiCommit [4] 0, .sppSpiAbort [5] 0,
      .sppSpiStatus [3] 0] : List Instr).all (fun c => !c.wf) = true := by decide +kernel

theorem test_illFormed_tiles :
    ([.tilMemRead 64, .tilMemWrite 64, .tilMemAccessDone 64, .tilInval 64, .bulkInvalidateDone 64, .nop 64, .lka 64, .vec 64, .ftab 64,
      .xfer 64 ⟨[], 0⟩, .xfer 0 ⟨[(0, 137, 0)], 0⟩, .xfer 0 ⟨[(0, 0, 14)], 0⟩, .gather ⟨64, [], 0⟩, .gather ⟨0, [(0, 137, 0)], 0⟩, .slabFill 64, .hand 64 [], .hand 0 [(0, 137, 0)], .stage 64,
      .bar 64, .barrierComplete 4, .sem 64, .semaphoreWaitEnd 64, .evt 64, .eventLineWaitEnd 64, .rangeCmd 64, .endProg 64,
      .transferDone 64, .slabPageDelivery 64 [], .slabPageDelivery 0 [36864], .repairRound 64 [], .repairRound 0 [36864],
      .nvsPageReadDone [[36864]], .pageProgramDone [36864], .zeroInitFillDone 64, .programCopyDone 64] : List Instr).all
        (fun c => !c.wf) = true := by decide +kernel

/-- A picture of one pixel without samples. -/
def noSamples : Picture :=
  { width := 1, height := 1, tenBit := false, matrix := none, fullRange := none, idr := false, randomAccess := false, y := [], cb := [],
    cr := [] }
theorem test_illFormed_others :
    ([.pllLockLoss 2, .pllRelock 2, .ethFrameRx 2 [], .ssrcRelease 32, .jitterTimeout 32, .decodeDone 32 ⟨.failed, 0, [], []⟩,
      .decodeDone 0 ⟨.picture noSamples, 0, [], []⟩, .shapeDone 64 0 ⟨[], []⟩, .shapeDone 0 64 ⟨[], []⟩, .datagramTx 2, .ethLinkDown 2, .ethLinkUp 2,
      .agreementTimeout 3, .knownExpiry 16, .watchdogExpiry 11, .coreFault 11 .exec, .coreRestarted 11, .activationReadyTimeout 11,
      .sensorReading [] [0, 0, 0, 0], .sensorReading (List.replicate 16 0) [0], .ethWakeFrame 2 [], .lpddrTrainingDone 256,
      .pictureEncoded 16 ⟨[], []⟩, .igmpCompatTimeout 2, .igmpReportTimer 2, .announceReceiptTimeout 2] : List Instr).all
        (fun c => !c.wf) = true := by decide +kernel

theorem test_wellFormed :
    ([.dblCmdTail 63 0, .coalesceTimeout true 15, .registerWrite 0x3FFFFFC false 0, .bar4Read 0xFFFFFFF 4096, .sppSpiRead [1] 0,
      .sppSpiRead [9] 0, .lka 63, .xfer 63 ⟨[(0, 136, 13)], 0⟩, .slabPageDelivery 63 [36863], .shapeDone 63 63 ⟨[], []⟩, .knownExpiry 15,
      .watchdogExpiry 10] : List Instr).all Instr.wf = true := by decide +kernel

/-- No row of the opcode table has bits, so no word spells a command. -/
theorem test_words : decodeTableWord 32 0 = none ∧ (State.reset.withFetchWord 8 0).pending = [] := ⟨rfl, rfl⟩

/-! ### The spec's worked examples -/

/-- The columns of R307 and R309, by their rules. -/
theorem test_columns :
    kCols = (([2, 3, 4].flatMap fun w => ((List.range 256).filter fun v => popCount 8 v == w).map fun v =>
      if w % 2 = 1 then v else v + 256)).take 128 ∧ gCols = (List.range 512).filter fun v => popCount 9 v == 2 := by
  decide +kernel

/-- 03_arithmetic.md, R101 and R102: the codebook word, and what the codes 0, 7, 8 and 15 add for a = -37. -/
def bookWord : QWord := 0x60402C1E140C0602FEFAF4ECE2D4C0A0
theorem test_fret : wordInt8 ⟨bookWord, false⟩ = [-96, -64, -44, -30, -20, -12, -6, -2, 2, 6, 12, 20, 30, 44, 64, 96] ∧
    ([0, 7, 8, 15].map fun e => weightOf 0 false (wordInt8 ⟨bookWord, false⟩) e * -37) = [3552, 74, -74, -3552] := by decide +kernel
/-- The same: weight -93 in I8 with a = 57. -/
theorem test_fret_i8 : weightOf 2 false [] 3 * 57 = 171 ∧ weightOf 2 true [] 10 * 57 = -5472 := by decide +kernel

/-- 02_engine_tiles.md: a LINEAR table with S = 4.0 and B = 32.0, segment 37. -/
theorem test_lookup :
    let b : Bytes := padTo (32 + 16 * 37) [] ++ leBytes 4 0x3F400000 ++ leBytes 4 0x3E000000 ++ leBytes 4 0xBD800000 ++
      leBytes 4 0x3C800000
    fFma 0x3FA80000 0x40800000 0x42000000 = 0x42150000 ∧ tabPoly b 37 0x3E800000 = 0x3F471000 ∧ bfNarrow 0x3F471000 = 0x3F47 := by
  decide +kernel

/-- 03_arithmetic.md: one output from codes to INT8. -/
theorem test_output :
    let d := fFma 0xC0180000 0x40000000 0
    d = 0xC0980000 ∧ droneMerge 1014 false d 0x40000000 = (1004, false) ∧
      rqIntBits 0 (-128) 127 (1004 - 8 * 114 + 25) 0x40000000 31 (-3) = (55, false) := by decide +kernel

/-- 03_arithmetic.md: ranging over ticks 104 and 105. -/
def hist104 : RangeEntry :=
  { obs := [9812, 11406, 10977, 10233, 0, 0, 0, 0], lastSat := 0, fbCount := 0, head := 4, fill := 4, n := 4, flags := 0 }
theorem test_ranging :
    hist104.running = 11406 ∧ deriveInt 11406 127 = (0x5B36B822, 37) ∧
      rqInt 0 (-128) 127 11406 0x5B36B822 37 0 = (127, false) ∧ rqInt 0 (-128) 127 (-4000) 0x5B36B822 37 0 = (-45, false) ∧
      rqInt 0 (-128) 127 12500 0x5B36B822 37 0 = (127, true) ∧
      (hist104.commit 12500 3 true false false).running = 12500 ∧ (hist104.commit 12500 3 true false false).lastSat = 3 ∧
      deriveInt 12500 127 = (0x533B1077, 37) := by decide +kernel

/-- 08_memory_tiers.md: the data byte at channel offset 148,032 and the line's record at 162,880, on channel 0. -/
theorem test_line : (linePlace false (2 ^ 33) 1000000).1 + 576 = 148032 ∧ (linePlace false (2 ^ 33) 1000000).2 = 162880 ∧
    1000000 % 2048 = 576 ∧ channelOf false 1000000 = 0 := by decide +kernel

/-- 06_resident_weight_store.md: the banks of slab pages 49,152 to 49,155 of a T32 part. -/
theorem test_banks : pagesOf 0x0C000000 16384 = [49152, 49153, 49154, 49155] ∧ bankMask 4 0x0C000000 16384 = 0x00F0 := by
  decide +kernel

/-- 07_weight_images_swaps.md: slabs 16, 17 and 18 with 3, 1 and 2 sectors. -/
theorem test_payload :
    let m : Bytes := padTo 128 (leBytes 7 0 ++ [3]) ++ padTo 80 (leBytes 4 16 ++ [3]) ++ padTo 80 (leBytes 4 17 ++ [1]) ++
      padTo 80 (leBytes 4 18 ++ [2])
    (List.range 7).map (payloadAt m) =
      [some (0, 0), some (1, 0), some (2, 0), some (0, 1), some (2, 1), some (0, 2), none] := by decide +kernel

/-- 09_tensor_compression.md: the codes of the table, the words of the block and the first bits of its section. -/
def codeLens : List Nat := (List.range 256).map fun e =>
  if e = 0x7E ∨ e = 0x7F then 2 else if e = 0x7D ∨ e = 0x80 then 3 else if e = 0 ∨ e = 0x7C then 4
  else if e = 0x7B ∨ e = 0x81 then 6 else if e = 0x7A ∨ e = 0x82 then 7 else 12
theorem test_codes :
    let t := (CodeTable.codes { format := 0, tchk := 0, lens := codeLens })
    t.take 4 = [(0x7E, 2, 0), (0x7F, 2, 1), (0x7D, 3, 4), (0x80, 3, 5)] ∧ t.find? (·.1 = 0x82) = some (0x82, 7, 0x75) ∧
      t.find? (·.1 = 0x01) = some (0x01, 12, 0xEC0) ∧ t.find? (·.1 = 0xFF) = some (0xFF, 12, 0xFB5) ∧
      (expBits t ([0x3F40, 0xBFA0, 0, 0x4010].map (expOf 0))).map packBits = some [0x38, 0x05] ∧
      [0x3F40, 0xBFA0, 0, 0x4010].map (smOf 0) = [0x40, 0xA0, 0, 0x10] ∧ codedWords 0 626 = 22 := by decide +kernel

/-- 10_intake_video.md: the place of pixel (0, 0) and its red. -/
theorem test_pixel : shapePos 0 640 0 1920 = 256 ∧ shapePos 0 360 0 1080 = 256 ∧
    ((camColour [] noSamples).rgb 180 100 160).headD 0 = 248 - 128 := by decide +kernel

/-- 11_host_interface.md: an index wrap. TAIL 2 and 3 are accepted; 65,531 puts the ring into error. -/
def wrapRing : State := (withRing rdy cmdType 5).setRing cmdType 5 { Ring.reset with head := 65532, tail := 65532 }
def tailAfter (v : Word) : Option (Nat × Bool) :=
  match exec (.dblCmdTail 5 v) wrapRing with
  | .next t => some ((t.ring cmdType 5).tail, t.ringHalted cmdType 5)
  | _ => none
theorem test_wrap : tailAfter 2 = some (2, false) ∧ tailAfter 3 = some (3, false) ∧ tailAfter 65531 = some (65532, true) := by
  decide +kernel

/-- FIPS 180-4: SHA-512 of "abc", its first eight bytes. -/
theorem test_sha : (sha512 (ascii "abc")).take 8 = [0xDD, 0xAF, 0x35, 0xA1, 0x93, 0x61, 0x7A, 0xBA] := by decide +kernel

/-! ### Where the hypotheses of the statements are met -/

theorem wit_step : ∃ t, step { rdy with pending := [.refclkMissing] } = .next t := by exact ⟨_, rfl⟩

theorem wit_settled : NoneWaiting State.reset ∧ ∃ t, step State.reset = .next t := ⟨rfl, _, rfl⟩

def tripped : State := rdy.setPower { rdy.power with tripped := true }

theorem wit_tripStops : Obligations.AThermalTripLastsToAPowerOnReset → exec .refclkMissing tripped = .next tripped :=
  fun h => h.1 .refclkMissing tripped rfl rfl

theorem wit_trip : tripped.power.tripped = true ∧ actsAfterTrip .refclkMissing = false ∧
    (match exec .porstNAssert (tripped.setBoot { tripped.boot with porst := true }) with
      | .next t => t.power.tripped
      | _ => true) = false := by decide +kernel

def ringCmd : State := withRing rdy cmdType 3
def ringCpl : State := (withRing rdy cplType 3).setRing cplType 3 { Ring.reset with tail := 5, head := 2 }
def ringRes : State := (withRing rdy resType 3).setRing resType 3 { Ring.reset with tail := 5, head := 2 }

theorem wit_dblCmdTail : Obligations.DoorbellsMoveTheirIndexOrHaltTheRing → ∃ t, exec (.dblCmdTail 3 15) ringCmd = .next t :=
  fun h => okG (met4 ((h.1 ringCmd 3 15 (by decide +kernel)).1) (by decide +kernel))
theorem wit_dblCplHead : Obligations.DoorbellsMoveTheirIndexOrHaltTheRing → ∃ t, exec (.dblCplHead 3 5) ringCpl = .next t :=
  fun h => okG (met4 ((h.1 ringCpl 3 5 (by decide +kernel)).2.1) (by decide +kernel))
theorem wit_dblResHead : Obligations.DoorbellsMoveTheirIndexOrHaltTheRing → ∃ t, exec (.dblResHead 3 5) ringRes = .next t :=
  fun h => okG (met5 ((h.1 ringRes 3 5 (by decide +kernel)).2.2) (by decide +kernel))
theorem wit_dblBad : Obligations.DoorbellsMoveTheirIndexOrHaltTheRing → ∃ t, exec (.dblCmdTail 3 16) ringCmd = .next t :=
  fun h => ok (met5 (h.2 ringCmd 3 16) (by decide +kernel))

def s_ringEnable : State := withRing rdy cplType 0
theorem wit_ringEnable : Obligations.RingsStartAndEnd → ∃ t, exec (.hifRingEnable 0x80000004) s_ringEnable = .next t :=
  fun h => ok (met8 (h.1 s_ringEnable 0x80000004) (by decide +kernel))

def s_ringDisable : State := withRing rdy cmdType 0
theorem wit_ringDisable : Obligations.RingsStartAndEnd → ∃ t, exec (.hifRingDisable 0) s_ringDisable = .next t :=
  fun h => okG (met2 ((met4 (h.2.1 s_ringDisable 0) (by decide +kernel)).1) (by decide +kernel))

def s_ringDisableBusy : State := withCmd (withRing rdy cmdType 0) (waits opQuery [])
theorem wit_ringDisableBusy : Obligations.RingsStartAndEnd → ∃ t, exec (.hifRingDisable 0) s_ringDisableBusy = .next t :=
  fun h => okG (met2 ((met4 (h.2.1 s_ringDisableBusy 0) (by decide +kernel)).2.1) (by decide +kernel))

def s_ringDisableRefused : State := (withRing (withRing rdy cmdType 0) cplType 0).setFld HIF_RING_SEL_TYPE 1
theorem wit_ringDisableRefused : Obligations.RingsStartAndEnd → ∃ t, exec (.hifRingDisable 0) s_ringDisableRefused = .next t :=
  fun h => okG ((met4 (h.2.1 s_ringDisableRefused 0) (by decide +kernel)).2.2.1 (by decide +kernel))

def s_ringDisableCpl : State := (withRing rdy cplType 0).setFld HIF_RING_SEL_TYPE 1
theorem wit_ringDisableCpl : Obligations.RingsStartAndEnd → ∃ t, exec (.hifRingDisable 0) s_ringDisableCpl = .next t :=
  fun h => okG ((met4 (h.2.1 s_ringDisableCpl 0) (by decide +kernel)).2.2.2 (by decide +kernel))

def s_ringDisableDone : State := (withRing rdy cmdType 0).setRingFld HIF_RING_CFG_BUSY cmdType 0 1
theorem wit_ringDisableDone : Obligations.RingsStartAndEnd → ∃ t, exec (.ringDisableDone 0) s_ringDisableDone = .next t :=
  fun h => ok (met3 (h.2.2 s_ringDisableDone 0) (by decide +kernel))

/-- Ring 0 with an entry to accept and a completion ring. -/
def offered : State := (withRing (withRing rdy cmdType 0) cplType 0).setRing cmdType 0 { Ring.reset with tail := 1 }

theorem wit_nextRing : Obligations.TheNextRingServed → offered.nextRing = some 0 ∧ offered.servable 0 = true ∧
    ∀ m, m < 64 → offered.servable m = true → offered.prio m ≤ offered.prio 0 :=
  fun h => ⟨(by decide +kernel), (by decide +kernel), fun m a b => (((h offered).2 0 (by decide +kernel)).2 m a (by decide +kernel) b).1⟩
theorem wit_accept : Obligations.AcceptanceTakesAnEntry → ∃ t, exec (.commandAccept (some [])) offered = .next t :=
  fun h => let ⟨t, _, e, _⟩ := ((met6 (h offered 0) (by decide +kernel)).1 (some []) [] (by decide +kernel)).1 (by decide +kernel); ⟨t, e⟩
theorem wit_acceptFails : Obligations.AcceptanceTakesAnEntry → ∃ t, exec (.commandAccept none) offered = .next t :=
  fun h => ok ((met6 (h offered 0) (by decide +kernel)).2 (by decide +kernel))

def ended : HostCmd := { waits opQuery [] with started := true, result := some (0, 0, 0) }
def s_complete : State := withCmd offered ended
theorem wit_complete : Obligations.CompletionsArePostedAndSignalled → ∃ t, exec (.commandComplete true) s_complete = .next t :=
  fun h => ok (met10 (h.1 s_complete ended 0 0 0) (by decide +kernel))

def s_coalesce : State := (((withRing rdy cplType 0).setRingFld HIF_RING_CFG_IRQ_EN cplType 0 1).setRingFld HIF_RING_COAL_USEC cplType 0
  10).setRing cplType 0 { Ring.reset with unsignalled := 1 }
theorem wit_coalesce : Obligations.CompletionsArePostedAndSignalled → ∃ t, exec (.coalesceTimeout false 0) s_coalesce = .next t :=
  fun h => ok (met5 (h.2 s_coalesce false 0) (by decide +kernel))

/-! Host commands -/

def s_stop : State := withCmd (withSvc memRdy 0 endImg .running) (waits opStopService [])
theorem wit_stop : Obligations.StagingCommandsStage → ∃ t, exec .stopService s_stop = .next t :=
  fun h => ok (met4 ((h.1 s_stop _ (waits opStopService []) ).1 ⟨(by decide +kernel), (by decide +kernel), rfl⟩) (by decide +kernel))

def s_bindNone : State := withCmd (withSvc memRdy 0 endImg .loaded) (waits opBindModel [0, 0xFF])
theorem wit_bindNone : Obligations.StagingCommandsStage → ∃ t, exec .bindModel s_bindNone = .next t :=
  fun h => ok (met6 ((h.1 s_bindNone _ (waits opBindModel [0, 0xFF])).2.1 ⟨(by decide +kernel),
      (by decide +kernel), rfl⟩) (by decide +kernel))

/-- Slot 2 VALID. -/
def withSlot (s : State) : State := s.setSlot 2 { Slot.undefined with state := slValid, slabMask := 1, stripes := 1 }

def s_bind : State := withCmd (withSlot (withSvc memRdy 0 endImg .loaded)) (waits opBindModel [0, 2])
theorem wit_bind : Obligations.StagingCommandsStage → ∃ t, exec .bindModel s_bind = .next t :=
  fun h => ok (met7 ((h.1 s_bind _ (waits opBindModel [0, 2])).2.2.1 ⟨(by decide +kernel), (by decide +kernel), rfl⟩) (by decide +kernel))

def s_swap : State := withCmd (withSlot (memRdy.setSvc 0 { Service.reset with image := endImg, phase := .running, slot := some 1 })) (waits opModelSwap [0, 2])
theorem wit_swap : Obligations.StagingCommandsStage → ∃ t, exec .modelSwap s_swap = .next t :=
  fun h => ok (met8 ((h.1 s_swap _ (waits opModelSwap [0, 2])).2.2.2.1 ⟨(by decide +kernel), (by decide +kernel), rfl⟩) (by decide +kernel))

/-- A CONFIG_EPOCH list of one record: MEM_CTL written 0. -/
def epochList : Bytes := leBytes 4 MEM_CTL.off ++ leBytes 12 4
def epochCmd : HostCmd := waits opConfigEpoch (leBytes 16 0 ++ leBytes 2 1)

def s_configEpoch : State := withCmd memRdy epochCmd
theorem wit_configEpoch : Obligations.StagingCommandsStage → ∃ t, exec (.configEpoch (some epochList)) s_configEpoch = .next t :=
  fun h => ok (met5 ((h.1 s_configEpoch _ epochCmd).2.2.2.2 epochList ⟨(by decide +kernel), (by decide +kernel), rfl⟩) (by decide +kernel))

def startCmd : HostCmd := waits opStartService [0, 0, 0xFF]
def s_start : State := withCmd (withSvc (memRdy.setFld MEM_CTL_POOL_EN 1) 0 endImg .loaded) startCmd
theorem wit_start : Obligations.StagingCommandsStage → ∃ t, exec (.startService none) s_start = .next t :=
  fun h => ok (met4 (h.2.1 s_start _ startCmd none [] ⟨(by decide +kernel), (by decide +kernel), rfl⟩) (by decide +kernel))

def s_fwActivate : State := withCmd (rdy.setFld (fwFld SEC_FW_CORE_OTHER coreSch) bankStaged) (waits opFwActivate [2])
theorem wit_fwActivate : Obligations.StagingCommandsStage → ∃ t, exec .fwActivate s_fwActivate = .next t :=
  fun h => ok (met5 (h.2.2 s_fwActivate _ (waits opFwActivate [2]) ⟨(by decide +kernel), (by decide +kernel), rfl⟩) (by decide +kernel))

def loadCmd (source : Nat) : HostCmd := waits opLoadProgram (leBytes 1 0 ++ leBytes 7 source ++ leBytes 8 0 ++ leBytes 4 416)
def s_load : State := withCmd memRdy (loadCmd 0)
theorem wit_load : Obligations.OtherHostCommandsWork → ∃ t, exec (.loadProgram (some endImg)) s_load = .next t :=
  fun h => ok ((met7 ((h s_load _ (loadCmd 0)).1 (some endImg) (begun memRdy (loadCmd 0)) endImg ⟨(by decide +kernel),
      (by decide +kernel), rfl⟩) (by decide +kernel)
    (by exact Prod.ext rfl (by decide +kernel)) (by decide +kernel)).1 (s_load.progLo) (by decide +kernel)
      (by decide +kernel))

/-- Service 3 runs with a submitted input of 64 bytes in snapshot 1, one of whose buffers fills. -/
def input1 : Input :=
  { newInput (fun _ => 0) (leBytes 1 1 ++ leBytes 1 kindSubmit ++ leBytes 2 0 ++ leBytes 4 64 ++ leBytes 8 0) with
    bufs := [{ Buf.empty with state := .fill }, Buf.empty, Buf.empty] }
def inputSvc : State := memRdy.setSvc 3 { Service.reset with image := endImg, phase := .running, inputs := [input1] }
def submitCmd : HostCmd := waits opSubmitInput (leBytes 16 3 ++ leBytes 4 64)
def s_submit : State := withCmd inputSvc submitCmd
theorem wit_submit : Obligations.OtherHostCommandsWork → ∃ t, exec .submitInput s_submit = .next t :=
  fun h => okG (met5 ((h s_submit _ submitCmd).2.1 input1 ⟨(by decide +kernel), (by decide +kernel), rfl⟩) (by decide +kernel))

def s_query : State := withCmd rdy (waits opQuery [])
theorem wit_query : Obligations.OtherHostCommandsWork → ∃ t, exec (.query true) s_query = .next t :=
  fun h => ok (met3 ((h s_query _ (waits opQuery [])).2.2.1 ⟨(by decide +kernel), (by decide +kernel), rfl⟩) (by decide +kernel))

def s_attest : State := withCmd rdy (waits opAttest [])
theorem wit_attest : Obligations.OtherHostCommandsWork → ∃ t, exec .attest s_attest = .next t :=
  fun h => okG (met3 ((h s_attest _ (waits opAttest [])).2.2.2.1 ⟨(by decide +kernel), (by decide +kernel), rfl⟩) (by decide +kernel))

/-- The identity element of the curve as a public key: any message verifies under it with R the identity and S 0. -/
def weakPub : Bytes := leBytes 32 1
def weakSig : Bytes := leBytes 64 1
def weakKey (roles : Nat) : Option Key := some { pub := weakPub, source := 0, roles := roles }
/-- An image of a core kind under R441, 16 bytes of code. -/
def fwImg (kind : Nat) : Bytes :=
  padTo 128 (ascii "KFWI" ++ leBytes 2 1 ++ leBytes 2 kind ++ leBytes 4 16 ++ leBytes 4 0 ++ leBytes 4 1 ++ leBytes 4 5 ++
    signerId weakPub ++ sha512 (leBytes 16 0)) ++ weakSig ++ leBytes 64 0 ++ leBytes 16 0
def withKeys (s : State) : State := s.setBoot { s.boot with keys := [weakKey 15] }
def stageCmd : HostCmd := waits opFwStage (leBytes 16 2 ++ leBytes 4 272)
def s_fwStage : State := withCmd (withKeys rdy) stageCmd
theorem wit_fwStage : Obligations.OtherHostCommandsWork → ∃ t, exec (.fwStage (some (fwImg 2))) s_fwStage = .next t :=
  fun h => ok (met5 ((h s_fwStage _ stageCmd).2.2.2.2 (some (fwImg 2)) (begun (withKeys rdy) stageCmd) (fwImg 2) ⟨(by decide +kernel), (by decide +kernel), rfl⟩) (by decide +kernel)
    (by exact Prod.ext rfl (by decide +kernel)) (by decide +kernel))

def scrubCmd : HostCmd := waits opScrub (leBytes 8 0 ++ leBytes 8 0x1000000000 ++ leBytes 8 64)
def s_scrub : State := withCmd rdy scrubCmd
theorem wit_scrub : Obligations.ScrubAndCancelEnd → ∃ t, exec (.scrub [] true) s_scrub = .next t :=
  fun h => ok (met5 ((h s_scrub _ scrubCmd).1 [] 0 ⟨(by decide +kernel), (by decide +kernel), rfl⟩) (by decide +kernel))

def cancelCmd : HostCmd := { waits opStopService [0] with bytes := padTo 64 (leBytes 2 (opStopService + 512)) }
def s_cancel : State := { withCmd (withSvc rdy 0 endImg .running) cancelCmd with
  staged := [{ kind := .stop 0, target := 1, cmd := some 5, armed := true, agreed := none, ctick := none }] }
theorem wit_cancel : Obligations.ScrubAndCancelEnd → ∃ t, exec .cancel s_cancel = .next t :=
  fun h => ok (met4 ((h s_cancel s_cancel cancelCmd).2) (by decide +kernel))

def eraseCmd : HostCmd := waits opNvErase ([2, 0, 0, 0xFF] ++ leBytes 2 0 ++ leBytes 2 1 ++ leBytes 8 1)
def s_nvErase : State := withCmd (rdy.modBlock (blockKey 0 0 0) fun b => { b with erased := false }) eraseCmd
/-- The slot holds stripe 0 of slab 0, and is cleared. -/
def clearCmd : HostCmd := waits opNvErase [2, 0, 0, 0xFF]
def s_nvClear : State :=
  withCmd ((rdy.modBlock (blockKey 0 0 0) fun b => { b with erased := false }).setSlot 2
    { Slot.undefined with state := slValid, stripes := 1, slabMask := 1 }) clearCmd
theorem wit_nvErase : Obligations.NvCommandsBeginTheirWork →
    (∃ t, exec .nvErase s_nvErase = .next t) ∧ ∃ t, exec .nvErase s_nvClear = .next t :=
  fun h => ⟨ok (met2 ((met8 ((h s_nvErase _ eraseCmd).1 ⟨(by decide +kernel), (by decide +kernel), (by decide +kernel),
      (by decide +kernel), (by decide +kernel), rfl⟩) (by decide +kernel)).2) (by decide +kernel)),
    ok ((met8 ((h s_nvClear _ clearCmd).1 ⟨(by decide +kernel), (by decide +kernel), (by decide +kernel), (by decide +kernel),
      (by decide +kernel), rfl⟩) (by decide +kernel)).1 (by decide +kernel))⟩

def programCmd : HostCmd := waits opNvProgram [2, 0, 0, 0xFF]
def s_nvProgram : State := withCmd (rdy.setSlot 2 { Slot.undefined with state := slEmpty }) programCmd
theorem wit_nvProgram : Obligations.NvCommandsBeginTheirWork → ∃ t, exec (.nvProgram (some [])) s_nvProgram = .next t :=
  fun h => ok (met8 ((h s_nvProgram _ programCmd).2 [] ⟨(by decide +kernel), (by decide +kernel), (by decide +kernel),
      (by decide +kernel), (by decide +kernel), rfl⟩) (by decide +kernel))

/-! Tile stores, tick settings, page reads, coding tables, regions -/

theorem wit_tilMem : Obligations.TileStoresAreReachedAndInvalidated →
    (∃ t, exec (.tilMemRead 5) rdy = .next t) ∧ ∃ t, exec (.tilMemWrite 5) rdy = .next t :=
  fun h => let ⟨a, _, _, b⟩ := met3 ((h.1 rdy 5 (by decide +kernel)).1) (by decide +kernel); ⟨okG a, okG b⟩
def s_tilMemRefused : State := rdy.setFld (TIL_STATE_STATE.tile 5) tsRunning
theorem wit_tilMemRefused : Obligations.TileStoresAreReachedAndInvalidated →
    (∃ t, exec (.tilMemRead 5) s_tilMemRefused = .next t) ∧ ∃ t, exec (.tilMemWrite 5) s_tilMemRefused = .next t :=
  fun h => let ⟨a, b⟩ := (h.1 s_tilMemRefused 5 (by decide +kernel)).2.1 (by decide +kernel) (.inr (by decide +kernel)); ⟨okG a, okG b⟩

def s_tilMemWritten : State := rdy.modTile 5 fun x => { x with access := some (9, some 77) }
theorem wit_tilMemWritten : Obligations.TileStoresAreReachedAndInvalidated → ∃ t, exec (.tilMemAccessDone 5) s_tilMemWritten = .next t :=
  fun h => ok (met2 ((h.1 s_tilMemWritten 5 (by decide +kernel)).2.2.1 9 77) (by decide +kernel))

def s_tilMemReadDone : State := rdy.modTile 5 fun x => { x with access := some (9, none), store := [(9, CWord.enc 9 ⟨77, false⟩)] }
theorem wit_tilMemReadDone : Obligations.TileStoresAreReachedAndInvalidated → ∃ t, exec (.tilMemAccessDone 5) s_tilMemReadDone = .next t :=
  fun h => ok (met3 ((h.1 s_tilMemReadDone 5 (by decide +kernel)).2.2.2 9 (CWord.enc 9 ⟨77, false⟩)) (by decide +kernel))

theorem wit_inval : Obligations.TileStoresAreReachedAndInvalidated → ∃ t, exec (.tilInval 5) rdy = .next t :=
  fun h => okG (met3 ((h.2 rdy 5 (by decide +kernel)).1) (by decide +kernel))
def s_invalDone : State := rdy.modTile 5 fun x => { x with invalidating := true }
theorem wit_invalDone : Obligations.TileStoresAreReachedAndInvalidated → ∃ t, exec (.bulkInvalidateDone 5) s_invalDone = .next t :=
  fun h => ok (met3 ((h.2 s_invalDone 5 (by decide +kernel)).2) (by decide +kernel))

/-- A class A service runs, so that the tick settings are locked. -/
def lockedImg : Bytes := mkImg 1 7 1 1000 0 (oneTile [0, 1, 2] (tcmd opEnd 0 1000 []) [] [])
def lockedTick : State := withSvc rdy 0 lockedImg .running

theorem wit_period : Obligations.TickWritesAreChecked → ∃ t, exec (.tckPeriodWrite 20000) rdy = .next t :=
  fun h => okG (met2 (((h.1 rdy 20000).1 (by decide +kernel)).1) (by decide +kernel))
theorem wit_periodLocked : Obligations.TickWritesAreChecked → ∃ t, exec (.tckPeriodWrite 20000) lockedTick = .next t :=
  fun h => okG (((h.1 lockedTick 20000).1 (by decide +kernel)).2 (by decide +kernel))
theorem wit_periodRange : Obligations.TickWritesAreChecked → ∃ t, exec (.tckPeriodWrite 9999) rdy = .next t :=
  fun h => okG (((h.1 rdy 9999).1 (by decide +kernel)).2 (by decide +kernel))
theorem wit_phase : Obligations.TickWritesAreChecked →
    (∃ t, exec (.tckPhaseWrite 5) rdy = .next t) ∧ ∃ t, exec (.tckPhaseWrite 5) lockedTick = .next t :=
  fun h => ⟨okG (((h.1 rdy 5).2.1 (by decide +kernel)).1 (by decide +kernel)), okG (((h.1 lockedTick 5).2.1
      (by decide +kernel)).2 (by decide +kernel))⟩
theorem wit_tickin : Obligations.TickWritesAreChecked →
    (∃ t, exec (.tckTickinWrite 5) rdy = .next t) ∧ ∃ t, exec (.tckTickinWrite 5) lockedTick = .next t :=
  fun h => ⟨okG (((h.1 rdy 5).2.2 (by decide +kernel)).1 (by decide +kernel)), okG (((h.1 lockedTick 5).2.2
      (by decide +kernel)).2 (by decide +kernel))⟩
theorem wit_tickSrc : Obligations.TickWritesAreChecked →
    (∃ t, exec (.tckSrcWrite 1) rdy = .next t ∧ t.fld TCK_CTL_SRC = 1) ∧
      ∃ t, exec (.slackRst 0x83) rdy = .next t ∧ t.fld TCK_STATUS_SRC_REJ = 1 :=
  fun h =>
    let ⟨t, e, _, _, _, a, _⟩ := h.2 rdy 1 (.tckSrcWrite 1) (.inl rfl) (by decide +kernel)
    let ⟨u, f, _, _, _, _, b, _⟩ := h.2 rdy 0x83 (.slackRst 0x83) (.inr rfl) (by decide +kernel)
    ⟨⟨t, e, (met2 a (by decide +kernel)).1⟩, u, f, (b (by decide +kernel)).1⟩
theorem wit_tickSrcLocked : Obligations.TickWritesAreChecked →
    ∃ t, exec (.tckSrcWrite 1) lockedTick = .next t ∧ t.fld TCK_STATUS_SRC_REJ = 1 :=
  fun h => let ⟨t, e, _, _, _, _, b, _⟩ := h.2 lockedTick 1 (.tckSrcWrite 1) (.inl rfl) (by decide +kernel); ⟨t, e, (b (by decide +kernel)).1⟩

/-- The page address of page 3 of slab 2. -/
def pageRdy : State := rdy.setFld NVS_PAGE_ADDR_PAGE (0x2000000000 / 4096 + 2 * 131072 + 3)

theorem wit_pageRefused : Obligations.HostPageReads → ∃ t, exec .nvsPageRead rdy = .next t :=
  fun h => ok (met3 ((h rdy).2.1) (by decide +kernel))
/-- A page read is in progress. -/
def pageBusy : State := (pageRdy.setNv { pageRdy.nv with hostRead := some (pageRdy.hostReadOf 0x2000000000) }).setFld NVS_PAGE_CTL_BUSY 1
theorem wit_pageBusy : Obligations.HostPageReads → ∃ t, exec .nvsPageRead pageBusy = .next t :=
  fun h => okG (met2 ((h pageBusy).1) (by decide +kernel))
theorem pageRdy_mapped : pageRdy.mapped 2 (pageRdy.place 2 3).plane (pageRdy.place 2 3).lblock = some (blockKey 2 3 0) := (by decide +kernel)
theorem pageRdy_page : pageRdy.pageAt (blockKey 2 3 0) (pageRdy.place 2 3).pg = none := (by decide +kernel)
theorem wit_pageRead : Obligations.HostPageReads → ∃ t, exec .nvsPageRead pageRdy = .next t :=
  fun h => okG (met4 ((h pageRdy).2.2.1 2 3) (by decide +kernel) (fun bk e => by
    obtain rfl : blockKey 2 3 0 = bk := Option.some.inj (pageRdy_mapped.symm.trans e)
    exact ⟨(by decide +kernel), fun p hp => nomatch pageRdy_page.symm.trans hp⟩))

/-- The place of that page, a page program of it, and the page once written. -/
def pagePlace : PagePlace := rdy.place 2 3
def progOp : PageOp :=
  { start := 0, page := 2 * 2 ^ 17 + 3, block := blockKey 2 3 0, data := List.replicate 256 5, kind := 1, image := 9, slot := none }
def thePage : Page := { words := progOp.data, tag := makeTag 1 pagePlace 1 9, partly := false }

def s_pageDone : State := rdy.setNv { rdy.nv with
  hostRead := some (rdy.hostReadOf (0x2000000000 + 2 * 0x20000000 + 3 * 4096)), pages := [(pageKey (blockKey 2 3 0) 0, thePage)] }
theorem wit_pageDone : Obligations.HostPageReads → ∃ t, exec (.nvsPageReadDone []) s_pageDone = .next t :=
  fun h => ok (met10 ((h s_pageDone).2.2.2.1 (rdy.hostReadOf (0x2000000000 + 2 * 0x20000000 + 3 * 4096)) 2 3 (blockKey 2 3 0) []) (by decide +kernel))

/-- The buffer holds a table of format 0 with one code of one bit. -/
def tabRdy : State := rdy.setFld (CMP_TAB_BUF_DATA.at 16) 1
def oneCode : CodeTable := (tableOf (leBytes 16 0 ++ leBytes 128 1)).getD ⟨0, 0, []⟩
/-- A program with a descriptor of a coded transfer of one row of 512 bytes at LPDDR address 0, with coding-table slot 3. -/
def codedXfer : Bytes :=
  padTo 32 (leBytes 1 1 ++ leBytes 3 0x0E ++ leBytes 8 0 ++ leBytes 4 512 ++ leBytes 2 1 ++ leBytes 2 1)
def codedImg : Bytes := mkImg 3 1 1 1000 0 (oneTile [0] (tcmd opXfer 0 0 [] ++ tcmd opEnd 0 1000 []) codedXfer [])

theorem wit_tabLoad : Obligations.CodingTables → ∃ t, exec (.cmpTabLoad 3) tabRdy = .next t :=
  fun h => okG (met4 ((h tabRdy 3 (by decide +kernel)).1 oneCode) (by decide +kernel))
theorem wit_tabRefused : Obligations.CodingTables → ∃ t, exec (.cmpTabLoad 3) rdy = .next t :=
  fun h => okG (met2 ((h rdy 3 (by decide +kernel)).2.1) (by decide +kernel))
theorem wit_tabClear : Obligations.CodingTables → ∃ t, exec (.cmpTabClear 3) rdy = .next t :=
  fun h => okG (met3 ((h rdy 3 (by decide +kernel)).2.2.1) (by decide +kernel))
def s_tabPinned : State := withSvc rdy 0 codedImg .running
theorem wit_tabPinned : Obligations.CodingTables → ∃ t, exec (.cmpTabClear 3) s_tabPinned = .next t :=
  fun h => okG (met2 ((h s_tabPinned 3 (by decide +kernel)).2.2.2.1) (by decide +kernel))

def s_tabApply : State := rdy.setMem { rdy.mem with tableOp := some (3, some oneCode) }
theorem wit_tabApply : Obligations.CodingTables → ∃ t, exec .cmpTabApply s_tabApply = .next t :=
  fun h => ok (met3 ((h s_tabApply 3 (by decide +kernel)).2.2.2.2 (some oneCode)) (by decide +kernel))

theorem wit_region : Obligations.RegionAndPoolWrites →
    (∃ t, exec (.cmpRegionWrite false 0) memRdy = .next t) ∧ (∃ t, exec (.cmpRegionWrite true 0x80000001) memRdy = .next t) ∧
      ∃ t, exec (.cmpRegionWrite true 0x807FFFFF) rdy = .next t :=
  fun h => ⟨okG (met2 (((h memRdy 0 0).1 (by decide +kernel)).1) (by decide +kernel)), okG (met2 (((h memRdy 0 0x80000001).2.1 (by decide +kernel)).1) (by decide +kernel)),
    okG (((h rdy 0 0x807FFFFF).2.1 (by decide +kernel)).2 (by decide +kernel))⟩
def s_regionUsed : State := withSvc ((memRdy.setFld (CMP_REGION_SIZE_EN.bank 0) 1).setFld (CMP_REGION_SIZE_BLOCKS.bank 0) 64) 0 codedImg .running
theorem wit_regionUsed : Obligations.RegionAndPoolWrites → ∃ t, exec (.cmpRegionWrite false 0) s_regionUsed = .next t :=
  fun h => okG (((h s_regionUsed 0 0).1 (by decide +kernel)).2 (by decide +kernel))

theorem wit_poolSetting : Obligations.RegionAndPoolWrites →
    (∃ t, exec (.memPoolSettingWrite false 8) memRdy = .next t) ∧ ∃ t, exec (.memPoolSettingWrite true 8) memRdy = .next t :=
  fun h => ⟨okG (met3 (((h memRdy 8 0).2.2.1 false (by decide +kernel)).1) (by decide +kernel)), okG (met3 (((h memRdy 8 0).2.2.1 true (by decide +kernel)).1) (by decide +kernel))⟩
def s_poolSettingRefused : State := memRdy.setFld MEM_CTL_POOL_EN 1
theorem wit_poolSettingRefused : Obligations.RegionAndPoolWrites → ∃ t, exec (.memPoolSettingWrite true 8) s_poolSettingRefused = .next t :=
  fun h => okG (((h s_poolSettingRefused 8 0).2.2.1 true (by decide +kernel)).2 (by decide +kernel))

/-- A range of the pool with one frame, held. -/
def range0 : PoolRange :=
  { svc := 4, range := 1, base := 0, size := 256, keep := false, wherein := .held, frames := [40], touched := 0, tainted := false,
    fails := 0, backing := 0, origin := .never, redo := false, dying := false, life := 0 }
def pooled (r : PoolRange) : State :=
  let s := memRdy.setFld MEM_CTL_POOL_EN 1
  s.setMem { s.mem with pool := [r] }

theorem wit_poolEn : Obligations.RegionAndPoolWrites →
    (∃ t, exec (.memPoolEnWrite 2) memRdy = .next t) ∧ (∃ t, exec (.memPoolEnWrite 0) memRdy = .next t) ∧
      ∃ t, exec (.memPoolEnWrite 0) (pooled range0) = .next t :=
  fun h => ⟨okG (((h memRdy 2 0).2.2.2 (by decide +kernel)).1 (by decide +kernel)), okG (met2 (((h memRdy 0 0).2.2.2
      (by decide +kernel)).2.1) (by decide +kernel)),
    okG (met3 (((h (pooled range0) 0 0).2.2.2 (by decide +kernel)).2.2) (by decide +kernel))⟩

def fillCmd : HostCmd := waits opFill (leBytes 8 0 ++ leBytes 8 0x10000 ++ leBytes 8 512)
def s_fill : State := withCmd memRdy fillCmd
theorem wit_fill : Obligations.CopiesAndInputsLand → ∃ t, exec .fill s_fill = .next t :=
  fun h => ok (met4 ((h.1 s_fill _ fillCmd).1 ⟨(by decide +kernel), (by decide +kernel), rfl⟩) (by decide +kernel))

def s_inputDone : State := inputSvc.setIntake { inputSvc.intake with inputDma := [(7, 3, 0)] }
theorem wit_inputDone : Obligations.CopiesAndInputsLand → (∃ t, exec (.inputDmaDone (some [])) s_inputDone = .next t) ∧
    ∃ t, exec (.inputDmaDone none) s_inputDone = .next t :=
  fun h =>
    let ⟨a, b⟩ := met2 ((h.1 s_inputDone s_inputDone fillCmd).2.2 7 3 0) (by decide +kernel)
    ⟨ok (met2 (b [] input1 { Buf.empty with state := .fill } [Buf.empty, Buf.empty]) (by decide +kernel)), ok a⟩
def s_inputHeld : State := s_inputDone.setHif { s_inputDone.hif with d3hot := true }
theorem wit_inputHeld : Obligations.CopiesAndInputsLand → ∃ t, exec (.inputDmaDone (some [])) s_inputHeld = .next t :=
  fun h => okG (met2 (h.1 s_inputHeld s_inputHeld fillCmd).2.1 (by decide +kernel) (some []))

def s_copyDone : State := withSvc rdy 0 endImg .staged
theorem wit_copyDone : Obligations.CopiesAndInputsLand →
    (∃ t, exec (.programCopyDone 0) s_copyDone = .next t) ∧ ∃ t, exec (.zeroInitFillDone 0) s_copyDone = .next t :=
  fun h => ⟨ok (met2 ((met2 (h.2 s_copyDone 0) (by decide +kernel)).1) (by decide +kernel)), ok (met4 ((met2 (h.2 s_copyDone 0) (by decide +kernel)).2) (by decide +kernel))⟩

/-! Loading, fuses, signed commands, SPP_SPI, and the writes of the other blocks -/

/-- Released, with no core running. -/
def rel : State := withKeys ((State.reset.setDev stReleased).setFld HIF_LINK_UP 1)
/-- A bundle of the four images (R443). -/
def bundle : Bytes :=
  padTo 256 (ascii "KFWB" ++ leBytes 4 1 ++ leBytes 8 2064 ++ leBytes 4 256 ++ leBytes 4 272 ++ leBytes 4 768 ++ leBytes 4 272 ++
    leBytes 4 1280 ++ leBytes 4 272 ++ leBytes 4 1792 ++ leBytes 4 272) ++ padTo 512 (fwImg 0) ++ padTo 512 (fwImg 1) ++
    padTo 512 (fwImg 2) ++ fwImg 3
def loading : State := (rel.setFld SEC_BOOT_CTL_BUSY 1).setFld SEC_BOOT_LEN_BYTES 2064
/-- A standalone device whose configuration image places a bundle at a flash offset. -/
def alone : State :=
  let s := rel.setFld ID_STRAPS_BOOT_SRC 1
  s.setBoot { s.boot with config := cfgImg (leBytes 32 8 ++ leBytes 4 4096 ++ leBytes 4 2064) }

theorem wit_bootGo : Obligations.LoadsStartEveryCoreOrNone →
    (∃ t, exec .secBootGo rel = .next t) ∧ ∃ t, exec .secBootGo (rel.setBoot { rel.boot with coresUp := true }) = .next t :=
  fun h => ⟨okG (met5 ((h rel).1) (by decide +kernel)), okG (met3 ((h (rel.setBoot { rel.boot with coresUp := true })).2.1) (by decide +kernel))⟩
theorem wit_hosted : Obligations.LoadsStartEveryCoreOrNone →
    (∃ t, exec (.hostedLoadDone none) loading = .next t) ∧ (∃ t, exec (.hostedLoadDone (some [])) loading = .next t) ∧
      ∃ t, exec (.hostedLoadDone (some bundle)) loading = .next t ∧ Loaded t (sliceZ bundle 0 (loading.fld SEC_BOOT_LEN_BYTES)) :=
  fun h =>
    let ⟨a, b, c⟩ := met3 ((h loading).2.2.2.1) (by decide +kernel)
    let ⟨t, e, l, _⟩ := c bundle (by decide +kernel)
    ⟨ok a, okG (b [] (by decide +kernel)), t, e, l⟩
theorem wit_standalone : Obligations.LoadsStartEveryCoreOrNone →
    (∃ t, exec (.standaloneBootDone (some bundle)) alone = .next t) ∧ ∃ t, exec (.standaloneBootDone none) alone = .next t :=
  fun h => let ⟨a, b⟩ := met5 ((h alone).2.2.2.2) (by decide +kernel); ⟨ok (met2 (a bundle) (by decide +kernel)), ok (b none nofun)⟩

def owned : State := rdy.setBoot { rdy.boot with fuses := { rdy.boot.fuses with ownerHash := some [] } }
def stagedFw : State := rdy.setFld (fwFld SEC_FW_CORE_OTHER 3) bankStaged
theorem wit_fuses : Obligations.FuseOperations → (∃ t, exec .provision rdy = .next t) ∧ (∃ t, exec .provision owned = .next t) ∧
    (∃ t, exec .svnCommit rdy = .next t) ∧ ∃ t, exec .svnCommit stagedFw = .next t :=
  fun h => ⟨okG ((met3 ((h rdy).1) (by decide +kernel)).1
      (by decide +kernel)), okG ((met3 ((h owned).1) (by decide +kernel)).2.1
      (by decide +kernel)), okG ((met3 ((h rdy).1) (by decide +kernel)).2.2.1
      (by decide +kernel)),
    okG ((met3 ((h stagedFw).1) (by decide +kernel)).2.2.2 (by decide +kernel))⟩
def fusing (o : FuseOp) : State := rdy.setBoot { rdy.boot with secOp := some o }
theorem wit_fusesDone : Obligations.FuseOperations →
    (∃ t, exec (.secOperationDone true) (fusing (.provision [1])) = .next t) ∧
      (∃ t, exec (.secOperationDone true) (fusing (.svn 3)) = .next t) ∧
      ∃ t, exec (.secOperationDone false) (fusing (.svn 0)) = .next t :=
  fun h => ⟨okG (met2 ((h (fusing (.provision [1]))).2.1 [1]) (by decide +kernel)), okG (met3 ((h (fusing (.svn 3))).2.2.1 3) (by decide +kernel)),
    okG (met3 ((h (fusing (.svn 0))).2.2.2 0 false) (by decide +kernel))⟩

def guarded : State := rdy.setFld ID_STRAPS_SPP_EN 1
theorem wit_scmd : Obligations.SignedCommands → (∃ t, exec .sppScmdGo guarded = .next t) ∧
    ∃ t, exec .signedCommandChecked (guarded.setSpp { guarded.spp with checking := some [] }) = .next t :=
  fun h => ⟨okG (met4 ((h guarded).1) (by decide +kernel)),
    ok (met7 ((h (guarded.setSpp { guarded.spp with checking := some [] })).2 []) (by decide +kernel))⟩

/-- The first nine bytes of a transaction (R469). -/
def mosi (op off v : Nat) : Bytes :=
  let b := leBytes 1 op ++ leBytes 2 off ++ leBytes 4 v
  b ++ leBytes 2 (crc16 b)
theorem wit_spiRead : Obligations.SpiTransactions → ∃ t, exec (.sppSpiRead (mosi 1 0 0) 128) guarded = .next t :=
  fun h => okS (met2 ((met2 (h guarded (mosi 1 0 0) 0 0) (by decide +kernel)).1 SPP_STATE 0xB00000 0xB00000 (by unfold Carries; exact (by decide +kernel))) (by decide +kernel))
theorem wit_spiWrite : Obligations.SpiTransactions → ∃ t, exec (.sppSpiWrite (mosi 2 8 1) 128) guarded = .next t :=
  fun h => okS (met2 ((met2 (h guarded (mosi 2 8 1) 8 1) (by decide +kernel)).2.1 (((spiReg 8).map (·.1)).getD SPP_STATE) 0xB00008 0xB00008
    (by unfold Carries; exact (by decide +kernel))) (by decide +kernel))
def submitted : State :=
  guarded.setSpp { guarded.spp with spiSet := some { records := [], since := 0, start := false } }
theorem wit_spiCommit : Obligations.SpiTransactions → (∃ t, exec (.sppSpiCommit (mosi 3 0 0) 128) guarded = .next t) ∧
    ∃ t, exec (.sppSpiCommit (mosi 3 0 0) 128) submitted = .next t :=
  fun h => ⟨okS ((met2 ((met2 (h guarded (mosi 3 0 0) 0 0) (by decide +kernel)).2.2.1 (by unfold Carries; exact (by decide +kernel))) (by decide +kernel)).1 (by decide +kernel)),
    okS ((met2 ((met2 (h submitted (mosi 3 0 0) 0 0) (by decide +kernel)).2.2.1 (by unfold Carries; exact (by decide +kernel))) (by decide +kernel)).2 (by decide +kernel))⟩
theorem wit_spiAbort : Obligations.SpiTransactions → (∃ t, exec (.sppSpiAbort (mosi 4 0 0) 128) guarded = .next t) ∧
    (∃ t, exec (.sppSpiStatus (mosi 5 0 0) 128) guarded = .next t) ∧ ∃ t, exec (.sppSpiAbort [4] 128) guarded = .next t :=
  fun h => ⟨okS ((met2 (h guarded (mosi 4 0 0) 0 0) (by decide +kernel)).2.2.2.1 (by unfold Carries; exact (by decide +kernel)) (by decide +kernel)),
    okS ((met2 (h guarded (mosi 5 0 0) 0 0) (by decide +kernel)).2.2.2.2.1 (by unfold Carries; exact (by decide +kernel)) (by decide +kernel)),
    ok ((met2 (h guarded [4] 0 0) (by decide +kernel)).2.2.2.2.2
        (by decide +kernel) (.sppSpiAbort [4] 128) (.inr (.inr (.inr (.inl rfl)))))⟩

theorem wit_cnsCtl : Obligations.ConsortWrites → (∃ t, exec (.cnsLeave 0xA0000000) rdy = .next t) ∧
    ∃ t, exec (.cnsEnWrite 0x80000000) rdy = .next t :=
  fun h => ⟨ok (met3 ((h rdy 0xA0000000).1) (by decide +kernel) _ (.inl rfl)), ok (met3 ((h rdy 0x80000000).1) (by decide +kernel) _ (.inr rfl))⟩
def leads : State := rdy.setFld CNS_ID_LEADER 1
theorem wit_form : Obligations.ConsortWrites → (∃ t, exec (.form 0x80000003) leads = .next t) ∧
    ∃ t, exec (.dissolve 0x40000000) rdy = .next t :=
  fun h => ⟨okG (met4 ((h leads 0x80000003).2.2.1) (by decide +kernel)), okG (met3 ((h rdy 0x40000000).2.1) (by decide +kernel) _ (.inr rfl))⟩
def s_dissolve : State := leads.setCns { leads.consort with formed := true }
theorem wit_dissolve : Obligations.ConsortWrites → ∃ t, exec (.dissolve 0x40000000) s_dissolve = .next t :=
  fun h => ok (met5 ((h s_dissolve 0x40000000).2.2.2.1) (by decide +kernel))

theorem wit_plan : Obligations.ConsortWrites → ∃ t, exec (.cnsPlanWrite 2 0x80) rdy = .next t :=
  fun h => ok (met2 ((h rdy 0x80).2.2.2.2 2) (by decide +kernel))

theorem wit_env : Obligations.EnvelopeRequests → ∃ t, exec (.envReqWrite 2) rdy = .next t ∧ t.fld PWR_AVS_BUSY = 1 :=
  fun h => let ⟨t, e, _, _, _, _, a⟩ := (h rdy 2 (by decide +kernel)).1 (by decide +kernel); ⟨t, e, (met10 a (by decide +kernel)).2.2.1⟩
def pmcStopped : State := rdy.setFld (fwFld SEC_FW_CORE_STATE corePmc) fwRestarting
theorem wit_envRefused : Obligations.EnvelopeRequests → ∃ t, exec (.envReqWrite 2) pmcStopped = .next t :=
  fun h => okG (met2 ((h pmcStopped 2 (by decide +kernel)).2) (by decide +kernel))

theorem wit_sleepReq : Obligations.SleepIsRequestedAndLeft → (∃ t, exec .sleepReqRest rdy = .next t) ∧
    ∃ t, exec .sleepReqPizzicato rdy = .next t :=
  fun h => ⟨okG ((h.1 rdy .sleepReqRest false (.inl ⟨rfl, rfl⟩) (by decide +kernel)).1 (by decide +kernel)),
    okG ((h.1 rdy .sleepReqPizzicato true (.inr ⟨rfl, rfl⟩) (by decide +kernel)).2 (by decide +kernel))⟩
/-- In REST, with every wake source enabled. -/
def resting : State :=
  ((((((rdy.setDev stRest).setFld PWR_STATE_STATE slRest).setFld PWR_WAKE_CTL_PCIE_EN 1).setFld PWR_WAKE_CTL_TICKIN_EN 1).setFld
    PWR_WAKE_CTL_ETH0 1).setFld INT_PORT_STAT_LINK0 1).setPower { rdy.power with refclk := true }
theorem wit_wakes : Obligations.SleepIsRequestedAndLeft → (∃ t, exec .pwrWakeGo resting = .next t) ∧
    (∃ t, exec (.ethWakeFrame 0 []) resting = .next t) ∧ ∃ t, exec (.tickInWake false) resting = .next t :=
  fun h => ⟨ok (met4 (h.2.1 resting .pwrWakeGo 3 (.inl ⟨rfl, rfl, (by decide +kernel), (by decide +kernel)⟩)) (by decide +kernel)),
    ok (met4 (h.2.1 resting (.ethWakeFrame 0 []) 1 (.inr (.inl ⟨0, [], rfl, rfl, (by decide +kernel),
        (by decide +kernel), (by decide +kernel), (by decide +kernel)⟩))) (by decide +kernel)),
    ok (met4 (h.2.1 resting (.tickInWake false) 4 (.inr (.inr ⟨false, rfl, rfl, (by decide +kernel),
        (by decide +kernel), (by decide +kernel)⟩))) (by decide +kernel))⟩
theorem wit_pads : Obligations.SleepIsRequestedAndLeft → ∃ t, exec .padRelease (rdy.setFld PWR_PAD_CTL_HOLD 1) = .next t :=
  fun h => okS (met3 (h.2.2 (rdy.setFld PWR_PAD_CTL_HOLD 1)) (by decide +kernel))

def onRails (s : State) : State := s.setBoot { s.boot with rails := true }
/-- The PEC byte of a write of a value to ID_RESET_CTL over SMBus. -/
def resetPec (v : Word) : Option Byte :=
  some (pecOf ([smbusToWrite, 0x12, 8] ++ leBytes 4 ID_RESET_CTL.off ++ leBytes 4 v.toNat))
theorem wit_deviceReset : Obligations.DeviceResets → (∃ t, exec (.deviceResetRequest 0x4B520001) rdy = .next t) ∧
    ∃ t, exec (.smbusWrite ID_RESET_CTL.off 0x4B520001 (resetPec 0x4B520001)) (onRails rdy) = .next t :=
  fun h => ⟨ok (met3 (((h rdy 0x4B520001 (by decide +kernel)).1 (by decide +kernel)).1) (by decide +kernel)),
    ok (met3 ((met2 ((h (onRails rdy) 0x4B520001 (by decide +kernel)).2) (by decide +kernel) (resetPec 0x4B520001)
      (by decide +kernel)).1) (by decide +kernel))⟩
/-- Released, with the link up. -/
def notReady : State := rel.setFld HIF_LINK_UP 1
theorem wit_deviceResetRefused : Obligations.DeviceResets → (∃ t, exec (.deviceResetRequest 1) rdy = .next t) ∧
    (∃ t, exec (.deviceResetRequest 0x4B520001) notReady = .next t) ∧
    (∃ t, exec (.smbusWrite ID_RESET_CTL.off 1 (resetPec 1)) (onRails rdy) = .next t) ∧
    ∃ t, exec (.smbusWrite ID_RESET_CTL.off 0x4B520001 (resetPec 0x4B520001)) (onRails notReady) = .next t :=
  fun h => ⟨okG (((h rdy 1 (by decide +kernel)).1 (by decide +kernel)).2.1 (by decide +kernel)),
    okG (met2 (((h notReady 0x4B520001 (by decide +kernel)).1 (by decide +kernel)).2.2) (by decide +kernel)),
    okG ((met2 ((h (onRails rdy) 1 (by decide +kernel)).2) (by decide +kernel) (resetPec 1) (by decide +kernel)).2.1 (by decide +kernel)),
    okG (met2 ((met2 ((h (onRails notReady) 0x4B520001 (by decide +kernel)).2) (by decide +kernel) (resetPec 0x4B520001)
      (by decide +kernel)).2.2) (by decide +kernel))⟩

def vidRdy : State := memRdy.setFld VID_MEM_SIZE_FRAMES 32
def portOff : State := rdy.setFld (portCtl INT_PORT_CTL_EN 1) 0
theorem wit_video : Obligations.VideoAndPortWrites → (∃ t, exec (.vidStreamCtlWrite 0x80002000) vidRdy = .next t) ∧
    (∃ t, exec (.vidEncCtlWrite 0x40000000) rdy = .next t) ∧ (∃ t, exec (.vidMemWrite false 0) memRdy = .next t) ∧
    ∃ t, exec (.intPortCtlWrite 1 1) portOff = .next t :=
  fun h => ⟨ok (met5 ((h vidRdy 0x80002000).1) (by decide +kernel)), ok (met3 ((h rdy 0x40000000).2.1) (by decide +kernel)),
    okG (met3 (((h memRdy 0).2.2.1 false (by decide +kernel)).1) (by decide +kernel)), ok (met3 ((h portOff 1).2.2.2 1) (by decide +kernel))⟩
def s_vidMemRefused : State := rdy.setFld (VID_STREAM_CTL_EN.bank 3) 1
theorem wit_vidMemRefused : Obligations.VideoAndPortWrites → ∃ t, exec (.vidMemWrite true 0) s_vidMemRefused = .next t :=
  fun h => okG (met2 (((h s_vidMemRefused 0).2.2.1 true (by decide +kernel)).2 3) (by decide +kernel))

theorem wit_access : Obligations.RegistersFollowTheirAccessCodes → (∃ t, exec (.registerWrite NVS_CTL.off false 1) rdy = .next t) ∧
    ∃ t, exec (.partialByteWrite NVS_CTL.off) rdy = .next t :=
  fun h => let ⟨a, b⟩ := met4 (h.1 rdy NVS_CTL.off NVS_CTL 1) (by decide +kernel); ⟨ok a, okG b⟩
theorem wit_halves : Obligations.RegistersFollowTheirAccessCodes →
    (∃ t, exec (.reg64LowHalfRead ⟨NVS_PROG_COUNT.off, false, 15⟩) rdy = .next t) ∧
      (∃ t, exec (.reg64LowHalfRead ⟨NVS_PROG_COUNT.off, true, 255⟩) rdy = .next t) ∧
      (∃ t, exec (.reg64LowHalfRead ⟨NVS_PROG_COUNT.off, false, 5⟩) rdy = .next t) ∧
      (∃ t, exec (.reg64LowHalfWrite NVS_PROG_COUNT.off 5) rdy = .next t) ∧
      ∃ t, exec (.counterSatClear ⟨NVS_PROG_COUNT.off, 0⟩) rdy = .next t :=
  fun h => let ⟨a, b, c⟩ := met2 (h.2.1 rdy NVS_PROG_COUNT.off NVS_PROG_COUNT) (by decide +kernel)
    let ⟨a1, a2, a3⟩ := met5 a (by decide +kernel)
    ⟨okS a3, okS a1, okS (a2 5 (by decide +kernel)), okG (met3 (b 5) (by decide +kernel)), ok (met3 c (by decide +kernel) 0 (by decide +kernel))⟩
/-- R553: a counter of 2^48 - 2 whose clear meets 5 units saturates; at 7 it holds the 5. -/
theorem test_satClear :
    let at_ := fun (v : Nat) => ((rdy.setRegAt NVS_PROG_COUNT.off v).satClear NVS_PROG_COUNT.off 5).regAt NVS_PROG_COUNT.off
    at_ (2 ^ 48 - 2) = 2 ^ 63 + 2 ^ 48 - 1 ∧ at_ 7 = 5 ∧ at_ (2 ^ 63 + 2 ^ 48 - 1) = 5 := by decide +kernel
theorem wit_logRd : Obligations.RegistersFollowTheirAccessCodes → (∃ t, exec (.evtLogRdWrite 0) rdy = .next t) ∧
    ∃ t, exec (.evtLogRdWrite 1) rdy = .next t :=
  fun h => ⟨ok ((h.2.2 rdy 0 (by decide +kernel) rfl).1 (by decide +kernel)), ok ((h.2.2 rdy 1
      (by decide +kernel) rfl).2 (by decide +kernel))⟩

theorem wit_unmapped : Obligations.TheOtherBarsAnswer → (∃ t, exec (.unmappedAccess 0xFFFFF0 false) rdy = .next t) ∧
    (∃ t, exec (.bar4Read 0 16) memRdy = .next t) ∧ (∃ t, exec (.bar4Read 0 16) rdy = .next t) ∧
    (∃ t, exec (.bar4Write 0 (leBytes 16 7)) memRdy = .next t) ∧ (∃ t, exec (.bar4Write 3 [1, 2]) memRdy = .next t) ∧
    ∃ t, exec (.bar4Write 0 [1]) rdy = .next t :=
  fun h =>
    have m := met2 (h.1 memRdy 0) (by decide +kernel)
    have m3 := met2 (h.1 memRdy 3) (by decide +kernel)
    have r := met2 (h.1 rdy 0) (by decide +kernel)
    ⟨okS ((met2 (h.1 rdy 0xFFFFF0) (by decide +kernel)).1 (by decide +kernel)).1, ok (met2 (m.2.1 16) (by decide +kernel)),
      ok (met2 (r.2.2.2.1 16) (by decide +kernel)), ok (met4 (m.2.2.2.2.1 (leBytes 16 7)) (by decide +kernel)),
      ok (met4 (m3.2.2.2.2.1 [1, 2]) (by decide +kernel)), ok (met2 (r.2.2.2.2.2.2 [1]) (by decide +kernel))⟩
/-- Asleep under pizzicato. -/
def sleeping : State := memRdy.setDev stPizzicato
theorem wit_barsAsleep : Obligations.TheOtherBarsAnswer → (∃ t, exec (.bar4Read 0 16) sleeping = .next t) ∧
    (∃ t, exec (.bar4Write 0 [1]) sleeping = .next t) ∧ ∃ t, exec (.bar2Read 0) sleeping = .next t :=
  fun h =>
    have m := met2 (h.1 sleeping 0) (by decide +kernel)
    ⟨okS (m.2.2.1 16 (by decide +kernel)), okG (m.2.2.2.2.2.1 [1] (by decide +kernel)),
      okS ((met2 (h.2.1 sleeping 0 0) (by decide +kernel)).1 (by decide +kernel)).1⟩
/-- A program of service 0 that holds LPDDR bytes 0 to 255, fixed. -/
def heldImg : Bytes :=
  let s := oneTile [0] (tcmd opEnd 0 1000 []) [] []
  mkImg 3 1 1 1000 0 (s.map fun x => if x.ty = tyLpddrSlots then { x with body := leBytes 12 1 ++ leBytes 4 1 } else x)
def s_bar4Held : State := withSvc memRdy 0 heldImg .running
theorem wit_bar4Held : Obligations.TheOtherBarsAnswer → ∃ t, exec (.bar4Write 0 (leBytes 16 7)) s_bar4Held = .next t :=
  fun h => okG ((met2 (h.1 s_bar4Held 0) (by decide +kernel)).2.2.2.2.2.1 (leBytes 16 7) (by decide +kernel))

def emuOn : State := rdy.setFld HIF_EMU_CTL_EN 1
theorem wit_bar2 : Obligations.TheOtherBarsAnswer → (∃ t, exec (.bar2Read 0) rdy = .next t) ∧
    (∃ t, exec (.bar2Write 0 0) emuOn = .next t) ∧ ∃ t, exec (.bar2Read 0) (emuOn.setFld HIF_STATUS_SCH_DOWN 1) = .next t :=
  fun h => ⟨okS (met2 ((met2 (h.2.1 rdy 0 0) (by decide +kernel)).2.1) (by decide +kernel)).1,
    okG (met3 ((met2 (h.2.1 emuOn 0 0) (by decide +kernel)).2.2.2) (by decide +kernel)).2,
    okS (met3 ((met2 (h.2.1 (emuOn.setFld HIF_STATUS_SCH_DOWN 1) 0 0) (by decide +kernel)).2.2.1) (by decide +kernel)).1⟩

theorem wit_bar4Base : Obligations.TheOtherBarsAnswer → ∃ t, exec (.hifBar4BaseWrite 5) rdy = .next t :=
  fun h => okG ((h.2.2 rdy 5).1 (by decide +kernel))
theorem wit_emu : Obligations.TheOtherBarsAnswer → ∃ t, exec (.hifEmuEnWrite 1) rdy = .next t :=
  fun h => okG (met2 ((h.2.2 rdy 1).2.1) (by decide +kernel))
def s_emuRefused : State := withRing rdy cmdType 60
theorem wit_emuRefused : Obligations.TheOtherBarsAnswer → ∃ t, exec (.hifEmuEnWrite 1) s_emuRefused = .next t :=
  fun h => okG (met2 ((h.2.2 s_emuRefused 1).2.2) (by decide +kernel))

/-- The PEC byte of a write of 1 to offset 0. -/
def writePec : Option Byte := some (pecOf ([smbusToWrite, 0x12, 8] ++ leBytes 4 0 ++ leBytes 4 1))
/-- The PEC byte of ADDR. -/
def addrPec (off : Nat) : Option Byte := some (pecOf ([smbusToWrite, 0x10, 4] ++ leBytes 4 off))
/-- SMBus writes: of a register that takes none, of ID_RESET_CTL with a wrong key, and without a PEC. -/
theorem wit_smbusWrite : Obligations.SmbusAndTheTestPort → (∃ t, exec (.smbusWrite 0 1 writePec) (onRails rdy) = .next t) ∧
    (∃ t, exec (.smbusWrite ID_RESET_CTL.off 1 (resetPec 1)) (onRails rdy) = .next t) ∧
    ∃ t, exec (.smbusWrite 0 1 none) (onRails rdy) = .next t :=
  fun h => let ⟨_, _, c, d, _⟩ := met2 ((h (onRails rdy)).1) (by decide +kernel)
    ⟨okG ((c 0 1 writePec (by decide +kernel)).1 (by decide +kernel)),
      okG (met3 ((c ID_RESET_CTL.off 1 (resetPec 1) (by decide +kernel)).2) (by decide +kernel)), okS (d 0 1 none (by decide +kernel))⟩
theorem wit_smbus : Obligations.SmbusAndTheTestPort → (∃ t, exec (.smbusAddr 4 (addrPec 4)) (onRails rdy) = .next t) ∧
    (∃ t, exec (.smbusAddr 4 none) (onRails rdy) = .next t) ∧ (∃ t, exec .smbusRead (onRails rdy) = .next t) ∧
    (∃ t, exec .smbusClockTimeout (onRails rdy) = .next t) ∧ ∃ t, exec .idcode rdy = .next t :=
  fun h => let ⟨a, b, _, _, c, d⟩ := met2 ((h (onRails rdy)).1) (by decide +kernel)
    ⟨okG ((a 4 (addrPec 4) (by decide +kernel)).1 (by decide +kernel)), okS (b 4 none (by decide +kernel)), okS (met2 (c ID_PART 0) (by decide +kernel)), okG d, okS (h rdy).2.2.1⟩
def s_scanClosed : State := (rdy.setBoot { rdy.boot with porst := true }).setFld ID_STRAPS_SPP_EN 1
theorem wit_scanClosed : Obligations.ScanIsClosedInService →
    (∃ t, exec .extest s_scanClosed = .next t) ∧ ∃ t, exec .clamp State.reset = .next t :=
  fun h => ⟨okG (met2 ((h .extest s_scanClosed (by decide +kernel)).1) (by decide +kernel)).2, okG (((h .clamp State.reset (by decide +kernel)).2 (by decide +kernel)).2.1 rfl)⟩

/-! Tile programs -/

/-- An image of which only the place of the copies is given, with what a tile fetches first: a command and descriptor 1. -/
def fetches (c d : Bytes) : State :=
  let s := withSvc memRdy 0 (mkImg 3 1 1 1000 0 [⟨tyCsReserve, secAll, secAll, leBytes 8 0 ++ leBytes 8 1⟩]) .running
  let ws := words128 (padTo 32 c ++ padTo 32 d)
  let s := ((List.range 4).zip ws).foldl (fun s e => s.csWrite 0 e.1 ⟨e.2, false⟩) s
  s.setFld (TIL_STATE_STATE.tile 0) tsRunning

/-- The tile's command and descriptor, with the state after reading them. -/
def fetched (s : State) (t op : Nat) : (State × Bytes) × State × Bytes :=
  let c := ({ s with out := [] } : State).fetch t tyCommands (s.tileOf t).pc
  (c, if [opLka, opXfer, opGather, opSlabFill, opHand].contains op then c.1.fetch t tyDescriptors (cmdDescOf c.2)
    else (c.1, []))
def issued (s : State) (t op : Nat) : Issued :=
  let x := fetched s t op
  { tile := t, index := (s.tileOf t).pc, cmd := x.1.2, desc := x.2.2, cycle := s.issueCycle t x.1.2,
    shadow := (s.tileOf t).shadow }
def atIssue (s : State) (t op : Nat) : State :=
  let i := issued s t op
  let u := (fetched s t op).2.1
  ((u.upTo (u.cycleTime i.cycle)).moveBefore i.cycle).setFld (TIL_CYCLE_CYCLE.tile t) i.cycle
theorem issues {s : State} {t op : Nat}
    (h : s.power.tripped = false ∧ s.tileState t = tsRunning ∧ (s.tileOf t).wait = none ∧ (s.tileOf t).run = none ∧
      cmdOp (fetched s t op).1.2 = op ∧ (fetched s t op).1.2.length = 32 ∧
      s.slabDue t (s.issueCycle t (fetched s t op).1.2) = false) : Issues s t op (issued s t op) (atIssue s t op) :=
  ⟨h.1, h.2.1, h.2.2.1, h.2.2.2.1, h.2.2.2.2.1, h.2.2.2.2.2.1, h.2.2.2.2.2.2, rfl, rfl⟩

def s_nop : State := fetches (tcmd opNop 0 10 []) []
theorem wit_nop : Obligations.ComputeCommandsRun → ∃ t, exec (.nop 0) s_nop = .next t :=
  fun h => ok ((h s_nop 0 _ _ (by decide +kernel)).1 (issues (by decide +kernel)))

/-- ADD of 16 INT8 elements. -/
def s_vec : State := fetches (tcmd opVec 0x0F00 10 (leBytes 2 100 ++ leBytes 2 101 ++ leBytes 2 0 ++ leBytes 2 102 ++ leBytes 4 16)) []
theorem wit_vec : Obligations.ComputeCommandsRun → ∃ t, exec (.vec 0) s_vec = .next t :=
  fun h => ok ((h s_vec 0 _ _ (by decide +kernel)).2.1 (issues (by decide +kernel)) (by decide +kernel))

def s_ftab : State := fetches (tcmd opFtab 0 10 (leBytes 2 3)) []
theorem wit_ftab : Obligations.ComputeCommandsRun → ∃ t, exec (.ftab 0) s_ftab = .next t :=
  fun h => ok ((h s_ftab 0 _ _ (by decide +kernel)).2.2.1 (issues (by decide +kernel)) (by decide +kernel))

theorem noFill {s : State} {t : Nat} {p : SlabRead → Prop} (h : (s.tileOf t).slab = none) : ¬ ∃ r, (s.tileOf t).slab = some r ∧ p r :=
  fun ⟨_, e, _⟩ => by rw [h] at e; cases e
/-- A span of one block and eight steps, staged and streamed. -/
def s_lka : State := fetches (tcmd opLka 0 10 (leBytes 2 1 ++ leBytes 2 1 ++ leBytes 18 8 ++ [1])) []
theorem wit_lka : Obligations.ComputeCommandsRun → ∃ t, exec (.lka 0) s_lka = .next t :=
  fun h => ok (((h s_lka 0 _ _ (by decide +kernel)).2.2.2.1 (issues (by decide +kernel)) (by decide +kernel)).1
      (by decide +kernel) (noFill (by decide +kernel)))

def s_lkaStreamed : State := fetches (tcmd opLka 2 10 (leBytes 2 1 ++ leBytes 2 1 ++ leBytes 18 8 ++ [1])) []
theorem wit_lkaStreamed : Obligations.ComputeCommandsRun → ∃ t, exec (.lka 0) s_lkaStreamed = .next t :=
  fun h => ok (((h s_lkaStreamed 0 _ _ (by decide +kernel)).2.2.2.1 (issues (by decide +kernel))
      (by decide +kernel)).2 (.inl (by decide +kernel)))

/-- Service 0 runs a class C program of tile 0, whose sequencer is at its first command. -/
def running (cmds descs : Bytes) (more : List TSec) : State :=
  let img := mkImg 3 1 1 1000 0 (oneTile [0] cmds descs more)
  let s := (packWords img 0).foldl (fun s e => s.csWrite 0 e.1 ⟨e.2, false⟩) (withSvc memRdy 0 img .running)
  s.setFld (TIL_STATE_STATE.tile 0) tsRunning

def oneRange : Bytes := leBytes 12 0 ++ leBytes 1 1 ++ leBytes 3 0
def aRanged : Ranged := { idx := 0, lka := 0, units := [], out := 0, lo := 0, hi := 0, combined := false }
def s_range : State := (running (tcmd opRange 0 10 []) [] [⟨tyRangeTable, secAll, secAll, oneRange⟩]).modTile 0 fun x => { x with
    ranged := [aRanged] }
theorem wit_range : Obligations.ComputeCommandsRun → ∃ t, exec (.rangeCmd 0) s_range = .next t :=
  fun h => ok (met4 ((h s_range 0 _ _ (by decide +kernel)).2.2.2.2.1 (rangeDecl oneRange) aRanged (issues
      (by decide +kernel))) (by decide +kernel))

theorem noStaged {s : State} (h : s.staged = []) : CoresExist s := fun c hc => by rw [h] at hc; cases hc
def s_end : State := fetches (tcmd opEnd 0 1000 []) []
theorem wit_end : Obligations.ComputeCommandsRun → ∃ t, exec (.endProg 0) s_end = .next t :=
  fun h => ok ((h s_end 0 _ _ (by decide +kernel)).2.2.2.2.2 (issues (by decide +kernel))
      (by decide +kernel) (noStaged (by decide +kernel)))

def s_sem : State := fetches (tcmd opSem 0 10 [1]) []
theorem wit_sem : Obligations.SynchronisationCommandsRun → ∃ t, exec (.sem 0) s_sem = .next t :=
  fun h => ok (((h s_sem 0 _ _ (by decide +kernel)).1 (issues (by decide +kernel)) (by decide +kernel)).1
      (by decide +kernel))

def s_semWait : State := fetches (tcmd opSem 0 10 [1, 1]) []
theorem wit_semWait : Obligations.SynchronisationCommandsRun → ∃ t, exec (.sem 0) s_semWait = .next t :=
  fun h => okG (((h s_semWait 0 _ _ (by decide +kernel)).1 (issues (by decide +kernel)) (by decide +kernel)).2
      (by decide +kernel))

def s_evt : State := fetches (tcmd opEvt 0 10 [3]) []
theorem wit_evt : Obligations.SynchronisationCommandsRun → ∃ t, exec (.evt 0) s_evt = .next t :=
  fun h => ok (((h s_evt 0 _ _ (by decide +kernel)).2.1 (issues (by decide +kernel)) (by decide +kernel)).1
      (by decide +kernel))

def s_evtWait : State := fetches (tcmd opEvt 0 10 [3, 1, 2]) []
theorem wit_evtWait : Obligations.SynchronisationCommandsRun → ∃ t, exec (.evt 0) s_evtWait = .next t :=
  fun h => okG (((h s_evtWait 0 _ _ (by decide +kernel)).2.1 (issues (by decide +kernel)) (by decide +kernel)).2
      (by decide +kernel))

def s_bar : State := fetches (tcmd opBar 0 10 [3, 1]) []
theorem wit_bar : Obligations.SynchronisationCommandsRun → ∃ t, exec (.bar 0) s_bar = .next t :=
  fun h => ok (((h s_bar 0 _ _ (by decide +kernel)).2.2.1 (issues (by decide +kernel)) (by decide +kernel)).1
      (by decide +kernel))

def s_barWait : State := fetches (tcmd opBar 0 10 [3, 2]) []
theorem wit_barWait : Obligations.SynchronisationCommandsRun → ∃ t, exec (.bar 0) s_barWait = .next t :=
  fun h => ok (met2 (((h s_barWait 0 _ _ (by decide +kernel)).2.2.1 (issues (by decide +kernel)) (by decide +kernel)).2) (by decide +kernel))

/-- Tile 0 waits for its eastern neighbour, whose signal of cycle 60 has arrived; for a raise of tile 1; at a barrier. -/
def s_semEnd : State := (rdy.modTile 0 fun x => { x with wait := some (.semaphore 1 50) }).modTile 1 fun x => { x with
    sems := [(3, [60])] }
theorem wit_semEnd : Obligations.SynchronisationCommandsRun → ∃ t, exec (.semaphoreWaitEnd 0) s_semEnd = .next t :=
  fun h => ok (met4 ((h s_semEnd 0 (issued s_semEnd 0 0) s_semEnd (by decide +kernel)).2.2.2.1 1 50 1 60 []) (by decide +kernel))

def s_evtEnd : State := (rdy.modTile 0 fun x => { x with wait := some (.eventLine 1 2 1 50) }).modTile 1 fun x => { x with
    raises := [(2, [60])] }
theorem wit_evtEnd : Obligations.SynchronisationCommandsRun → ∃ t, exec (.eventLineWaitEnd 0) s_evtEnd = .next t :=
  fun h => ok (met3 ((h s_evtEnd 0 (issued s_evtEnd 0 0) s_evtEnd (by decide +kernel)).2.2.2.2.1 1 2 1 50 60) (by decide +kernel))

def barPlan : Bytes := leBytes 4 1 ++ leBytes 8 1 ++ leBytes 4 50
def s_barEnd : State := (withSvc rdy 0 (mkImg 3 1 1 1000 0 [⟨tyBarrierPlan, 0, secAll, barPlan⟩]) .running).setBarrier 1
    { Barrier.idle with arrivals := [{ inst := 0, tile := 0, cycle := 60, pairs := [] }] }
theorem wit_barEnd : Obligations.SynchronisationCommandsRun → ∃ t, exec (.barrierComplete 1) s_barEnd = .next t :=
  fun h => ok (met5 ((h s_barEnd 0 (issued s_barEnd 0 0) s_barEnd (by decide +kernel)).2.2.2.2.2 1 0 barPlan 0) (by decide +kernel))

/-- One row of 32 bytes from LPDDR to word 100. -/
def oneRow : Bytes := leBytes 2 0 ++ leBytes 2 100 ++ leBytes 5 0x100 ++ leBytes 3 0 ++ leBytes 4 32 ++ leBytes 2 1 ++ leBytes 2 1
def s_xfer : State := running (tcmd opXfer 0 10 [] ++ tcmd opEnd 0 1000 []) (padTo 32 oneRow) []
theorem wit_xfer : Obligations.TransferCommandsRun →
    ∃ t, exec (.xfer 0 ⟨[], 0⟩) s_xfer = .next t ∧ ∀ o, o ≠ 0 → t.tileOf o = (atIssue s_xfer 0 opXfer).tileOf o :=
  fun h =>
    let ⟨t, e, _, _, _, _, a⟩ := met3 ((h s_xfer 0 _ _ (by decide +kernel)).1 ⟨[], 0⟩ (issues (by decide +kernel))) (by decide +kernel)
    ⟨t, e, (met9 a (by decide +kernel)).2.2.1⟩

/-- A later member of a merged chain. -/
def s_member : State := fetches (tcmd opXfer 0x101 10 []) (padTo 32 oneRow)
theorem wit_member : Obligations.TransferCommandsRun → ∃ t, exec (.xfer 0 ⟨[], 0⟩) s_member = .next t :=
  fun h => ok (met2 ((h s_member 0 _ _ (by decide +kernel)).2.2.2.2.2 ⟨[], 0⟩ (issues (by decide +kernel))) (by decide +kernel))

/-- A gather of one row of a table of 100 rows of 32 bytes, with the first index that is out of range. -/
def oneGather : Bytes := leBytes 2 0 ++ leBytes 2 100 ++ leBytes 5 0x100 ++ leBytes 3 0 ++ leBytes 4 32 ++ leBytes 4 1 ++
  leBytes 4 32 ++ leBytes 4 100
def s_gather : State := (fetches (tcmd opGather 0x100 10 []) oneGather).tileWrite 0 0 ⟨100, false⟩
theorem wit_gather : Obligations.TransferCommandsRun →
    ∃ t, exec (.gather ⟨0, [], 0⟩) s_gather = .next t ∧ ∀ o, o ≠ 0 → t.tileOf o = (atIssue s_gather 0 opGather).tileOf o :=
  fun h =>
    let ⟨t, e, _, _, _, _, a⟩ := met2 ((h s_gather 0 _ _ (by decide +kernel)).2.1 [] 0 (issues (by decide +kernel))) (by decide +kernel)
    ⟨t, e, (met6 (a (100, false)) (by decide +kernel)).2.2.2⟩

def s_hand : State := fetches (tcmd opHand 0x100 10 []) (leBytes 4 0 ++ [1])
theorem wit_hand : Obligations.TransferCommandsRun → ∃ t, exec (.hand 0 []) s_hand = .next t :=
  fun h => ok (met4 ((h s_hand 0 _ _ (by decide +kernel)).2.2.1 [] (issues (by decide +kernel))) (by decide +kernel))

def s_stage : State := fetches (tcmd opStage 0 10 [2]) []
theorem wit_stage : Obligations.TransferCommandsRun → ∃ t, exec (.stage 0) s_stage = .next t :=
  fun h => okG (((h s_stage 0 _ _ (by decide +kernel)).2.2.2.1 (issues (by decide +kernel))
      (by decide +kernel)).1 (by decide +kernel))

def s_staged : State := (fetches (tcmd opStage 0 10 [2]) []).modTile 0 fun x => { x with hands := [(2, [10])] }
theorem wit_staged : Obligations.TransferCommandsRun → ∃ t, exec (.stage 0) s_staged = .next t :=
  fun h => ok (met2 (((h s_staged 0 _ _ (by decide +kernel)).2.2.2.1 (issues (by decide +kernel))
      (by decide +kernel)).2 10 []) (by decide +kernel))

def aTransfer (k : XferKind) : Outstanding :=
  { kind := k, desc := 0, issue := 10, done := 40, consumer := 1, counter := 2, members := 0, moves := [] }
def moving (k : XferKind) : State := rdy.modTile 0 fun x => { x with xfers := [aTransfer k] }
/-- A hand-over one of whose words has not moved yet. -/
def aMove : FabricMove := { cycle := 20, src := 0, srcWord := 4, dst := 1, dstWord := 5, zero := false, flips := [] }
def wordTransfer : Outstanding := { aTransfer .hand with moves := [aMove] }
def movingWord : State := (rdy.modTile 0 fun x => { x with xfers := [wordTransfer] }).tileWrite 0 4 ⟨77, false⟩
theorem wit_transferDone : Obligations.TransferCommandsRun →
    (∃ t, exec (.transferDone 0) (moving .gather) = .next t ∧ ∀ k, (t.tileOf k).store = ((moving .gather).tileOf k).store) ∧
      (∃ t, exec (.transferDone 0) movingWord = .next t ∧ (t.tileRead 1 5).2 = (crossLink (movingWord.tileRead 0 4).2 []).2) ∧
      ∃ t, exec (.transferDone 0) (moving .hand) = .next t ∧ Tab.lookD (t.tileOf 1).hands 2 [] = [40] :=
  fun h =>
    let ⟨t, e, _, _, _, a, _⟩ := met2 ((h (moving .gather) 0 (issued rdy 0 0) rdy
        (by decide +kernel)).2.2.2.2.1 (aTransfer .gather)) (by decide +kernel)
    let ⟨u, f, _, _, _, _, _, b⟩ := met2 ((h (moving .hand) 0 (issued rdy 0 0) rdy
        (by decide +kernel)).2.2.2.2.1 (aTransfer .hand)) (by decide +kernel)
    let ⟨v, g, _, _, c, _⟩ := met2 ((h movingWord 0 (issued rdy 0 0) rdy (by decide +kernel)).2.2.2.2.1 wordTransfer) (by decide +kernel)
    ⟨⟨t, e, a (by decide +kernel)⟩, ⟨v, g, (c aMove (by decide +kernel)).1⟩, u, f, met2 (b) (by decide +kernel)⟩

def s_slabFill : State := fetches (tcmd opSlabFill 0x100 10 []) (leBytes 8 0 ++ leBytes 4 4096)
theorem wit_slabFill : Obligations.SlabReadsRun → ∃ t, exec (.slabFill 0) s_slabFill = .next t :=
  fun h => let ⟨t, _, e, _⟩ := met2 ((h s_slabFill 0 (by decide +kernel)).1 _ _ (issues (by decide +kernel))) (by decide +kernel); ⟨t, e⟩

/-- A fill of page 3 of slab 0 whose delivery is due, of a page that is stored; and that page in the repair queue. -/
def pageFill : SlabRead :=
  { ring := false, half1 := false, dst := 0, offset := 3 * 4096, length := 64, ringWords := 0, issue := 10, done := 90, lag := 0, deadline := 90,
    delivered := 0, stalled := false, shift := 0 }
def pageRepair : Repair :=
  { page := 3, half1 := false, lo := 0, hi := 64, dst := 0, round := 1, retryMax := 3, cycle := 10, lag := 0, deadline := 9000, marked := true,
    sensed := [], bits := 4 }
def slabPage : Page := { thePage with tag := makeTag 1 (rdy.place 0 3) 1 9 }
def delivering : State :=
  (rdy.setNv { rdy.nv with pages := [(pageKey (blockKey 0 3 0) 0, slabPage)] }).modTile 0 fun x => { x with slab := some pageFill }
def repairing : State := delivering.modTile 0 fun x => { x with slab := none, repairs := [pageRepair] }
theorem wit_delivery : Obligations.SlabReadsRun → ∃ t, exec (.slabPageDelivery 0 []) delivering = .next t :=
  fun h => ok (met13 ((h delivering 0 (by decide +kernel)).2.1 pageFill
    ((delivering.pageDue 0).getD 0) (blockKey 0 3 0) []) (by decide +kernel))
theorem wit_repair : Obligations.SlabReadsRun → ∃ t, exec (.repairRound 0 []) repairing = .next t :=
  fun h => ok (met6 ((h repairing 0
      (by decide +kernel)).2.2 pageRepair (10 + repairing.roundCycles) (blockKey 0 3 0) [] slabPage 0) (by decide +kernel))

/-- The scale block of the first output of the worked example of 03_arithmetic.md. -/
def aBlock : ScaleBlock :=
  { float := false, zw := 8, sa := 0, lo := -128, hi := 127, out := 0, first := true, last := true, ct := [-25], mu := [], ws := [],
    m := [0x40000000], sh := [31], q := [], zo := [-3], poison := false }
def aJob : LkaJob := { tile := 0, cmd := [], desc := [], half := 0, halfWords := 0, decl := none }
theorem wit_requantise : Obligations.IntegerRequantisation →
    (aJob.elem 0 0 aBlock [] 0 0 1004 114 0 false).out = some 55 ∧ rshiftRne (-5) 1 = -2 ∧ clampOut 0 20 10 0 = 10 :=
  fun h => ⟨(h.2.2.2 aJob 0 0 aBlock [] 0 0 1004 114 0 false rfl (by decide +kernel) rfl).trans
      (by decide +kernel), (h.1 (-5) (-2) 1).2 (by decide +kernel),
    (h.2.1 0 20 10 0 (by decide +kernel)).2.1 (by decide +kernel)⟩

/-! The tick source, power and sleep -/

theorem wit_boundary : Obligations.BoundariesNumberTheTicks →
    (∃ t, exec (.tickBoundary true [] []) rdy = .next t ∧ t.tick = 1) ∧ ∃ t, exec (.tickBoundary true [] []) State.reset = .next t :=
  fun h =>
    let ⟨t, e, a, _⟩ := met3 ((h.1 rdy true [] [] (by decide +kernel)).1 0 none) (by decide +kernel)
    ⟨⟨t, e, a.trans (by decide +kernel)⟩, okG ((h.1 State.reset true [] [] (by decide +kernel)).2 (by decide +kernel))⟩
theorem wit_tickSleeps : ofSleep .sleepEntry = true ∧ (match exec .sleepEntry rdy with | .next _ => true | _ => false) = true := by
  decide +kernel

/-- TICK_IN makes the ticks, of 10 ms after a boundary at time 0; and the edge as it comes at a time. -/
def edged (now : Nat) : State :=
  { (rdy.setFld TCK_CTL_SRC_ACTIVE 2).setFld TCK_PERIOD_ACT_PERIOD_US 10000 with ticking := true, now := now }
def s_tickIn : State := edged 10000000
theorem wit_tickIn : Obligations.TheTickSourceIsWatched → (∃ t, exec (.tickInEdge false) s_tickIn = .next t) ∧
    (∃ t, exec (.tickInEdge false) (edged (s_tickIn.edgeFrom - 1)) = .next t ∧ t.fld TCK_STATUS_EARLY = 1) ∧
    ∃ t, exec .tickInTimeout s_tickIn = .next t :=
  fun h =>
    let ⟨t, e, a, _⟩ := (met4 ((h (edged (s_tickIn.edgeFrom - 1)) (by decide +kernel)).1 false) (by decide +kernel)).2 (by decide +kernel)
    ⟨okG ((met4 ((h s_tickIn (by decide +kernel)).1 false) (by decide +kernel)).1 (by decide +kernel)), ⟨t, e, a⟩, ok (met2 ((h s_tickIn (by decide +kernel)).2.1) (by decide +kernel))⟩

def s_gap : State := { (guarded.setFld SPP_WDOG_GAP_EN 1).setSvc 0 { Service.reset with image := lockedImg, phase := .running } with
    ticking := true }
theorem wit_gap : Obligations.TheTickSourceIsWatched → ∃ t, exec .boundaryGap s_gap = .next t :=
  fun h => ok (met5 ((h s_gap (by decide +kernel)).2.2) (by decide +kernel))

/-- A change of voltage to 700 mV has been written; the same after three polls that were not acknowledged. -/
def regulating (nacks : Nat) : State := rdy.setPower { rdy.power with write := some (700, 0), nacks := nacks }
theorem wit_avs : Obligations.TheRegulatorIsFollowed → (∃ t, exec (.avsStatusPoll 1 false) (regulating 2) = .next t) ∧
    (∃ t, exec (.avsStatusPoll 1 false) (regulating 3) = .next t) ∧ (∃ t, exec .avsWriteTimeout (regulating 0) = .next t) ∧
    (∃ t, exec (.avsStatusPoll 0 false) (regulating 1) = .next t) ∧ ∃ t, exec (.avsStatusPoll 0 true) (regulating 1) = .next t :=
  fun h =>
    have a := fun n => (h.1 (regulating n) rfl).1 700 0 rfl
    ⟨okG (met2 ((a 2).1 1 false) (by decide +kernel)), ok ((a 3).2.1 _ (.inl ⟨1, false, rfl,
        (by decide +kernel), (by decide +kernel)⟩)), ok ((a 0).2.1 _ (.inr rfl)), okG ((a 1).2.2 0 (by decide +kernel)).1,
      ok ((a 1).2.2 0 (by decide +kernel)).2⟩
def regFault : State := (rdy.setFld PWR_EMERG_REG_FAULT 1).setFld PWR_AVS_VSET 700
theorem wit_regFault : Obligations.TheRegulatorIsFollowed → (∃ t, exec (.regulatorFaultPoll 0 710) regFault = .next t) ∧
    ∃ t, exec (.regulatorFaultPoll 0 690) regFault = .next t :=
  fun h => ⟨ok (met5 ((h.1 regFault (by decide +kernel)).2 0 710) (by decide +kernel)), ok (met5 ((h.1 regFault (by decide +kernel)).2 0 690) (by decide +kernel))⟩

theorem wit_temps : Obligations.EmergenciesComeAndGo →
    (∃ t, exec (.sensorReading [125] []) rdy = .next t ∧ t.power.tripped = true) ∧
      ∃ t, exec (.sensorReading [124] []) rdy = .next t ∧ t.power.clampDue = true :=
  fun h =>
    let ⟨t, e, _, _, a, _⟩ := (h rdy (by decide +kernel)).1 [125] []
    let ⟨u, f, _, _, _, b⟩ := (h rdy (by decide +kernel)).1 [124] []
    ⟨⟨t, e, (a (by decide +kernel)).1⟩, u, f, (b (by decide +kernel)).1.trans (by decide +kernel)⟩
def failing (f : Fld) : State :=
  let s := rdy.setFld f 1
  s.setPower { s.power with coolSince := some 5, clearAt := some 9 }
theorem wit_emergencies : Obligations.EmergenciesComeAndGo → (∃ t, exec .clampRelease (failing PWR_EMERG_CLAMP) = .next t) ∧
    (∃ t, exec .pwrFailAssert rdy = .next t) ∧ (∃ t, exec (.pwrFailDeassert []) (failing PWR_EMERG_PWR_FAIL) = .next t) ∧
    ∃ t, exec .emergencyClearExpiry (failing PWR_EMERG_CLAMP) = .next t :=
  fun h => ⟨ok (met2 ((h (failing PWR_EMERG_CLAMP) (by decide +kernel)).2.1 5) (by decide +kernel)), ok ((h rdy (by decide +kernel)).2.2.1 (by decide +kernel)),
    ok ((h (failing PWR_EMERG_PWR_FAIL) (by decide +kernel)).2.2.2.1 []
        (by decide +kernel)), ok ((h (failing PWR_EMERG_CLAMP) (by decide +kernel)).2.2.2.2 9
        (by decide +kernel) (noStaged (by decide +kernel)))⟩

/-- Both PLLs are locked; PLL 1 feeds the arithmetic. -/
def clocked : State :=
  let s := ((rdy.setFld PWR_CLK_PLL0_LOCK 1).setFld PWR_CLK_PLL1_LOCK 1).setBoot { rdy.boot with releasedAt := some 0 }
  s.setPower { s.power with clock := .pll1, refclk := true }
def unclocked : State := clocked.setPower { clocked.power with refclk := false }
theorem wit_clocks : Obligations.ClocksAreLostAndFound → (∃ t, exec (.pllLockLoss 1) clocked = .next t) ∧
    (∃ t, exec (.pllRelock 1) clocked = .next t) ∧ (∃ t, exec .refclkMissing clocked = .next t) ∧
    ∃ t, exec .refclkReturn unclocked = .next t :=
  fun h => ⟨ok (met4 ((h clocked (by decide +kernel)).1 1) (by decide +kernel)), ok (met3 ((h clocked (by decide +kernel)).2.1 1) (by decide +kernel)), ok (met2 ((h clocked (by decide +kernel)).2.2.1) (by decide +kernel)),
    ok (met2 ((h unclocked (by decide +kernel)).2.2.2) (by decide +kernel))⟩

/-- After the last boundary before a sleep. -/
def leaving (pz : Bool) : State :=
  rdy.setPower { rdy.power with sleepReq := some pz, lastBoundary := true, railGoal := some 500, acked := 500 }
def entering : State := rdy.setPower { rdy.power with sleepReq := some true, lastBoundary := true }
theorem wit_sleep : Obligations.SleepEndsWhereItSays → (∃ t, exec .sleepEntry (leaving true) = .next t ∧ t.dev = stPizzicato) ∧
    (∃ t, exec .sleepEntry entering = .next t ∧ t.dev = entering.dev) ∧ ∃ t, exec .sleepEntry (leaving false) = .next t ∧ t.dev = stRest :=
  fun h =>
    let ⟨t, e, a, _⟩ := met3 (met5 ((h (leaving true) (by decide +kernel)).1 true) (by decide +kernel)).2 (by decide +kernel)
    let ⟨u, f, b, _⟩ := met3 (met5 ((h (leaving false) (by decide +kernel)).1 false) (by decide +kernel)).2 (by decide +kernel)
    let ⟨v, g, c, _⟩ := met3 (met5 ((h entering (by decide +kernel)).1 true) (by decide +kernel)).1 (by decide +kernel)
    ⟨⟨t, e, a⟩, ⟨v, g, c⟩, u, f, b⟩
/-- Waking, with the rail at a voltage. -/
def s_wake (mv : Nat) : State :=
  let s := (rdy.setDev stRest).setFld PWR_STATE_STATE slWaking
  s.setPower { s.power with refclk := true, acked := mv }
theorem wit_wake : Obligations.SleepEndsWhereItSays → (∃ t, exec .wake (s_wake 500) = .next t) ∧
    ∃ t, exec .wake (s_wake (rdy.vE 0)) = .next t ∧ t.dev = stReady :=
  fun h =>
    let ⟨t, e, a, _⟩ := met5 ((h (s_wake (rdy.vE 0)) (by decide +kernel)).2.2.1) (by decide +kernel)
    ⟨ok (met8 ((h (s_wake 500) (by decide +kernel)).2.1) (by decide +kernel)), t, e, a⟩

/-- Between two cycles of pizzicato, and in one that waits for its picture. -/
def betweenCycles : State :=
  let s := (rdy.setDev stPizzicato).setFld PWR_STATE_STATE slPizzicato
  s.setPower { s.power with refclk := true }
def inCycle : State := betweenCycles.setPower { betweenCycles.power with pzActive := true }
theorem wit_pizzicato : Obligations.SleepEndsWhereItSays → (∃ t, exec .pizzicatoCycle betweenCycles = .next t) ∧
    (∃ t, exec .idrWaitTimeout inCycle = .next t) ∧ ∃ t, exec .retentionClockTick rdy = .next t :=
  fun h => ⟨ok (met3 ((h betweenCycles (by decide +kernel)).2.2.2.1) (by decide +kernel)), ok (met6 ((h inCycle (by decide +kernel)).2.2.2.2.1) (by decide +kernel)), ok (met2 ((h rdy (by decide +kernel)).2.2.2.2.2) (by decide +kernel))⟩

/-! PTP, the ports, the cameras and egress -/

/-- Port 0 is enabled, with its link up. -/
def linked : State := (rdy.setFld (portCtl INT_PORT_CTL_EN 0) 1).setFld INT_PORT_STAT_LINK0 1
/-- A frame of port 0 that waits. -/
def rxFrame (etherType : Nat) (body : Bytes) (ptpTime : Int) : RxFrame :=
  { port := 0, dst := 0, src := 5, vlan := none, etherType := etherType, body := body, ptpTime := ptpTime, time := 0, waited := none }
def received (s : State) (f : RxFrame) : State := s.setIntake { s.intake with rx := [f] }

/-- A one-step Sync of time 0 from the chosen master, which comes at a time; fifteen good ones came before. -/
def syncFrame (at_ : Int) : RxFrame := rxFrame etPtp (padTo 44 [0, 2]) at_
def synced (at_ : Int) : State :=
  let s := received (linked.setFld INT_PTP_CTL_PORT 1) (syncFrame at_)
  s.setIntake { s.intake with ptp := { Ptp.reset with master := some (0, 0, 0), good := 15 } }
theorem wit_sync : Obligations.ThePtpClockFollowsItsMaster →
    (∃ t, exec .ptpMessage (synced 2000000000) = .next t ∧ t.fld INT_STATUS_PTP_STEP = 1) ∧
      ∃ t, exec .ptpMessage (synced 1) = .next t ∧ t.fld INT_PTP_STATUS_LOCK = 1 :=
  fun h =>
    let ⟨t, e, _, _, a, _⟩ := met8 ((h (synced 2000000000) (by decide +kernel)).1 (syncFrame 2000000000) [] (0, 0, 0)) (by decide +kernel)
    let ⟨u, f, _, _, _, b, _⟩ := met8 ((h (synced 1) (by decide +kernel)).1 (syncFrame 1) [] (0, 0, 0)) (by decide +kernel)
    ⟨⟨t, e, (met2 a (by decide +kernel)).2.1⟩, u, f, met4 (b) (by decide +kernel)⟩
def lockedPtp : State := rdy.setFld INT_PTP_STATUS_LOCK 1
def announced : Foreign := { rank := [], grandmaster := 0, sender := 0, last := 7, interval := 100, count := 2 }
def s_announce : State := rdy.setIntake { rdy.intake with ptp := { Ptp.reset with foreign1 := [announced] } }
def s_pps : State := rdy.setFld INT_PTP_CTL_PPS_OUT_EN 1
theorem wit_ptp : Obligations.ThePtpClockFollowsItsMaster → (∃ t, exec .ptpSyncTimeout lockedPtp = .next t) ∧
    (∃ t, exec .ptpDelayReqTimer (synced 1) = .next t) ∧ (∃ t, exec (.announceReceiptTimeout 1) s_announce = .next t) ∧
    (∃ t, exec .ppsOutSecond s_pps = .next t) ∧ ∃ t, exec .ppsInEdge rdy = .next t :=
  fun h =>
    let ⟨t, _, e, _⟩ := met5 ((h (synced 1) (by decide +kernel)).2.2.1 (0, 0, 0)) (by decide +kernel)
    ⟨ok ((h lockedPtp (by decide +kernel)).2.1 (by decide +kernel)), ⟨t, e⟩, ok (met2 ((h s_announce
        (by decide +kernel)).2.2.2.1 1 307) (by decide +kernel)), okS (met3 ((h s_pps
        (by decide +kernel)).2.2.2.2.1) (by decide +kernel)),
      okG ((h rdy (by decide +kernel)).2.2.2.2.2 (by decide +kernel))⟩

/-- Frames: one too long by a byte, one of IPv6, and an ARP request for address 0. -/
def arpBody : Bytes := beBytes 2 1 ++ beBytes 2 0x0800 ++ [6, 4] ++ beBytes 2 1 ++ beBytes 20 0
def arpFrame : Bytes := beBytes 12 5 ++ beBytes 2 0x0806 ++ arpBody
def untagged : State := linked.setFld (portCtl INT_PORT_CTL_UNTAGGED_EN 0) 1
theorem wit_frames : Obligations.ThePortsAnswer → (∃ t, exec (.ethFrameRx 0 arpFrame) portOff = .next t) ∧
    (∃ t, exec (.ethFrameRx 0 (beBytes 1519 0)) linked = .next t) ∧
    (∃ t, exec (.ethFrameRx 0 (beBytes 14 0x86DD)) linked = .next t) ∧ ∃ t, exec (.ethFrameRx 0 arpFrame) untagged = .next t :=
  fun h => ⟨okG ((h portOff (by decide +kernel)).1 0 arpFrame (by decide +kernel)), ok (met5 ((h linked
      (by decide +kernel)).2.1 0 (beBytes 1519 0)) (by decide +kernel)),
    ok (met5 ((h linked (by decide +kernel)).2.1 0 (beBytes 14 0x86DD)) (by decide +kernel)), okG (met11 ((h untagged
        (by decide +kernel)).2.2.1 0 arpFrame) (by decide +kernel))⟩
def s_arp : State := received linked (rxFrame etArp arpBody 0)
/-- A datagram waits on port 0. -/
def s_arpWaits : State := s_arp.setIntake { s_arp.intake with egress := [{
  port := 0, profile := 0, pcp := 4, dst := 9, dscp := 0, srcPort := 1, dstPort := 2, svc := 0, records := 1, body := [],
  raw := none, ptp := none }] }
theorem wit_arp : Obligations.ThePortsAnswer → (∃ t, exec .arpRequest s_arp = .next t) ∧
    ∃ t, exec .arpRequest s_arpWaits = .next t ∧ t.intake.egress.length = 2 :=
  fun h => ⟨ok (met3 ((h s_arp (by decide +kernel)).2.2.2.1 (rxFrame etArp arpBody 0) []) (by decide +kernel)),
    let ⟨t, a, _, _, _, _, b⟩ := met3 ((h s_arpWaits (by decide +kernel)).2.2.2.1 (rxFrame etArp arpBody 0) []) (by decide +kernel)
    ⟨t, a, let ⟨_, c, _⟩ := b (by decide +kernel); by rw [c]; rfl⟩⟩

/-- An IPv4 packet from 0.0.0.9 to a group, of a protocol; the sum of an empty message with 0xFFFF in its checksum field is right. -/
def ipFrame (proto : Nat) (body : Bytes) : RxFrame :=
  rxFrame etIp ([0x45, 0] ++ beBytes 2 (20 + body.length) ++ leBytes 5 0 ++ leBytes 1 proto ++ leBytes 2 0 ++ beBytes 4 9 ++
    beBytes 4 0xEF000001 ++ body) 0
def echoFrame : RxFrame := ipFrame 1 ([8, 0] ++ beBytes 2 0xF7FF)
def queryFrame : RxFrame := ipFrame 2 ([0x11, 0] ++ beBytes 2 0xEEFF ++ leBytes 8 0)
/-- The cache holds the address 0.0.0.9. -/
def cached : State := linked.setIntake { linked.intake with arp := [
    { ip := 9, mac := 5, port := 0, vlan := none, learnt := 0, refreshed := false }] }
def s_echo : State := received (cached.setFld (portCtl INT_PORT_CTL_ICMP_EN 0) 1) echoFrame
def s_query2 : State := received linked queryFrame
def reportDue : State := rdy.setIntake { rdy.intake with igmpDue1 := [.answer 0 []], igmpV2 := [(1, 30)] }
theorem wit_answers : Obligations.ThePortsAnswer → (∃ t, exec .icmpEcho s_echo = .next t) ∧
    (∃ t, exec .arpRefresh cached = .next t) ∧ (∃ t, exec .arpExpiry cached = .next t) ∧
    (∃ t, exec .igmpQuery s_query2 = .next t) ∧ (∃ t, exec (.igmpReportTimer 1) reportDue = .next t) ∧
    ∃ t, exec (.igmpCompatTimeout 1) reportDue = .next t :=
  fun h =>
    let ⟨_, a⟩ := met7 ((h s_echo (by decide +kernel)).2.2.2.2.1 echoFrame [] 5) (by decide +kernel)
    ⟨okS a, ok (met3 ((h cached (by decide +kernel)).2.2.2.2.2.1 _ rfl) (by decide +kernel)), ok ((h cached (by decide +kernel)).2.2.2.2.2.2.1 _ _ rfl),
      ok (met6 ((h s_query2 (by decide +kernel)).2.2.2.2.2.2.2.1 queryFrame []) (by decide +kernel)),
      ok (met2 ((h reportDue (by decide +kernel)).2.2.2.2.2.2.2.2.1 1 (.answer 0 []) []) (by decide +kernel)),
      ok (met3 ((h reportDue (by decide +kernel)).2.2.2.2.2.2.2.2.2.1 1 30) (by decide +kernel))⟩
theorem wit_links : Obligations.ThePortsAnswer → (∃ t, exec (.ethLinkDown 0) linked = .next t) ∧
    ∃ t, exec (.ethLinkUp 0) linked = .next t :=
  fun h => let ⟨a, b⟩ := (h linked (by decide +kernel)).2.2.2.2.2.2.2.2.2.2 0 (by decide +kernel); ⟨okG (a (by decide +kernel)), okG (met2 (b) (by decide +kernel))⟩

/-- A packet of stream 3, of a payload type, at 239.0.0.1 port 0. -/
def rtpFrame (pt : Byte) : RxFrame :=
  ipFrame 17 (beBytes 4 0 ++ beBytes 2 21 ++ beBytes 2 0 ++ [0x80, pt] ++ beBytes 2 7 ++ beBytes 4 0 ++ beBytes 4 6 ++ [1])
/-- Stream 3 is enabled, for SSRC 6. -/
def stream3 : State :=
  ((linked.setFld (VID_STREAM_CTL_EN.bank 3) 1).setFld (VID_STREAM_ADDR_DST.bank 3) 0xEF000001).setFld (VID_STREAM_SSRC_SSRC.bank 3) 6
def taken : Stream := ((stream3.cam 3).from 6 0).insert 7 0 false [1] 0 0 |>.1
theorem wit_rtp : Obligations.CamerasAndEgressRun → (∃ t, exec .rtpPacket (received stream3 (rtpFrame 1)) = .next t) ∧
    ∃ t, exec .rtpPacket (received stream3 (rtpFrame 96)) = .next t :=
  fun h => ⟨ok ((met3 ((met2 (h (received stream3 (rtpFrame 1)) 3) (by decide +kernel)).1 (rtpFrame 1) [] [1] taken) (by decide +kernel)).1 (by decide +kernel)),
    okG (met6 ((met3 ((met2 (h (received stream3 (rtpFrame 96)) 3) (by decide +kernel)).1 (rtpFrame 96) [] [1] taken) (by decide +kernel)).2) (by decide +kernel))⟩
def jitter1 : RtpPacket := { seq := 65543, ts := 0, marker := false, payload := [1], arrival := 0, came := 0 }
def s_jitter : State := rdy.setStream 3 { Stream.reset with jitter := [jitter1], ssrc := some 6 }
theorem wit_jitter : Obligations.CamerasAndEgressRun → (∃ t, exec (.jitterTimeout 3) s_jitter = .next t) ∧
    ∃ t, exec (.ssrcRelease 3) s_jitter = .next t :=
  fun h => ⟨ok ((met2 (h s_jitter 3) (by decide +kernel)).2.2.1 jitter1 []
      (by decide +kernel) nofun), okG (met2 ((met2 (h s_jitter 3) (by decide +kernel)).2.1) (by decide +kernel))⟩
def aPicture : Picture := { width := 128, height := 96, tenBit := false, matrix := none, fullRange := none, idr := false, randomAccess := false, y := [], cb := [], cr := [] }
def aUnit : AccessUnit := { ts := 0, arrival := 0, nals := [] }
def s_decode : State := memRdy.setStream 3 { Stream.reset with queue := [aUnit] }
def videoOn : State := s_decode.setFld VID_MEM_SIZE_FRAMES 1
/-- An H.265 unit whose parameter set names the High tier. -/
def tierUnit : AccessUnit := { aUnit with nals := [[66, 1, 1, 0x21] ++ padTo 11 []] }
def s_tier : State := (memRdy.setFld (VID_STREAM_CTL_CODEC.bank 3) 1).setStream 3 { Stream.reset with queue := [tierUnit] }
theorem wit_decode : Obligations.CamerasAndEgressRun → (∃ t, exec (.decodeDone 3 ⟨.picture aPicture, 0, [], []⟩) s_decode = .next t) ∧
    (∃ t, exec (.decodeDone 3 ⟨.picture aPicture, 1, [], []⟩) s_decode = .next t) ∧
    (∃ t, exec (.decodeDone 3 ⟨.failed, 0, [], []⟩) s_decode = .next t) ∧ (∃ t, exec (.decodeDone 3 ⟨.unsupported, 0, [], []⟩) s_decode = .next t) ∧
    ∃ t, exec (.decodeDone 3 ⟨.memory, 0, [], []⟩) s_decode = .next t :=
  fun h =>
    let ⟨_, a, _, _, b⟩ := met2 ((met2 (h s_decode 3) (by decide +kernel)).2.2.2.1 aUnit []) (by decide +kernel)
    let ⟨x, y⟩ := met3 (a aPicture) (by decide +kernel)
    let ⟨t, _, e, _⟩ := y { unit := aUnit, pic := aPicture, resync := false } [] (by decide +kernel)
    ⟨ok x, ⟨t, e⟩, ok (met2 (b .failed _ _ (.inl ⟨rfl, rfl, rfl, (by decide +kernel)⟩) 0) (by decide +kernel)),
      ok (met2 (b .unsupported _ _ (.inr (.inl ⟨rfl, rfl, rfl⟩)) 0) (by decide +kernel)),
      ok (met2 (b .memory _ _ (.inr (.inr ⟨rfl, rfl, rfl⟩)) 0) (by decide +kernel))⟩
/-- LPDDR has not trained, so that no burst reaches the video region. -/
def noVideo : State := videoOn.setFld MEM_CFG_TRAINED 0
theorem wit_lost : Obligations.CamerasAndEgressRun → (∃ t, exec (.decodeDone 3 ⟨.failed, 0, [(0, true)], []⟩) videoOn = .next t) ∧
    (∃ t, exec (.decodeDone 3 ⟨.picture aPicture, 1, [], []⟩) s_tier = .next t) ∧
    ∃ t, exec (.decodeDone 3 ⟨.picture aPicture, 1, [], []⟩) noVideo = .next t :=
  fun h =>
    let ⟨n, _⟩ := met2 ((met2 (h noVideo 3) (by decide +kernel)).2.2.2.1 aUnit []) (by decide +kernel)
    let ⟨_, _, a, _, _⟩ := met2 ((met2 (h videoOn 3) (by decide +kernel)).2.2.2.1 aUnit []) (by decide +kernel)
    let ⟨_, _, _, b, _⟩ := met2 ((met2 (h s_tier 3) (by decide +kernel)).2.2.2.1 tierUnit []) (by decide +kernel)
    ⟨ok (met2 (a .failed 0 0) (by decide +kernel)), ok (met2 (b (.picture aPicture) 1) (by decide +kernel)), ok (n (.picture aPicture) 1 (by decide +kernel))⟩
/-- Service 2 takes stream 3 into snapshot 1; a picture has to be shaped for it. -/
def aShown : Shown := { frame := 1, ts := 0, arrival := 0, resync := false, resChange := false, lost := 0, pic := aPicture }
def camEntry : Bytes := padTo 16 [1, 1, 3]
def camInput : Input :=
  { newInput (fun _ => 0) camEntry with bufs := [{ Buf.empty with state := .fill }, Buf.empty, Buf.empty] }
def s_shape : State :=
  (rdy.setStream 3 { Stream.reset with toShape := [(2, 1, aShown)] }).setSvc 2 { Service.reset with
    image := mkImg 3 1 1 1000 0 [⟨tySnapshotMap, secAll, secAll, camEntry⟩], phase := .running, inputs := [camInput] }
theorem wit_shape : Obligations.CamerasAndEgressRun → ∃ t, exec (.shapeDone 2 1 ⟨[], []⟩) s_shape = .next t :=
  fun h => okG (met3 ((met2 (h s_shape 3) (by decide +kernel)).2.2.2.2.1 2 1 [] camInput camEntry (2, 1, aShown) []) (by decide +kernel))
def aDatagram : Datagram :=
  { port := 0, profile := 0, pcp := 4, dst := 9, dscp := 0, srcPort := 1, dstPort := 2, svc := 0, records := 1, body := [],
    raw := none, ptp := none }
def s_datagram : State := cached.setIntake { cached.intake with egress := [aDatagram] }
def s_encoder : State := rdy.setEncoder 2 { picture := some (aPicture, 0), waiting := none, seq := 65535, frame := 1 }
theorem wit_egress : Obligations.CamerasAndEgressRun → (∃ t, exec (.datagramTx 0) s_datagram = .next t) ∧
    ∃ t, exec (.pictureEncoded 2 ⟨[], [1]⟩) s_encoder = .next t :=
  fun h =>
    let ⟨t, _, e, _⟩ := met5 ((met2 (h s_datagram 0) (by decide +kernel)).2.2.2.2.2.1 0 aDatagram 5) (by decide +kernel)
    ⟨⟨t, e⟩, ok ((met2 (h s_encoder 0) (by decide +kernel)).2.2.2.2.2.2 2 [] [1] _
        (by decide +kernel) rfl (by decide +kernel))⟩

/-! The consort -/

theorem ok2 {α : Type} {c : Instr} {s : State} {P : State → α → Prop} (h : ∃ t x, exec c s = .next t ∧ P t x) :
    ∃ t, exec c s = .next t := h.imp fun _ a => a.elim fun _ b => b.1

/-- The body of a Worham frame of member 1, or of another, to every member. -/
def wor (type src : Nat) (data : Bytes) : Bytes :=
  [1] ++ leBytes 1 type ++ leBytes 1 src ++ [0xFF] ++ leBytes 12 0 ++ data
def worFrame (b : Bytes) : RxFrame := rxFrame (rdy.fld CNS_ETHERTYPE_TYPE) b 0
theorem takes {s : State} {type : Nat} {f : RxFrame} (h : s.power.tripped = false)
    (e : (decide (f.etherType = s.fld CNS_ETHERTYPE_TYPE) && decide (cnType f.body = type)) = true)
    (r : s.intake.rx = [f] := by rfl) : TakesFrame s type f { s with out := [], intake := { s.intake with rx := [] } } :=
  And.intro h ⟨[], by simp [r, takeFirst, Bool.and_eq_true _ _ ▸ e], rfl⟩

/-- Members 0 and 1, which have been heard of, and this device is member 0, the leader. -/
def inConsort : State :=
  let s := ((rdy.setFld CNS_MASK_MEMBERS 3).setFld CNS_MASK_KNOWN 3).setFld CNS_CTL_EN 1
  { (s.setFld CNS_ID_LEADER 1).setCns { s.consort with formed := true, peers := [(1, (some 5, 0, 0))] } with ticking := true }
/-- The same, with the unit switched off. -/
def consortOff : State := inConsort.setFld CNS_CTL_EN 0
def tokenFrame (src : Nat) : RxFrame := worFrame (wor tyToken src [])
def joinFrame : RxFrame := worFrame (wor tyJoin 1 [])
theorem wit_token : Obligations.EpochsAreFormed → (∃ t, exec .token (received inConsort (tokenFrame 1)) = .next t) ∧
    (∃ t, exec .token (received inConsort (tokenFrame 2)) = .next t) ∧ ∃ t, exec .join (received inConsort joinFrame) = .next t :=
  fun h => ⟨okG (((h (received inConsort (tokenFrame 1))).1 (tokenFrame 1) _ (met2 (takes) (by decide +kernel))).1 (by decide +kernel)),
    ok (((h (received inConsort (tokenFrame 2))).1 (tokenFrame 2) _ (met2 (takes) (by decide +kernel))).2 (by decide +kernel)),
    okG ((h (received inConsort joinFrame)).2.1 joinFrame _ (met2 (takes) (by decide +kernel))
        (by decide +kernel))⟩
theorem wit_verdict : Obligations.EpochsAreFormed → (∃ t, exec .tokenSend inConsort = .next t) ∧
    (∃ t, exec .verdict inConsort = .next t) ∧ (∃ t, exec .verdict consortOff = .next t) ∧ ∃ t, exec (.knownExpiry 1) inConsort = .next t :=
  fun h => ⟨ok (met5 ((h inConsort).2.2.1) (by decide +kernel)), ok (met6 ((h inConsort).2.2.2.2.1) (by decide +kernel)), okG (met3 ((h consortOff).2.2.2.1) (by decide +kernel)),
    ok (met4 ((h inConsort).2.2.2.2.2.2.2.2.2 1 (some 5, 0, 0)) (by decide +kernel))⟩
/-- A proposal of epoch 9 for both members and consort tick 4, with two hashes. -/
def joining : State := (rdy.setFld CNS_MASK_MEMBERS 3).setFld TCK_CTL_SRC_ACTIVE 1
def proposal (settings firmware : Bytes) : RxFrame :=
  worFrame (wor tyPropose 0 (leBytes 4 9 ++ leBytes 4 3 ++ leBytes 16 4 ++ settings ++ firmware))
def goodProposal : RxFrame := proposal (sha512_256 (joining.settingsRecord 0)) joining.fwHash
def badProposal : RxFrame := proposal (leBytes 32 0) (leBytes 32 0)
theorem wit_propose : Obligations.EpochsAreFormed →
    (∃ t, exec .propose (received joining goodProposal) = .next t ∧ ∃ c ∈ t.staged, c.kind = .consort) ∧
      ∃ t, exec .propose (received joining badProposal) = .next t ∧ t.staged = (received joining badProposal).staged :=
  fun h =>
    let ⟨t, e, a, _⟩ := met4 ((h (received joining goodProposal)).2.2.2.2.2.1 goodProposal _ (met2 (takes) (by decide +kernel))) (by decide +kernel)
    let ⟨u, f, _, b, _⟩ := met4 ((h (received joining badProposal)).2.2.2.2.2.1 badProposal _ (met2 (takes) (by decide +kernel))) (by decide +kernel)
    ⟨⟨t, e, (a (by decide +kernel)).2⟩, u, f, (b (by decide +kernel)).2⟩
def proposing : State := inConsort.setCns { inConsort.consort with proposal := some (9, 3, 4, []), staged := some (9, 3, 4, 0, 0) }
def acceptFrame : RxFrame := worFrame (wor tyAccept 1 (leBytes 4 9 ++ [0]))
def abortFrame (kind epoch : Nat) : RxFrame := worFrame (wor tyAbort 0 (leBytes 4 epoch ++ leBytes 12 kind))
theorem wit_accept_abort : Obligations.EpochsAreFormed → (∃ t, exec .accept (received proposing acceptFrame) = .next t) ∧
    (∃ t, exec .proposeTimeout proposing = .next t) ∧ (∃ t, exec .abortFrame (received proposing (abortFrame 0 9)) = .next t) ∧
    ∃ t, exec .abortFrame (received proposing (abortFrame 1 0)) = .next t :=
  fun h => ⟨okG (met3 ((h (received proposing acceptFrame)).2.2.2.2.2.2.1 acceptFrame _ 9 3 4 [] (met2 (takes) (by decide +kernel))) (by decide +kernel)),
    ok (met4 ((h proposing).2.2.2.2.2.2.2.1 9 3 4 []) (by decide +kernel)),
    okG (met2 (((h (received proposing (abortFrame 0 9))).2.2.2.2.2.2.2.2.1 (abortFrame 0 9) _ (met2 (takes) (by decide +kernel)) (by decide +kernel)).1 (3, 4, 0, 0)) (by decide +kernel)),
    okG (met3 (((h (received proposing (abortFrame 1 0))).2.2.2.2.2.2.2.2.1 (abortFrame 1 0) _ (met2 (takes) (by decide +kernel)) (by decide +kernel)).2) (by decide +kernel))⟩

/-- An ARM of KIND 2, with a result. -/
def armFrame (r : Nat) : RxFrame := worFrame (wor tyArm 1 (leBytes 1 2 ++ leBytes 1 r))
def kindFrame (type : Nat) : RxFrame := worFrame (wor type 0 (leBytes 8 2 ++ leBytes 8 40))
def armedFw : State :=
  { inConsort.setCns { inConsort.consort with firmware := { Agreement.none with armedAt := some 0 } } with
    staged := [{ kind := .activate 3, target := 0, cmd := none, armed := false, agreed := some 2, ctick := none }] }
theorem wit_agree : Obligations.ChangesAreAgreed → (∃ t, exec .arm (received inConsort (armFrame 0)) = .next t) ∧
    (∃ t, exec .arm (received inConsort (armFrame 1)) = .next t) ∧
    (∃ t, exec .applyFrame (received armedFw (kindFrame tyApply)) = .next t) ∧
    (∃ t, exec .consortCancel (received armedFw (kindFrame tyCancel)) = .next t) ∧
    ∃ t, exec (.agreementTimeout 2) (armedFw.setFld TCK_COUNT_TICK 250) = .next t :=
  fun h => ⟨ok (met2 ((met4 ((h (received inConsort (armFrame 0))).1 (armFrame 0) _ 2 (met2 (takes) (by decide +kernel))) (by decide +kernel)).1) (by decide +kernel)),
    ok ((met4 ((h (received inConsort (armFrame 1))).1 (armFrame 1) _ 2 (met2 (takes) (by decide +kernel))) (by decide +kernel)).2 (by decide +kernel)),
    ok (met5 ((h (received armedFw (kindFrame tyApply))).2.2.1 (kindFrame tyApply) _ 2 (met2 (takes) (by decide +kernel))) (by decide +kernel)),
    ok (met4 ((h (received armedFw (kindFrame tyCancel))).2.2.2.1 (kindFrame tyCancel) _ 2 (met2 (takes) (by decide +kernel))) (by decide +kernel)),
    ok (met5 ((h (armedFw.setFld TCK_COUNT_TICK 250)).2.1 2 0) (by decide +kernel))⟩

/-- Service 2 takes stream 7 into snapshot 1; a frame of it with the first half of a tensor of 32 bytes. -/
def tensorEntry : Bytes := [1, 3, 7, 0] ++ leBytes 12 32
def tensorInput : Input :=
  { newInput (fun _ => 0) tensorEntry with bufs := [{ Buf.empty with state := .fill }, Buf.empty, Buf.empty] }
def tensorIn (s : State) : State := s.setSvc 2 { Service.reset with phase := .running, inputs := [tensorInput] }
def tensorFrame : RxFrame := worFrame (wor tyTensor 1 ([7, 0, 0, 0] ++ leBytes 4 0 ++ leBytes 8 5 ++ leBytes 4 32 ++
  leBytes 4 0 ++ leBytes 2 16 ++ leBytes 6 0 ++ leBytes 16 9))
def s_tensor (s : State) : State := received s tensorFrame
theorem wit_tensor : Obligations.ChangesAreAgreed → (∃ t, exec .tensor (s_tensor inConsort) = .next t) ∧
    (∃ t, exec .tensor (s_tensor (tensorIn rdy)) = .next t) ∧ ∃ t, exec .tensor (s_tensor (tensorIn inConsort)) = .next t :=
  fun h => ⟨okG (((h (s_tensor inConsort)).2.2.2.2.1 tensorFrame _ (met2 (takes) (by decide +kernel))).1 (by decide +kernel)),
    ok (met2 (((h (s_tensor (tensorIn rdy))).2.2.2.2.1 tensorFrame _ (met2 (takes) (by decide +kernel))).2.1) (by decide +kernel)),
    okG (met4 (((h (s_tensor (tensorIn inConsort))).2.2.2.2.1 tensorFrame _ (met2 (takes) (by decide +kernel))).2.2 2 1 tensorInput _) (by decide +kernel)
      (Prod.ext rfl (met2 (Prod.ext) (by decide +kernel))))⟩
def tensorOut : Output := newOutput (leBytes 1 3 ++ leBytes 15 kindTensorOut)
def s_tensorTx : State :=
  (inConsort.setSvc 2 { Service.reset with phase := .running, outputs := [{ tensorOut with busy := true }] }).setCns
    { inConsort.consort with toSend := [(2, 3)] }
theorem wit_tensorTx : Obligations.ChangesAreAgreed → ∃ t, exec .tensorTx s_tensorTx = .next t :=
  fun h => ok (met3 ((h s_tensorTx).2.2.2.2.2 2 3 [] { tensorOut with busy := true }) (by decide +kernel))

/-- A session 4 of this device with member 1, as the target and as the leader, and the command that it serves. -/
def session4 (leads : Bool) : Session :=
  { id := 4, leads := leads, peer := 1, cmd := 7, bytes := [], next := 8, limit := 64, sent := 32, data := leBytes 8 0, lastHeard := 0,
    lastAdvance := 0, lastCredit := 0 }
def leading : State :=
  let s := withCmd inConsort { waits opNvProgram [0, 1] with started := true }
  s.setCns { s.consort with sessions := [session4 true] }
def targeted : State :=
  let s := inConsort.setCns { inConsort.consort with sessions := [session4 false] }
  s.setNv { s.nv with erases := [{ cmd := 4 + sessionBase, slot := some 2, blocks := [], later := [], covers := [], slabs := 0, failed := false, extent := none }] }
def chainCmdFrame : RxFrame :=
  worFrame (wor tyChainCmd 1 (leBytes 8 4 ++ padTo 64 (leBytes 8 opNvProgram ++ leBytes 16 2 ++ leBytes 8 4096)))
def chainFrame (type next : Nat) : RxFrame :=
  worFrame (wor type 1 (leBytes 8 4 ++ leBytes 8 next ++ leBytes 8 4 ++ leBytes 4 9))
theorem wit_target : Obligations.ChainedSessionsRun → (∃ t, exec .chainCmd (received inConsort chainCmdFrame) = .next t) ∧
    (∃ t, exec .chainData (received targeted (chainFrame tyChainData 9)) = .next t) ∧
    (∃ t, exec .chainData (received targeted (chainFrame tyChainData 8)) = .next t) ∧
    ∃ t, exec (.chainCreditTimer 4) targeted = .next t :=
  fun h =>
    let ⟨_, _, _, _, _, _, _, a⟩ := met8 ((h (received inConsort chainCmdFrame)).1 chainCmdFrame _ (met2 (takes) (by decide +kernel))) (by decide +kernel)
    ⟨okG a, okG ((met2 ((h (received targeted (chainFrame tyChainData 9))).2.1 (chainFrame tyChainData 9) _ (session4 false) (met2 (takes) (by decide +kernel))) (by decide +kernel)).1 (by decide +kernel)),
      ok2 (met2 ((met2 ((h (received targeted (chainFrame tyChainData 8))).2.1 (chainFrame tyChainData 8) _ (session4 false) (met2 (takes) (by decide +kernel))) (by decide +kernel)).2) (by decide +kernel)),
      ok2 (met3 ((h targeted).2.2.2.2.1 4 (session4 false)) (by decide +kernel))⟩
def served : HostCmd := { waits opNvProgram [0, 1] with started := true }
theorem served_mem (s : State) (h : s.hif.accepted = [served]) : served ∈ s.hif.accepted := h ▸ List.mem_singleton_self _
theorem wit_leader : Obligations.ChainedSessionsRun →
    (∃ t, exec .chainCredit (received leading (chainFrame tyChainCredit 16)) = .next t) ∧
    (∃ t, exec .chainStatus (received leading (chainFrame tyChainStatus 0)) = .next t) ∧
    (∃ t, exec (.chainResend 4) leading = .next t) ∧ ∃ t, exec (.chainTimeout 4) leading = .next t :=
  fun h => ⟨ok2 (met3 ((h (received leading (chainFrame tyChainCredit 16))).2.2.1 (chainFrame tyChainCredit 16) _ (session4 true)
      (met2 (takes) (by decide +kernel))) (by decide +kernel)),
    ok (met2 (met3 ((h (received leading (chainFrame tyChainStatus 0))).2.2.2.1 (chainFrame tyChainStatus 0) _ (session4 true) served
      (met2 (takes) (by decide +kernel))) (by decide +kernel) (served_mem _ (by decide +kernel))) (by decide +kernel)),
    ok2 (met3 ((h leading).2.2.2.2.2.1 4 (session4 true)) (by decide +kernel)),
    ok (met2 (met2 ((h leading).2.2.2.2.2.2 4 (session4 true) served) (by decide +kernel) (served_mem _
        (by decide +kernel))) (by decide +kernel))⟩

/-! Crashes, start-up, resets -/

/-- The crash of each core that the statement tells apart, by its watchdog; a fault; a ready time that is missed. -/
def crashing (k : Nat) : State :=
  { rdy.modCore k fun x => { x with activatedAt := some 0, readyBy := some 5, crashesSince := 1 } with ticking := true }
theorem wit_crash : Obligations.ACrashedCoreRestarts → (∃ t, exec (.watchdogExpiry coreSec) rdy = .next t) ∧
    (∃ t, exec (.watchdogExpiry coreCcc) (crashing coreCcc) = .next t) ∧ (∃ t, exec (.coreFault corePmc .exec) rdy = .next t) ∧
    (∃ t, exec (.coreFault corePmc (.word true 0 3)) rdy = .next t) ∧
    ∃ t, exec (.activationReadyTimeout coreSch) (crashing coreSch) = .next t :=
  fun h => ⟨ok ((met2 (h rdy coreSec) (by decide +kernel) (noStaged
      (by decide +kernel))).1 _ 1 rdy (.inl ⟨rfl, rfl, (by decide +kernel), (by decide +kernel), rfl⟩)),
    ok ((met2 (h (crashing coreCcc) coreCcc) (by decide +kernel) (noStaged
        (by decide +kernel))).1 _ 1 (crashing coreCcc) (.inl ⟨rfl, rfl, (by decide +kernel), (by decide +kernel), rfl⟩)),
    ok ((met2 (h rdy corePmc) (by decide +kernel) (noStaged
        (by decide +kernel))).1 _ 2 rdy (.inr (.inl ⟨rfl, rfl, (by decide +kernel), rfl⟩))),
    ok ((met2 (h rdy corePmc) (by decide +kernel) (noStaged (by decide +kernel))).1 _ 3 (rdy.flipCore corePmc true 0 3)
      (.inr (.inr (.inl ⟨true, 0, 3, rfl, rfl, (by decide +kernel), rfl, (by decide +kernel)⟩)))),
    ok ((met2 (h (crashing coreSch) coreSch) (by decide +kernel) (noStaged
        (by decide +kernel))).1 _ 4 (crashing coreSch) (.inr (.inr (.inr ⟨rfl, rfl, (by decide +kernel), rfl⟩))))⟩
theorem wit_restart : Obligations.ACrashedCoreRestarts →
    (∃ t, exec (.coreRestarted corePmc) (rdy.setFw corePmc fwRestarting) = .next t) ∧
      ∃ t, exec (.coreRestarted coreSec) (rdy.setFw coreSec fwRestarting) = .next t :=
  fun h => ⟨ok (((met2 (h (rdy.setFw corePmc fwRestarting) corePmc) (by decide +kernel) (noStaged
      (by decide +kernel))).2 (by decide +kernel)).1 (.inl ⟨(by decide +kernel), nofun⟩)),
    ok (met2 (((met2 (h (rdy.setFw coreSec fwRestarting) coreSec) (by decide +kernel) (noStaged
        (by decide +kernel))).2 (by decide +kernel)).2 rfl) (by decide +kernel))⟩

def straps0 : Straps :=
  { bootSrc := 0, pcieMode := false, ethMode := true, envDefault := 2, sppEn := true, consortRole := true, eccCompat := true,
    tickSrc := true }
/-- State.reset with its rails valid, and after PORST_N has risen; in CONFIG_LOAD; released, with all else done. -/
def railed (porst : Bool) : State := State.reset.setBoot { Boot.reset with rails := true, porst := porst }
def configLoading : State := (railed true).setDev stConfigLoad
def trainable : State :=
  (List.range 11).foldl (fun s k => s.setFw k fwRunning)
    ((State.reset.setDev stReleased).setBoot { Boot.reset with releasedAt := some 0, coresUp := true, scanDone := true })
def trainedAll : State := trainable.setBoot { trainable.boot with trained := true }
theorem wit_startUp : Obligations.StartUpGoesStateByState → (∃ t, exec .railsValid State.reset = .next t) ∧
    (∃ t, exec .fuseLoadDone (railed false) = .next t) ∧ (∃ t, exec .fuseLoadDone (railed true) = .next t) ∧
    ∃ t, exec (.porstNDeassert straps0) (railed false) = .next t :=
  fun h => ⟨okG ((h State.reset).1 rfl), okG ((met4 ((h (railed false)).2.1) (by decide +kernel)).1 (by decide +kernel)),
    okS (met2 (met4 ((h (railed true)).2.1) (by decide +kernel)).2 (by decide +kernel)), ok (met3 ((h (railed false)).2.2.1 straps0) (by decide +kernel))⟩
theorem wit_release : Obligations.StartUpGoesStateByState → (∃ t, exec (.configLoadDone none none) configLoading = .next t) ∧
    (∃ t, exec (.lpddrTrainingDone 1) trainable = .next t) ∧ (∃ t, exec (.lpddrTrainingDone 0) trainable = .next t) ∧
    ∃ t, exec .ready trainedAll = .next t :=
  fun h => ⟨ok (met2 ((h configLoading).2.2.2.1 none none) (by decide +kernel)), ok ((met3 ((h trainable).2.2.2.2.1 1) (by decide +kernel)).1 (by decide +kernel)),
    okG ((met3 ((h trainable).2.2.2.2.1 0) (by decide +kernel)).2
        (by decide +kernel)), ok (met5 ((h trainedAll).2.2.2.2.2) (by decide +kernel))⟩
def scanning (read : Bool) : State :=
  (trainable.setFld NVS_STATE_PHASE nvScanning).setNv { trainable.nv with tablesRead := read }
theorem wit_scan : Obligations.TheScanReadsTheWeightStore → (∃ t, exec (.nvScan [] [] ⟨0, [], []⟩) (scanning false) = .next t) ∧
    (∃ t, exec (.nvScan [] (List.range 128) ⟨0, [], []⟩) (scanning false) = .next t ∧ t.nv.faulty = true) ∧
    ∃ t, exec .nvScanDone (scanning true) = .next t :=
  fun h =>
    have a := (h (scanning false) rfl (by decide +kernel)).1
    let ⟨t, e, _, _, b, _⟩ := met6 (a [] (List.range 128) 0 [] []) (by decide +kernel)
    ⟨ok (met6 (a [] [] 0 [] []) (by decide +kernel)), ⟨t, e, b.2 (.inr (by decide +kernel))⟩, ok ((met2 (h (scanning true)) (by decide +kernel)).2 (by decide +kernel))⟩
theorem wit_powerOn : Obligations.APowerOnResetStartsAfresh → (∃ t, exec .porstNAssert (railed true) = .next t) ∧
    ∃ t, exec (.railMonitorTrip .vddCore) rdy = .next t :=
  fun h => ⟨ok (h (railed true) _ true (.inl ⟨rfl, rfl, rfl⟩)), ok (h rdy (.railMonitorTrip .vddCore) false (.inr ⟨⟨_, rfl⟩, rfl⟩))⟩
/-- The host's link is up. -/
def hosted : State := (rdy.setFld HIF_LINK_UP 1).setHif { rdy.hif with perst := false }
def inD3 : State := hosted.setHif { hosted.hif with d3hot := true, msixPending := [0] }
def unlinked : State := (rdy.setHif { rdy.hif with perst := false }).setBoot { rdy.boot with fuseDone := true, porst := true }
theorem wit_hostResets : Obligations.TheHostInterfaceResetsAndPauses → (∃ t, exec .pciePerstAssert hosted = .next t) ∧
    (∃ t, exec .functionLevelReset hosted = .next t) ∧ (∃ t, exec .hotReset hosted = .next t) ∧
    ∃ t, exec .linkDownReset hosted = .next t :=
  fun h =>
    have a := (h hosted (by decide +kernel)).1
    ⟨ok (a _ (.inl ⟨rfl, (by decide +kernel)⟩)), ok (a _ (.inr ⟨.inl rfl,
        (by decide +kernel)⟩)), ok (a _ (.inr ⟨.inr (.inl rfl), (by decide +kernel)⟩)),
      ok (a _ (.inr ⟨.inr (.inr rfl), (by decide +kernel)⟩))⟩
theorem wit_link : Obligations.TheHostInterfaceResetsAndPauses → (∃ t, exec .pciePerstDeassert rdy = .next t) ∧
    (∃ t, exec .pcieLinkRecovery hosted = .next t) ∧ (∃ t, exec (.pcieLinkTrained 4 5) unlinked = .next t) ∧
    (∃ t, exec .d3hotEntry hosted = .next t) ∧ ∃ t, exec .d0Return inD3 = .next t :=
  fun h => ⟨okG (h rdy (by decide +kernel)).2.1, okG ((h hosted (by decide +kernel)).2.2.1
      (by decide +kernel)), ok (met4 ((h unlinked (by decide +kernel)).2.2.2.1 4 5) (by decide +kernel)).1,
    okG ((h hosted (by decide +kernel)).2.2.2.2.1 (by decide +kernel)), ok ((h inD3
        (by decide +kernel)).2.2.2.2.2 (by decide +kernel))⟩

/-! The weight store, the pool, line repair -/

/-- Slot 2 takes an image of one slab and one sector. -/
def manifest1 : Bytes := padTo 208 (leBytes 7 0 ++ [1] ++ leBytes 124 0 ++ [1])
def program1 : NvProgram :=
  { cmd := 7, slot := 2, source := 0, address := 0, key := [], payload := 0, next := 0, erase := [], resume := false,
    relocated := false, streamed := [] }
def programming : State :=
  let s := rdy.setSlot 2 { Slot.undefined with state := slProgramming, slabMask := 1, stripes := 1, manifest := manifest1 }
  s.setNv { s.nv with programs := [program1] }
theorem wit_pageProgram : Obligations.PagesAreProgrammedAndRefreshed →
    ∃ t, exec (.pageProgramStart ⟨0, []⟩ (some [])) programming = .next t :=
  fun h =>
    let ⟨t, _, e, _⟩ := met10 ((h programming (by decide +kernel)).1 0 0 0 0 (blockKey 0 0 0) program1 [] []) (by decide +kernel)
    ⟨t, e⟩
def s_programDone : State := rdy.setNv { rdy.nv with ops := [progOp] }
/-- A refresh of a block waits for its start. -/
def s_refresh : State := rdy.setNv { rdy.nv with refreshQueue := [{ block := blockKey 2 3 0, cause := 0 }] }
theorem wit_nvWork : Obligations.PagesAreProgrammedAndRefreshed → (∃ t, exec (.pageProgramDone []) s_programDone = .next t) ∧
    (∃ t, exec (.refreshStart ⟨0, []⟩) s_refresh = .next t) ∧ ∃ t, exec .tableVersionWrite rdy = .next t :=
  fun h => ⟨ok ((h s_programDone (by decide +kernel)).2.2.1 [] progOp [] rfl),
    ok ((met5 ((h s_refresh (by decide +kernel)).2.2.2.2.2.1 { block := blockKey 2 3 0, cause := 0 } (blockKey 2 3 64) ⟨0, []⟩)
      (by decide +kernel)).1 (by decide +kernel)),
    ok ((h rdy (by decide +kernel)).2.2.2.2.2.2 (by decide +kernel))⟩
/-- The same, with one page programmed in the block. -/
def s_refreshPage : State := s_refresh.setNv { s_refresh.nv with pages := [(pageKey (blockKey 2 3 0) 0, thePage)] }
theorem wit_refreshPage : Obligations.PagesAreProgrammedAndRefreshed →
    ∃ t, exec (.refreshStart ⟨8, []⟩) s_refreshPage = .next t :=
  fun h =>
    let ⟨t, _, e, _⟩ := met4 ((met5 ((h s_refreshPage (by decide +kernel)).2.2.2.2.2.1 { block := blockKey 2 3 0, cause := 0 }
      (blockKey 2 3 64) ⟨8, []⟩) (by decide +kernel)).2 0 []) (by decide +kernel)
    ⟨t, e⟩
/-- A copy whose failed page comes next: block 64 of the bank takes page 0 of block 0. -/
def aCopy : BlockCopy :=
  { source := blockKey 2 3 0, dest := blockKey 2 3 64, logical := 0, todo := [], target := some (0, 1, 9, progOp.data), slot := some 2 }
def s_copy : State := rdy.setNv { rdy.nv with copies := [aCopy] }
theorem wit_copy : Obligations.PagesAreProgrammedAndRefreshed → ∃ t, exec (.pageProgramStart ⟨0, []⟩ none) s_copy = .next t :=
  fun h =>
    let ⟨t, _, e, _⟩ := met4 (met2 ((h s_copy (by decide +kernel)).2.1 0 none [] aCopy 0) (by decide +kernel) (fun _ m => nomatch m)) (by decide +kernel)
    ⟨t, e⟩
def s_erase : State := rdy.setNv { rdy.nv with reErase := [(blockKey 2 3 0, 0, 0)] }
def aBatch : Batch := { start := 0, seq := 1, entries := [(blockKey 2 3 0, 0, 0)] }
def s_eraseDone : State := rdy.setNv { rdy.nv with batch := some aBatch }
theorem wit_batch : Obligations.PagesAreProgrammedAndRefreshed → (∃ t, exec .eraseBatchStart s_erase = .next t) ∧
    ∃ t, exec (.eraseDone []) s_eraseDone = .next t :=
  fun h => ⟨ok (met9 ((h s_erase (by decide +kernel)).2.2.2.1 (blockKey 2 3 0) 0 0) (by decide +kernel)),
    ok (met3 ((h s_eraseDone (by decide +kernel)).2.2.2.2.1 aBatch) (by decide +kernel))⟩
theorem wit_erases : Obligations.ErasesGoByJournaledBatches → (∃ t, exec .eraseBatchStart s_erase = .next t) ∧
    ∃ t, exec (.eraseDone []) s_eraseDone = .next t :=
  fun h => ⟨ok (met5 ((h s_erase (by decide +kernel)).1) (by decide +kernel)), ok (met2 ((h s_eraseDone (by decide +kernel)).2 [] aBatch) (by decide +kernel))⟩

/-- A pool range of service 2 in frame 9. -/
def poolRange (w o : PoolWhere) : PoolRange :=
  { svc := 2, range := 0, base := 0, size := 0x10000, keep := false, wherein := w, frames := [9], touched := 0, tainted := false,
    fails := 0, backing := 0, origin := o, redo := false, dying := false, life := 0 }
def withPool (r : PoolRange) : State := memRdy.setMem { memRdy.mem with pool := [r] }
theorem wit_pool : Obligations.RangesMoveAndLinesAreRepaired →
    (∃ t, exec .poolWriteBackDone (withPool (poolRange .writingBack .held)) = .next t) ∧
    (∃ t, exec (.poolRestoreDone (some [])) (withPool (poolRange .restoring .backed)) = .next t) ∧
    (∃ t, exec (.poolRestoreDone none) (withPool (poolRange .restoring .lost)) = .next t) ∧
    (∃ t, exec (.poolRestoreDone none) (withPool (poolRange .restoring .backed)) = .next t) ∧
    (∃ t, exec .poolWriteBackDone rdy = .next t) ∧ (∃ t, exec (.poolRestoreDone none) rdy = .next t) ∧
    ∃ t, exec .poolDmaFailure (withPool (poolRange .writingBack .held)) = .next t :=
  fun h =>
    have a := h (withPool (poolRange .writingBack .held)) (by decide +kernel)
    have b := h (withPool (poolRange .restoring .backed)) (by decide +kernel)
    have c := h (withPool (poolRange .restoring .lost)) (by decide +kernel)
    have d := h rdy (by decide +kernel)
    ⟨ok (a.2.1 (poolRange .writingBack .held) (by decide +kernel)),
      ok (met7 (b.2.2.2.2.1 (poolRange .restoring .backed)) (by decide +kernel) (some []) (by decide +kernel)),
      ok (met7 (c.2.2.2.2.1 (poolRange .restoring .lost)) (by decide +kernel) none (by decide +kernel)),
      ok (met2 (b.2.2.2.1 (poolRange .restoring .backed)) (by decide +kernel)), okG (d.1 (by decide +kernel)),
      okG (d.2.2.1 (by decide +kernel) none),
      ok (a.2.2.2.2.2.1 (poolRange .writingBack .held) (by decide +kernel))⟩
theorem wit_line : Obligations.RangesMoveAndLinesAreRepaired →
    ∃ t, exec .lineRepair (memRdy.setMem { memRdy.mem with repairQueue := [64] }) = .next t :=
  fun h => ok (met2 ((h (memRdy.setMem { memRdy.mem with repairQueue := [64] }) (by decide +kernel)).2.2.2.2.2.2.1 64 [])
    (by decide +kernel))

theorem wit_code : Obligations.TheWordCodeCorrectsOneAndFindsTwo → (CWord.enc 9 ⟨77, false⟩).dec 9 = (.clean, ⟨77, false⟩) :=
  fun h => (h 9 ⟨77, false⟩).1
theorem wit_k137 : Obligations.TheWordCodeIsK137 → kDecode 0x103 0 = (.corrected, 1) ∧ kDecode 0x1FF 5 = (.poison, 5) ∧
    kDecode 0x003 5 = (.uncorrectable, 5) :=
  fun h => ⟨met2 ((h.2.2.2.2.2 0x103 0).2.1 0) (by decide +kernel), (h.2.2.2.2.2 0x1FF 5).2.2.2.1 rfl, met4 ((h.2.2.2.2.2 0x003 5).2.2.2.2) (by decide +kernel)⟩

end Sys2Proof.Tests
end

section
/-! Integer requantisation (R114, R117): the rounding shift answers the one nearest integer, and an element of the integer path
without a range unit is requantised from the scale block. -/

namespace Sys2Proof.Machine

/-! ### The rounding shift -/

/-- q is the integer nearest to p / 2^s, and the even one where two are as near: twice the remainder is at most one unit, and
exactly one unit for an even q alone. -/
def NearestEven (p : Int) (s : Nat) (q : Int) : Prop :=
  -(2 ^ s) ≤ 2 * (p - q * 2 ^ s) ∧ 2 * (p - q * 2 ^ s) ≤ 2 ^ s ∧
    (2 * (p - q * 2 ^ s) = 2 ^ s ∨ 2 * (p - q * 2 ^ s) = -(2 ^ s) → q % 2 = 0)

/-- A nearest integer above another would be the next one, so both would be ties: two neighbours, both even. -/
theorem NearestEven.le {p : Int} {s : Nat} {a b : Int} (ha : NearestEven p s a) (hb : NearestEven p s b) : a ≤ b := by
  obtain ⟨alow, -, aeven⟩ := ha
  obtain ⟨-, bhigh, beven⟩ := hb
  by_cases ordered : a ≤ b
  · exact ordered
  have unit : (0 : Int) < 2 ^ s := Int.pow_pos (by decide)
  have apart : (b + 1) * 2 ^ s = b * 2 ^ s + 2 ^ s := by rw [Int.add_mul, Int.one_mul]
  have adjacent : a = b + 1 := by
    have : a ≤ b + 1 := Int.le_of_mul_le_mul_right (by omega) unit
    omega
  subst adjacent
  have aEven := aeven (.inr (by omega))
  have bEven := beven (.inl (by omega))
  omega

theorem NearestEven.unique {p : Int} {s : Nat} {a b : Int} (ha : NearestEven p s a) (hb : NearestEven p s b) : a = b :=
  Int.le_antisymm (ha.le hb) (hb.le ha)

/-- The code of R114: the floor's remainder against half a unit decides between the floor and the integer above it. -/
theorem nearestEven_rshiftRne (p : Int) (s : Nat) : NearestEven p s (rshiftRne p s) := by
  cases s with
  | zero => simp [NearestEven, rshiftRne]
  | succ n =>
    have unit : (2 : Int) ^ (n + 1) = 2 ^ n * 2 := Int.pow_succ 2 n
    have positive : (0 : Int) < 2 ^ (n + 1) := Int.pow_pos (by decide)
    have cast : ((2 ^ (n + 1) : Nat) : Int) = 2 ^ (n + 1) := Int.natCast_pow 2 (n + 1)
    have floor : p >>> (n + 1) = p / 2 ^ (n + 1) := by rw [Int.shiftRight_eq_div_pow, cast]
    have above : (p / 2 ^ (n + 1) + 1) * 2 ^ (n + 1) = p / 2 ^ (n + 1) * 2 ^ (n + 1) + 2 ^ (n + 1) := by
      rw [Int.add_mul, Int.one_mul]
    have parts := Int.ediv_mul_add_emod p (2 ^ (n + 1))
    have low := Int.emod_nonneg p (Int.ne_of_gt positive)
    have high := Int.emod_lt_of_pos p positive
    simp only [NearestEven, rshiftRne, Nat.add_one_ne_zero, if_false, Nat.add_sub_cancel, floor, Bool.or_eq_true,
      Bool.and_eq_true, decide_eq_true_eq]
    split
    · omega
    · omega

theorem rshiftRne_eq_iff (p q : Int) (s : Nat) : rshiftRne p s = q ↔ NearestEven p s q :=
  ⟨fun e => e ▸ nearestEven_rshiftRne p s, (nearestEven_rshiftRne p s).unique⟩

/-! ### The clamp and the count of saturation -/

theorem clampOut_of_crossed {out : Nat} {lo hi : Int} (t : Int) (h : min hi (outMax out) ≤ max lo (outMin out)) :
    clampOut out lo hi t = min hi (outMax out) :=
  Int.min_eq_right (Int.le_trans h (Int.le_max_right _ _))

theorem clampOut_mem_of_le {out : Nat} {lo hi : Int} (t : Int) (h : max lo (outMin out) ≤ min hi (outMax out)) :
    max lo (outMin out) ≤ clampOut out lo hi t ∧ clampOut out lo hi t ≤ min hi (outMax out) :=
  ⟨Int.le_min.2 ⟨Int.le_max_right _ _, h⟩, Int.min_le_right _ _⟩

theorem outSat_eq_true_iff (out : Nat) (t : Int) :
    outSat out t = true ↔ if out = 0 then t < -128 ∨ 127 < t else t < -32768 ∨ 32767 < t := by
  unfold outSat outMin outMax
  split <;> simp only [Bool.or_eq_true, decide_eq_true_eq]

/-! ### An element of the integer path (R113) -/

theorem outBits_of_integer {out : Nat} (h : out = 0 ∨ out = 1) : outBits out = if out = 0 then 8 else 16 := by
  obtain rfl | rfl := h <;> rfl

/-- An element of no range unit takes its multiplier, shift and zero point from the scale block. -/
theorem LkaJob.elem_out_of_notInUnit (j : LkaJob) (b sp : Nat) (k : ScaleBlock) (units : List RangeUnit) (r o : Nat)
    (acc rs : Int) (wide : Nat) (mark : Bool) (hk : k.float = false) (hout : k.out = 0 ∨ k.out = 1)
    (hu : j.inUnit o = false) :
    (j.elem b sp k units r o acc rs wide mark).out =
      some (rqIntBits k.out k.lo k.hi (sat32 (acc - k.zw * rs - k.ct.getD o 0)) (k.m.getD o 0) (k.sh.getD o 0)
        (k.zo.getD o 0)).1 := by
  have integer : k.out ≤ 1 := by omega
  simp [LkaJob.elem, hk, hu, integer]

/-! ### The obligation -/

/-- Settles O38: the rounding shift from `rshiftRne_eq_iff`, the rest from the clamp's order and the element's equation. -/
theorem integerRequantisation : Obligations.IntegerRequantisation := by
  unfold Obligations.IntegerRequantisation
  refine ⟨rshiftRne_eq_iff, fun out lo hi t _ => ?clamp, fun out lo hi x m zo sh _ => ?requantised,
    fun j b sp k units r o acc rs wide mark hk hout hu => ?element⟩
  case clamp => exact ⟨rfl, clampOut_of_crossed t, clampOut_mem_of_le t⟩
  case requantised => exact ⟨rfl, outSat_eq_true_iff out _⟩
  case element =>
    rw [j.elem_out_of_notInUnit b sp k units r o acc rs wide mark hk hout hu, rqIntBits, outBits_of_integer hout]

end Sys2Proof.Machine
end

section
/-! The word code K137 (R307, R308): words and their bytes, the weight of a value, the columns, the check bits and what a decode
finds for each syndrome. -/

namespace Sys2Proof

/-! ### Words and bytes -/

theorem getD_leBytes {n b : Nat} (v : Nat) (h : b < n) : (leBytes n v).getD b 0 = BitVec.ofNat 8 (v >>> (8 * b)) := by
  induction n generalizing b v with
  | zero => omega
  | succ n ih =>
    cases b with
    | zero => simp [leBytes]
    | succ b =>
      rw [leBytes, List.getD_cons_succ, ih _ (by omega), ← Nat.shiftRight_add]
      congr 2
      omega

theorem leNat_leBytes (n v : Nat) : leNat (leBytes n v) = v % 2 ^ (8 * n) := by
  induction n generalizing v with
  | zero => simp [leBytes, leNat, Nat.mod_one]
  | succ n ih =>
    rw [leBytes, leNat, ih, BitVec.toNat_ofNat, Nat.shiftRight_eq_div_pow, Nat.mul_succ, Nat.add_comm (8 * n), Nat.pow_add,
      Nat.mod_mul]

theorem getD_bytes128 {b : Nat} (d : QWord) (h : b < 16) : (bytes128 d).getD b 0 = d.extractLsb' (8 * b) 8 :=
  getD_leBytes d.toNat h

theorem words128_bytes128 (d : QWord) : words128 (bytes128 d) = [d] := by
  have whole : (bytes128 d).take 16 = bytes128 d := List.take_of_length_le (by simp)
  have value : BitVec.ofNat 128 (leNat (bytes128 d)) = d := by
    rw [bytes128, leNat_leBytes, Nat.mod_eq_of_lt d.isLt, BitVec.ofNat_toNat, BitVec.setWidth_eq]
  simp only [words128, bytes128_length, words128Go, whole, value]

/-! ### The weight of a value -/

theorem popCount_succ (n v : Nat) : popCount (n + 1) v = popCount n v + (v.testBit n).toNat := by
  cases h : v.testBit n <;> simp [popCount, bitList, List.range_succ, h]

theorem eq_of_xor_eq_zero {a b : Nat} (h : a ^^^ b = 0) : a = b := by
  rw [← Nat.xor_zero a, ← Nat.xor_self b, ← Nat.xor_assoc, h, Nat.zero_xor]

/-- Each bit of an XOR is set in one of the two or in both, so the weights' parities add. -/
theorem popCount_xor_mod_two (n a b : Nat) : popCount n (a ^^^ b) % 2 = (popCount n a + popCount n b) % 2 := by
  induction n with
  | zero => rfl
  | succ n ih =>
    simp only [popCount_succ, Nat.testBit_xor]
    have parity : (a.testBit n ^^ b.testBit n).toNat % 2 = ((a.testBit n).toNat + (b.testBit n).toNat) % 2 := by
      cases a.testBit n <;> cases b.testBit n <;> rfl
    omega

/-- A value of weight 1 is a power of two. -/
theorem eq_two_pow_of_popCount_eq_one {n v : Nat} (hv : v < 2 ^ n) (h : popCount n v = 1) : ∃ j, j < n ∧ v = 2 ^ j := by
  obtain ⟨j, single⟩ := List.length_eq_one_iff.1 h
  have bit (i : Nat) : i < n ∧ v.testBit i = true ↔ i = j := by
    simpa [bitList] using congrArg (i ∈ ·) single
  refine ⟨j, ((bit j).2 rfl).1, Nat.eq_of_testBit_eq fun i => ?_⟩
  have below (set : v.testBit i = true) : i < n :=
    (Nat.pow_lt_pow_iff_right (a := 2) (by decide)).1 (Nat.lt_of_le_of_lt (Nat.ge_two_pow_of_testBit set) hv)
  rw [Nat.testBit_two_pow, Bool.eq_iff_iff, decide_eq_true_iff, eq_comm (a := j), ← bit i]
  exact ⟨fun set => ⟨below set, set⟩, And.right⟩

theorem popCount_two_pow (n j : Nat) : popCount n (2 ^ j) = if j < n then 1 else 0 := by
  induction n with
  | zero => rfl
  | succ n ih =>
    rw [popCount_succ, ih, Nat.testBit_two_pow]
    by_cases set : j = n
    · simp [set]
    · simp [set, show j < n + 1 ↔ j < n by omega]

namespace Machine

/-! ### The columns -/

/-- The 137 columns: of the data bits, then of the check bits. -/
def kAllCols : List Nat := kCols ++ (List.range 9).map (2 ^ ·)

/-- R307's double loop. -/
theorem kCols_eq_byWeight : kCols = (([2, 3, 4].flatMap fun w =>
    ((List.range 256).filter fun v => popCount 8 v = w).map fun v => if w % 2 = 1 then v else v + 256).take 128) := by
  decide +kernel

@[simp] theorem kCols_length : kCols.length = 128 := by decide +kernel

theorem kCols_lowBits_nodup : (kCols.map (· % 256)).Nodup := by decide +kernel

theorem lowWeight_ne_one_of_mem_kCols : ∀ c ∈ kCols, lowWeight c ≠ 1 := by decide +kernel

theorem kAllCols_nodup : kAllCols.Nodup := by decide +kernel

theorem kCols_nodup : kCols.Nodup := (List.nodup_append.1 kAllCols_nodup).1

theorem popCount_odd_of_mem_kAllCols : ∀ c ∈ kAllCols, popCount 9 c % 2 = 1 := by decide +kernel

theorem mem_kAllCols_of_mem_kCols {c : Nat} (h : c ∈ kCols) : c ∈ kAllCols := List.mem_append_left _ h

theorem two_pow_mem_kAllCols {j : Nat} (h : j < 9) : 2 ^ j ∈ kAllCols :=
  List.mem_append_right _ (List.mem_map_of_mem (List.mem_range.2 h))

theorem two_pow_notMem_kCols {j : Nat} (h : j < 9) : 2 ^ j ∉ kCols := fun mem => by
  obtain ⟨-, -, apart⟩ := List.nodup_append.1 kAllCols_nodup
  exact apart _ mem _ (List.mem_map_of_mem (List.mem_range.2 h)) rfl

theorem poison_notMem_kAllCols : 0x1FF ∉ kAllCols := by decide +kernel

/-- Two columns XOR to a value of even weight, and every column is odd. -/
theorem xor_notMem_kAllCols {a b : Nat} (ha : a ∈ kAllCols) (hb : b ∈ kAllCols) : a ^^^ b ∉ kAllCols := by
  intro mem
  have even := popCount_xor_mod_two 9 a b
  have odd := popCount_odd_of_mem_kAllCols _ mem
  have oddA := popCount_odd_of_mem_kAllCols a ha
  have oddB := popCount_odd_of_mem_kAllCols b hb
  omega

/-! ### The check bits -/

/-- Bit j of a fold is the XOR of the value's bits whose columns have bit j. -/
theorem testBit_kFold (cols : List Nat) (d a j : Nat) :
    (kFold cols d a).testBit j =
      ((List.range cols.length).filter fun i => (cols.getD i 0).testBit j).foldl (fun x i => x ^^ d.testBit i) (a.testBit j) := by
  induction cols generalizing d a with
  | nil => rfl
  | cons c r ih =>
    have rest (x : Bool) : ((List.range r.length).map Nat.succ |>.filter fun i => ((c :: r).getD i 0).testBit j).foldl
        (fun x i => x ^^ d.testBit i) x =
          ((List.range r.length).filter fun i => (r.getD i 0).testBit j).foldl (fun x i => x ^^ (d / 2).testBit i) x := by
      simp [List.filter_map, List.foldl_map, Function.comp_def, Nat.testBit_succ]
    have first : (if d % 2 = 1 then a ^^^ c else a).testBit j = (a.testBit j ^^ (c.testBit j && d.testBit 0)) := by
      by_cases odd : d % 2 = 1
      · simp [odd, Nat.testBit_zero]
      · simp [odd, Nat.testBit_zero]
    rw [kFold, ih, first, List.length_cons, List.range_succ_eq_map, List.filter_cons, List.getD_cons_zero]
    cases c.testBit j
    · simp only [Bool.false_and, Bool.xor_false, Bool.false_eq_true, if_false, rest]
    · simp only [Bool.true_and, if_true, List.foldl_cons, rest]

theorem getLsbD_kCheck {j : Nat} (d : QWord) (h : j < 9) : (kCheck d).getLsbD j =
    ((List.range 128).filter fun i => (kCols.getD i 0).testBit j).foldl (fun a i => a ^^ d.getLsbD i) false := by
  rw [kCheck, BitVec.getLsbD_ofNat, testBit_kFold, Nat.zero_testBit, kCols_length, decide_eq_true h, Bool.true_and]
  rfl

/-! ### What a decode finds -/

theorem colIndex_eq_none {l : List Nat} {s : Nat} (h : s ∉ l) (i : Nat) : colIndex l s i = none := by
  induction l generalizing i with
  | nil => rfl
  | cons c r ih =>
    obtain ⟨head, tail⟩ := not_or.1 (mt List.mem_cons.2 h)
    rw [colIndex, if_neg (Ne.symm head), ih tail]

/-- In a list of distinct values the search finds each at its place. -/
theorem colIndex_getElem {l : List Nat} (distinct : l.Nodup) (i k : Nat) (h : k < l.length) :
    colIndex l l[k] i = some (i + k) := by
  induction l generalizing i k with
  | nil => cases h
  | cons c r ih =>
    obtain ⟨apart, rest⟩ := List.nodup_cons.1 distinct
    cases k with
    | zero => rw [List.getElem_cons_zero, colIndex, if_pos rfl, Nat.add_zero]
    | succ k =>
      have inRest : k < r.length := Nat.lt_of_succ_lt_succ h
      have later : c ≠ r[k] := fun same => apart (same ▸ List.getElem_mem inRest)
      rw [List.getElem_cons_succ, colIndex, if_neg later, ih rest (i + 1) k inRest, Nat.add_right_comm, Nat.add_assoc]

theorem kDecode_zero (d : QWord) : kDecode 0 d = (.clean, d) := rfl

theorem kDecode_poison (d : QWord) : kDecode 0x1FF d = (.poison, d) := rfl

theorem kDecode_of_colIndex_eq_some {syn : BitVec 9} {i : Nat} (clean : syn ≠ 0) (poison : syn ≠ 0x1FF)
    (h : colIndex kCols syn.toNat 0 = some i) (d : QWord) :
    kDecode syn d = (.corrected, d ^^^ BitVec.ofNat 128 (2 ^ i)) := by
  simp only [kDecode, if_neg clean, if_neg poison, h, Nat.one_shiftLeft]

theorem kDecode_of_colIndex_eq_none {syn : BitVec 9} (clean : syn ≠ 0) (poison : syn ≠ 0x1FF)
    (h : colIndex kCols syn.toNat 0 = none) (d : QWord) :
    kDecode syn d = if popCount 9 syn.toNat = 1 then (.corrected, d) else (.uncorrectable, d) := by
  simp only [kDecode, if_neg clean, if_neg poison, h]

theorem ne_zero_of_mem_kAllCols {syn : BitVec 9} (h : syn.toNat ∈ kAllCols) : syn ≠ 0 := by
  rintro rfl
  exact absurd (popCount_odd_of_mem_kAllCols _ h) (by decide)

theorem ne_poison_of_mem_kAllCols {syn : BitVec 9} (h : syn.toNat ∈ kAllCols) : syn ≠ 0x1FF := by
  rintro rfl
  exact poison_notMem_kAllCols h

theorem kDecode_column {syn : BitVec 9} {i : Nat} (hi : i < 128) (h : syn.toNat = kCols.getD i 0) (d : QWord) :
    kDecode syn d = (.corrected, d ^^^ BitVec.ofNat 128 (2 ^ i)) := by
  rw [← kCols_length] at hi
  rw [← List.getElem_eq_getD (h := hi)] at h
  have mem : syn.toNat ∈ kCols := h ▸ List.getElem_mem hi
  have place : colIndex kCols syn.toNat 0 = some i := by
    rw [h, colIndex_getElem kCols_nodup, Nat.zero_add]
  have column := mem_kAllCols_of_mem_kCols mem
  exact kDecode_of_colIndex_eq_some (ne_zero_of_mem_kAllCols column) (ne_poison_of_mem_kAllCols column) place d

theorem kDecode_checkBit {syn : BitVec 9} {j : Nat} (hj : j < 9) (h : syn.toNat = 2 ^ j) (d : QWord) :
    kDecode syn d = (.corrected, d) := by
  have column : syn.toNat ∈ kAllCols := h ▸ two_pow_mem_kAllCols hj
  have noData : colIndex kCols syn.toNat 0 = none := colIndex_eq_none (h ▸ two_pow_notMem_kCols hj) 0
  rw [kDecode_of_colIndex_eq_none (ne_zero_of_mem_kAllCols column) (ne_poison_of_mem_kAllCols column) noData,
    h, popCount_two_pow, if_pos hj, if_pos rfl]

theorem kDecode_other {syn : BitVec 9} (clean : syn ≠ 0) (poison : syn ≠ 0x1FF)
    (noData : ∀ i, i < 128 → syn.toNat ≠ kCols.getD i 0) (noCheck : ∀ j, j < 9 → syn.toNat ≠ 2 ^ j) (d : QWord) :
    kDecode syn d = (.uncorrectable, d) := by
  have notMem : syn.toNat ∉ kCols := fun mem => by
    obtain ⟨i, hi, column⟩ := List.getElem_of_mem mem
    exact noData i hi (by rw [← List.getElem_eq_getD (h := hi), column])
  have weight : popCount 9 syn.toNat ≠ 1 := fun one => by
    obtain ⟨j, hj, power⟩ := eq_two_pow_of_popCount_eq_one syn.isLt one
    exact noCheck j hj power
  rw [kDecode_of_colIndex_eq_none clean poison (colIndex_eq_none notMem 0), if_neg weight]

/-- Settles O59: the columns by computation and by the parity of their weights, the check bits from `testBit_kFold`, each syndrome
from its equation of `kDecode`. -/
theorem theWordCodeIsK137 : Obligations.TheWordCodeIsK137 := by
  unfold Obligations.TheWordCodeIsK137
  refine ⟨fun d => ⟨words128_bytes128 d, fun b hb => getD_bytes128 d hb⟩,
    ⟨kCols_eq_byWeight, kCols_length, fun c hc => ⟨?odd, lowWeight_ne_one_of_mem_kCols c hc⟩, kCols_lowBits_nodup⟩,
    ⟨kAllCols_nodup, fun a ha b hb apart => ⟨mt eq_of_xor_eq_zero apart, xor_notMem_kAllCols ha hb⟩⟩,
    fun d j hj => getLsbD_kCheck d hj, fun w c => ?read, fun syn d => ⟨?clean, ?column, ?checkBit, ?poison, ?other⟩⟩
  case odd => exact popCount_odd_of_mem_kAllCols c (mem_kAllCols_of_mem_kCols hc)
  case read => rw [CWord.dec, BitVec.xor_assoc, BitVec.xor_comm (kCheck c.data), ← BitVec.xor_assoc]
  case clean => rintro rfl; exact kDecode_zero d
  case column => exact fun i hi h => kDecode_column hi h d
  case checkBit => exact fun j hj h => kDecode_checkBit hj h d
  case poison => rintro rfl; exact kDecode_poison d
  case other => exact fun clean poison noData noCheck => kDecode_other clean poison noData noCheck d

end Machine
end Sys2Proof
end

section
/-! Boundary scan and the test access port (R536, R580, R581): the instructions that drive pads are closed in service and act as
BYPASS there, and act as themselves everywhere else. -/

namespace Sys2Proof.Machine

/-! ### The test access port -/

theorem State.jtagTake_of_ne_idcode {s : State} {i : Nat} (h : i ≠ jtIdcode) :
    s.jtagTake i = s.setBoot { s.boot with jtag := i } := if_neg h

theorem State.jtagDrive_of_closed {s : State} (i : Nat) (h : s.scanClosed = true) : s.jtagDrive i = s.jtagTake jtBypass :=
  congrArg s.jtagTake (if_pos h)

theorem State.jtagDrive_of_open {s : State} (i : Nat) (h : s.scanClosed = false) : s.jtagDrive i = s.jtagTake i :=
  congrArg s.jtagTake (if_neg (by simp [h]))

@[simp] theorem State.fresh_scanClosed (s : State) : s.fresh.scanClosed = s.scanClosed := (rfl)

theorem State.scanClosed_eq_true_iff (s : State) :
    s.scanClosed = true ↔ s.boot.porst = true ∧ s.bit ID_STRAPS_SPP_EN = true := Bool.and_eq_true_iff

theorem State.scanClosed_eq_false_iff (s : State) :
    s.scanClosed = false ↔ s.boot.porst = false ∨ s.bit ID_STRAPS_SPP_EN = false := Bool.and_eq_false_iff

/-! ### The commands -/

theorem exec_bypass (s : State) : exec .bypass s = actAlways s fun s => s.jtagTake jtBypass := by rfl
theorem exec_extest (s : State) : exec .extest s = actAlways s fun s => s.jtagDrive jtExtest := by rfl
theorem exec_clamp (s : State) : exec .clamp s = actAlways s fun s => s.jtagDrive jtClamp := by rfl
theorem exec_highz (s : State) : exec .highz s = actAlways s fun s => s.jtagDrive jtHighz := by rfl

/-- An effect that takes a test instruction other than IDCODE leaves that instruction in the port and changes nothing else. -/
theorem Gives.of_jtagTake {c : Instr} {s : State} {i : Nat} {f : State → State} (he : exec c s = actAlways s f)
    (hf : f s.fresh = s.fresh.jtagTake i) (hi : i ≠ jtIdcode) : Gives c s (s.setBoot { s.boot with jtag := i }) := by
  refine .of_always he ?_ rfl
  rw [hf, State.jtagTake_of_ne_idcode hi]
  exact .fresh (s.setBoot { s.boot with jtag := i })

section
variable {c : Instr} {s : State} {i : Nat} (he : exec c s = actAlways s fun s => s.jtagDrive i)
include he

theorem exec_eq_bypass_of_closed (h : s.scanClosed = true) : exec c s = exec .bypass s := by
  rw [he, exec_bypass, actAlways_eq, actAlways_eq, State.jtagDrive_of_closed i (s.fresh_scanClosed.trans h)]

theorem gives_bypass_of_closed (h : s.scanClosed = true) : Gives c s (s.setBoot { s.boot with jtag := jtBypass }) :=
  .of_jtagTake he (State.jtagDrive_of_closed i (s.fresh_scanClosed.trans h)) (by decide)

theorem gives_self_of_open (h : s.scanClosed = false) (hi : i ≠ jtIdcode) :
    Gives c s (s.setBoot { s.boot with jtag := i }) :=
  .of_jtagTake he (State.jtagDrive_of_open i (s.fresh_scanClosed.trans h)) hi

end

theorem exec_eq_jtagDrive {c : Instr} (hc : c = .extest ∨ c = .clamp ∨ c = .highz) (s : State) :
    ∃ i, exec c s = actAlways s fun s => s.jtagDrive i := by
  obtain rfl | rfl | rfl := hc
  · exact ⟨jtExtest, exec_extest s⟩
  · exact ⟨jtClamp, exec_clamp s⟩
  · exact ⟨jtHighz, exec_highz s⟩

/-! ### The obligation -/

/-- Settles O33: all three drive the port through `State.jtagDrive`, which takes BYPASS where the scan is closed and the
instruction itself where it is open. -/
theorem scanIsClosedInService : Obligations.ScanIsClosedInService := by
  unfold Obligations.ScanIsClosedInService
  refine fun c s hc => ⟨fun deasserted enabled => ?closed, fun notInService => ?isOpen⟩
  case closed =>
    have closed := s.scanClosed_eq_true_iff.2 ⟨deasserted, enabled⟩
    obtain ⟨i, he⟩ := exec_eq_jtagDrive hc s
    exact ⟨exec_eq_bypass_of_closed he closed, gives_bypass_of_closed he closed⟩
  case isOpen =>
    have scanOpen := s.scanClosed_eq_false_iff.2 notInService
    refine ⟨?extest, ?clamp, ?highz⟩
    case extest => rintro rfl; exact gives_self_of_open (exec_extest s) scanOpen (by decide)
    case clamp => rintro rfl; exact gives_self_of_open (exec_clamp s) scanOpen (by decide)
    case highz => rintro rfl; exact gives_self_of_open (exec_highz s) scanOpen (by decide)

end Sys2Proof.Machine
end
